-- ==== Sys2Proof/Word.lean ====
section
/-! DEFINITION. The words the machine is made of (file 00 R6: multi-byte values are little-endian). -/

namespace Sys2Proof

/-- One byte of a memory. -/
abbrev Byte := BitVec 8

/-- One 32-bit register (R229). -/
abbrev Word := BitVec 32

/-- A 64-bit value: an instruction word (R226), an address pair (R13), a format record (R71). -/
abbrev Dword := BitVec 64

/-- One bit for each of the 128 lanes a warp can have, lane l at bit l (R174, R179). -/
abbrev Lanes := BitVec 128

end Sys2Proof
end

