-- ==== Sys2Proof/Syntax.lean ====
section
/-! DEFINITION. Instructions as data: the six word formats of file 09, field by field, and one
constructor of Instr per row of the table. A field holds the bits the word holds (R226 to R239), so
decoding loses nothing and a reserved bit set by a program reaches the checks of R241. -/

namespace Sys2Proof

/-- The guard of the top 14 bits (R228, Table 9.1). -/
structure Guard where
  /-- bit [55]: a guard applies -/
  enable : Bool
  /-- bit [54]: lanes whose mask bit is 0 execute -/
  negate : Bool
  /-- bits [53:50]: guard mask register -/
  mask : BitVec 4
  deriving DecidableEq, Repr

/-- Format R (R231, Table 9.3). -/
structure FmtR where
  /-- bits [55:50] -/
  guard : Guard
  /-- bits [49:42]: destination -/
  d : BitVec 8
  /-- bits [41:34]: source A -/
  a : BitVec 8
  /-- bits [33:26]: source B -/
  b : BitVec 8
  /-- bits [25:18]: source C, or selector -/
  c : BitVec 8
  /-- bits [17:14]: format slot or integer type code -/
  f : BitVec 4
  /-- bits [13:8]: A neg, A abs, B neg, B abs, C neg, C abs, from bit 8 up -/
  mod : BitVec 6
  /-- bits [7:5]: empty-action of A, B, C, from bit 5 up -/
  ea : BitVec 3
  /-- bits [4:3]: clamp -/
  clamp : BitVec 2
  /-- bits [2:0]: destination scale -/
  sc : BitVec 3
  deriving DecidableEq, Repr

/-- Format I (R234) with its extension word, present when X = 1. -/
structure FmtI where
  /-- bits [55:50] -/
  guard : Guard
  /-- bits [49:42] -/
  d : BitVec 8
  /-- bits [41:34] -/
  a : BitVec 8
  /-- bits [33:30] -/
  f : BitVec 4
  /-- bit [29] -/
  abs : Bool
  /-- bit [28] -/
  neg : Bool
  /-- bit [27] -/
  ea : Bool
  /-- bits [26:25] -/
  clamp : BitVec 2
  /-- bits [23:0] -/
  imm : BitVec 24
  /-- the imm32 or imm64 word; present exactly when X, bit [24], is 1 -/
  ext : Option Dword
  deriving DecidableEq, Repr

/-- Format M (R235, Table 9.7) with its offset word, present when X = 1. -/
structure FmtM where
  /-- bits [55:50] -/
  guard : Guard
  /-- bits [49:42] -/
  data : BitVec 8
  /-- bits [41:34] -/
  base : BitVec 8
  /-- bits [33:26] -/
  index : BitVec 8
  /-- bit [25] -/
  indexEnable : Bool
  /-- bits [24:23] -/
  scale : BitVec 2
  /-- bits [22:20] -/
  space : BitVec 3
  /-- bits [19:16] -/
  size : BitVec 4
  /-- bits [15:12] -/
  f : BitVec 4
  /-- bits [11:9] -/
  order : BitVec 3
  /-- bits [8:7] -/
  scope : BitVec 2
  /-- bits [6:5] -/
  hint : BitVec 2
  /-- bit [4] -/
  ea : Bool
  /-- bits [2:0] -/
  count : BitVec 3
  /-- the offset word; present exactly when X, bit [3], is 1 -/
  ext : Option Dword
  deriving DecidableEq, Repr

/-- Format M with the operand word of `atom`, `red`, `cas` and `cpa` (R236), which stands before the
offset word (R226). -/
structure FmtMO where
  /-- the format M word and its offset word -/
  m : FmtM
  /-- the operand word, Table 9.8 -/
  operand : Dword
  deriving DecidableEq, Repr

/-- Format C (R237, Table 9.9). -/
structure FmtC where
  /-- bits [55:50] -/
  guard : Guard
  /-- bits [49:18] -/
  offset : BitVec 32
  /-- bits [17:14] -/
  mask : BitVec 4
  /-- bits [13:10] -/
  site : BitVec 4
  /-- bits [9:0] -/
  low : BitVec 10
  deriving DecidableEq, Repr

/-- `switch`: format C with its case words (R237, R260). -/
structure FmtCS where
  /-- the format C word -/
  c : FmtC
  /-- the case words, two cases each -/
  cases : List Dword
  deriving DecidableEq, Repr

/-- Format X (R238, Table 9.10). -/
structure FmtX where
  /-- bits [55:50] -/
  guard : Guard
  /-- bits [49:44]: tile -/
  z : BitVec 6
  /-- bits [43:36]: a register field naming a scalar register -/
  base : BitVec 8
  /-- bits [35:34] -/
  bank : BitVec 2
  /-- bits [33:30] -/
  f : BitVec 4
  /-- bits [29:26] -/
  planes : BitVec 4
  /-- bit [25] -/
  sparse : Bool
  /-- bits [24:22] -/
  k : BitVec 3
  /-- bit [21]: the convergence register is used -/
  useK : Bool
  /-- bits [20:19] -/
  acc : BitVec 2
  /-- bits [18:0] -/
  low : BitVec 19
  deriving DecidableEq, Repr

/-- Format S (R239, Table 9.11). -/
structure FmtS where
  /-- bits [55:50] -/
  guard : Guard
  /-- bits [49:42] -/
  d : BitVec 8
  /-- bits [41:34] -/
  a : BitVec 8
  /-- bits [33:18] -/
  sel : BitVec 16
  /-- bits [17:10] -/
  b : BitVec 8
  /-- bits [9:2] -/
  c : BitVec 8
  /-- bits [1:0] -/
  o : BitVec 2
  deriving DecidableEq, Repr

/-- What an access asks of a translation (R17, R18; the kinds of Table 1.7). -/
inductive Access where
  /-- load, prefetch, monitor arming -/
  | read
  /-- store -/
  | write
  /-- instruction fetch -/
  | execute
  /-- atomic, `cas`, transaction: needs both R and W -/
  | atomic
  /-- source page of an engine job -/
  | engineRead
  /-- destination page of an engine job -/
  | engineWrite
  deriving DecidableEq, Repr

/-- How a bring-up goes (R466). The spec leaves open which step fails or lasts, so the event says. -/
inductive BringUp where
  /-- every step completes and READY is set -/
  | completes
  /-- the step stops bring-up with this error code of Table 24.1 -/
  | fails (step error : Nat)
  /-- the step is still running -/
  | lasts (step : Nat)
  deriving DecidableEq, Repr

/-- The instructions of Table 9.12 and the other steps of the device, one constructor per row of
spec/opcode_table.json: the instructions, the steps the device takes, then the inputs from outside. -/
inductive Instr where
  /-- R259, opcode 0x01: Changes no state, whether or not a guard applies. -/
  | nop (f : FmtC)
  /-- R259, opcode 0x02: Moves each executing lane to pc + 8 × offset, and the split divides by distinct targets. -/
  | bra (f : FmtC)
  /-- R259, opcode 0x03: Moves each executing lane to a target formed from the offset plus a register value, modulo 2^57. -/
  | brx (f : FmtC)
  /-- R259, opcode 0x04: Branches like bra and writes pc + 8 to a vector pair in each executing lane. -/
  | call (f : FmtC)
  /-- R259, opcode 0x05: Moves each executing lane to the 64-bit target held in its vector pair, after the target checks of R237. -/
  | ret (f : FmtC)
  /-- R260, opcode 0x06: Sends each executing lane to the lowest case that matches its selector, or to the default, dividing the split into at most nine splits. -/
  | switch (f : FmtCS)
  /-- R182, opcode 0x07: Writes the executing split's active mask into mask register m and clears every other bit of m. -/
  | rset (f : FmtC)
  /-- R182, opcode 0x08: Parks the split's lanes that are in m until every live lane of m waits at the same rwait; the other lanes continue. -/
  | rwait (f : FmtC)
  /-- R182, opcode 0x09: Clears the executing split's active lanes in m. -/
  | rleave (f : FmtC)
  /-- R262, opcode 0x0A: Restarts the split's ready time so that other ready splits are chosen first. -/
  | yield (f : FmtC)
  /-- R264, opcode 0x0B: Ends every executing lane and records a successor index for the work-group. -/
  | exit (f : FmtC)
  /-- R263, opcode 0x0C: Closes the split's idempotent region and opens a new one at pc + 8, recording the counter and the stochastic counts. -/
  | region (f : FmtC)
  /-- R265, opcode 0x0D: Enters the launches named by descriptors into queue q in ascending lane order and writes each status to D. -/
  | launch (f : FmtS)
  /-- R392, opcode 0x0E: Raises an immediate software trap carrying a code when at least one lane executes. -/
  | trap (f : FmtC)
  /-- R392, opcode 0x0F: Raises an immediate breakpoint trap, which is also reported to an attached debugger. -/
  | bkpt (f : FmtC)
  /-- R250, opcode 0x10: Adds integer elements of type T, wrapping modulo 2^n. -/
  | iadd (f : FmtR)
  /-- R250, opcode 0x11: Subtracts integer elements, wrapping modulo 2^n. -/
  | isub (f : FmtR)
  /-- R250, opcode 0x12: Writes the low n bits of each element product. -/
  | imul (f : FmtR)
  /-- R250, opcode 0x13: Writes the high n bits of each exact 2n-bit element product. -/
  | imulh (f : FmtR)
  /-- R250, opcode 0x14: Writes the low n bits of a × b + c for each element. -/
  | imad (f : FmtR)
  /-- R251, opcode 0x15: Divides elements, rounding toward zero, with defined results for division by zero and overflow; D is empty until written. -/
  | idiv (f : FmtR)
  /-- R251, opcode 0x16: Writes the remainder of each element division, with the sign of a; D is empty until written. -/
  | irem (f : FmtR)
  /-- R250, opcode 0x17: Writes the lesser of each element pair, compared as T. -/
  | imin (f : FmtR)
  /-- R250, opcode 0x18: Writes the greater of each element pair, compared as T. -/
  | imax (f : FmtR)
  /-- R250, opcode 0x19: Writes the wrapped absolute value of each signed element. -/
  | iabs (f : FmtR)
  /-- R250, opcode 0x1A: Writes the wrapped negation of each element. -/
  | ineg (f : FmtR)
  /-- R250, opcode 0x1B: Reinterprets each element with the opposite signedness and clamps it to the range of T. -/
  | isat (f : FmtR)
  /-- R250, opcode 0x1C: Adds elements, saturating to the range of T. -/
  | iadds (f : FmtR)
  /-- R250, opcode 0x1D: Subtracts elements, saturating to the range of T. -/
  | isubs (f : FmtR)
  /-- R252, opcode 0x1E: Sets or clears bit l of a mask register from an integer comparison in each executing lane. -/
  | icmp (f : FmtR)
  /-- R253, opcode 0x1F: Adds two 128-bit quads modulo 2^128. -/
  | qadd (f : FmtR)
  /-- R254, opcode 0x20: Writes the bitwise AND of its operands. -/
  | and (f : FmtR)
  /-- R254, opcode 0x21: Writes the bitwise OR of its operands. -/
  | or (f : FmtR)
  /-- R254, opcode 0x22: Writes the bitwise XOR of its operands. -/
  | xor (f : FmtR)
  /-- R254, opcode 0x23: Writes a AND NOT b. -/
  | andn (f : FmtR)
  /-- R254, opcode 0x24: Writes the bitwise complement of a. -/
  | not (f : FmtR)
  /-- R254, opcode 0x25: Shifts each element left by its count, giving 0 when the count is n or more. -/
  | shl (f : FmtR)
  /-- R254, opcode 0x26: Shifts each element right, with zeros entering. -/
  | shr (f : FmtR)
  /-- R254, opcode 0x27: Shifts each element right, with copies of its top bit entering. -/
  | sar (f : FmtR)
  /-- R254, opcode 0x28: Rotates each element left by its count modulo n. -/
  | rol (f : FmtR)
  /-- R255, opcode 0x29: Extracts a bit field and sign- or zero-extends it. -/
  | bfx (f : FmtR)
  /-- R255, opcode 0x2A: Inserts the low bits of A into a bit field of D. -/
  | bfi (f : FmtR)
  /-- R254, opcode 0x2B: Writes the number of 1 bits of each element. -/
  | popc (f : FmtR)
  /-- R254, opcode 0x2C: Writes the number of leading zero bits of each element. -/
  | clz (f : FmtR)
  /-- R254, opcode 0x2D: Writes the number of trailing zero bits of each element. -/
  | ctz (f : FmtR)
  /-- R254, opcode 0x2E: Reverses the bit order of each element. -/
  | brev (f : FmtR)
  /-- R256, opcode 0x2F: Forms a 64-bit address from a base pair plus a sign-extended index times the scale of T. -/
  | lea (f : FmtR)
  /-- R257, opcode 0x30: Acts as iadd with an immediate in place of B. -/
  | iaddi (f : FmtI)
  /-- R257, opcode 0x31: Acts as imul with an immediate in place of B. -/
  | imuli (f : FmtI)
  /-- R257, opcode 0x32: Acts as and with an immediate in place of B. -/
  | andi (f : FmtI)
  /-- R257, opcode 0x33: Acts as or with an immediate in place of B. -/
  | ori (f : FmtI)
  /-- R257, opcode 0x34: Acts as xor with an immediate in place of B. -/
  | xori (f : FmtI)
  /-- R257, opcode 0x35: Acts as shl with an immediate shift count. -/
  | shli (f : FmtI)
  /-- R257, opcode 0x36: Acts as shr with an immediate shift count. -/
  | shri (f : FmtI)
  /-- R257, opcode 0x37: Acts as sar with an immediate shift count. -/
  | sari (f : FmtI)
  /-- R257, opcode 0x38: Acts as icmp against an immediate. -/
  | icmpi (f : FmtI)
  /-- R257, opcode 0x3F: Acts as imad with an immediate multiplier and D as the addend. -/
  | imadi (f : FmtI)
  /-- R258, opcode 0x39: Writes a 32-bit immediate to D. -/
  | movi (f : FmtI)
  /-- R258, opcode 0x3A: Writes a 64-bit immediate to a pair. -/
  | movw (f : FmtI)
  /-- R258, opcode 0x3B: Copies A to D, as a pair for 64-bit types. -/
  | mov (f : FmtR)
  /-- R258, opcode 0x3C: Writes A or B to D by the lane's bit of a mask register. -/
  | sel (f : FmtR)
  /-- R258, opcode 0x3D: Reads a scalar register indexed by a per-lane offset from A. -/
  | movs (f : FmtR)
  /-- R258, opcode 0x3E: Builds each result byte from one of eight source bytes selected by the nibbles of C. -/
  | prmt (f : FmtR)
  /-- R277, opcode 0x40: Adds floating elements exactly, then scales, clamps and encodes once. -/
  | fadd (f : FmtR)
  /-- R277, opcode 0x41: Subtracts floating elements with one rounding. -/
  | fsub (f : FmtR)
  /-- R277, opcode 0x42: Multiplies floating elements with one rounding. -/
  | fmul (f : FmtR)
  /-- R277, opcode 0x43: Computes a × b + c with one rounding. -/
  | ffma (f : FmtR)
  /-- R277, opcode 0x44: Writes the lesser element, or NaN when either operand is NaN. -/
  | fmin (f : FmtR)
  /-- R277, opcode 0x45: Writes the greater element, or NaN when either operand is NaN. -/
  | fmax (f : FmtR)
  /-- R277, opcode 0x46: Writes the lesser element, ignoring a single NaN operand. -/
  | fminn (f : FmtR)
  /-- R277, opcode 0x47: Writes the greater element, ignoring a single NaN operand. -/
  | fmaxn (f : FmtR)
  /-- R278, opcode 0x48: Sets the lane's mask bit when the condition holds for every element pair of the lane. -/
  | fcmp (f : FmtR)
  /-- R279, opcode 0x49: Writes a 4-bit class code for each of up to eight elements. -/
  | fclass (f : FmtR)
  /-- R280, opcode 0x4A: Writes the correctly rounded quotient; D is empty until written. -/
  | fdiv (f : FmtR)
  /-- R280, opcode 0x4B: Writes the correctly rounded square root. -/
  | fsqrt (f : FmtR)
  /-- R280, opcode 0x4C: Writes the correctly rounded reciprocal. -/
  | frcp (f : FmtR)
  /-- R280, opcode 0x4D: Writes the correctly rounded reciprocal square root. -/
  | frsq (f : FmtR)
  /-- R280, opcode 0x4E: Writes the correctly rounded 2^a. -/
  | fexp2 (f : FmtR)
  /-- R280, opcode 0x4F: Writes the correctly rounded log2 a. -/
  | flog2 (f : FmtR)
  /-- R280, opcode 0x50: Writes the correctly rounded sine of a, in radians. -/
  | fsin (f : FmtR)
  /-- R280, opcode 0x51: Writes the correctly rounded cosine of a, in radians. -/
  | fcos (f : FmtR)
  /-- R280, opcode 0x52: Writes the correctly rounded hyperbolic tangent. -/
  | ftanh (f : FmtR)
  /-- R281, opcode 0x53: Rounds each element to an integer by the record's rounding mode. -/
  | frnd (f : FmtR)
  /-- R281, opcode 0x54: Computes a × 2^t exactly, then encodes once. -/
  | fscale (f : FmtR)
  /-- R283, opcode 0x55: Converts elements from a source slot's record to a destination slot's record. -/
  | fcvt (f : FmtR)
  /-- R283, opcode 0x56: Converts floating elements to integers of type T, saturating. -/
  | ftoi (f : FmtR)
  /-- R283, opcode 0x57: Converts integer elements of type T to a floating record. -/
  | itof (f : FmtR)
  /-- R282, opcode 0x58: Adds a binary32 immediate to each element. -/
  | faddi (f : FmtI)
  /-- R282, opcode 0x59: Multiplies each element by a binary32 immediate. -/
  | fmuli (f : FmtI)
  /-- R282, opcode 0x5A: Computes a × i + d, with D as the addend. -/
  | ffmai (f : FmtI)
  /-- R284, opcode 0x5B: Extracts element i of A as a raw code. -/
  | exte (f : FmtR)
  /-- R284, opcode 0x5C: Inserts a raw code into element i of D. -/
  | inse (f : FmtR)
  /-- R291, opcode 0x5D: Sets the warp's stochastic key from a scalar quad and ends the split's region. -/
  | srseed (f : FmtR)
  /-- R285, opcode 0x5E: Checks a 64-bit record and writes it to a format slot, or takes a format fault. -/
  | fmtset (f : FmtR)
  /-- R289, opcode 0x5F: Writes a slot's record to a scalar pair without checking it. -/
  | fmtget (f : FmtR)
  /-- R290, opcode 0x60: Writes the check code, native-support bits and width of a record. -/
  | fmtchk (f : FmtR)
  /-- R293, opcode 0x61: Writes the Fount output for a counter quad and a key quad. -/
  | rand (f : FmtR)
  /-- R292, opcode 0x62: Writes the lane's stochastic sequence count. -/
  | wrng (f : FmtR)
  /-- R266, opcode 0x63: Writes the AND of two masks for the executing lanes. -/
  | mand (f : FmtR)
  /-- R266, opcode 0x64: Writes the OR of two masks for the executing lanes. -/
  | mor (f : FmtR)
  /-- R266, opcode 0x65: Writes the XOR of two masks for the executing lanes. -/
  | mxor (f : FmtR)
  /-- R266, opcode 0x66: Writes the complement of a mask for the executing lanes. -/
  | mnot (f : FmtR)
  /-- R266, opcode 0x67: Counts the 1 bits among bits 0 to W − 1 of a mask. -/
  | mpopc (f : FmtR)
  /-- R266, opcode 0x68: Writes the index of the lowest 1 bit of a mask. -/
  | mfirst (f : FmtR)
  /-- R266, opcode 0x69: Sets each non-helper executing lane's mask bit when its register is nonzero. -/
  | ballot (f : FmtR)
  /-- R266, opcode 0x6A: Copies a mask into a register, a pair or a quad. -/
  | mtos (f : FmtR)
  /-- R266, opcode 0x6B: Writes a whole mask register from scalar bits. -/
  | stom (f : FmtR)
  /-- R267, opcode 0x6C: Writes the all, any or uniform result over the executing non-helper lanes to the mask. -/
  | vote (f : FmtR)
  /-- R268, opcode 0x6D: Reads A from a source lane given by B. -/
  | shfl (f : FmtR)
  /-- R268, opcode 0x6E: Reads A from a lane at an offset, bounded to a segment. -/
  | shflb (f : FmtR)
  /-- R269, opcode 0x6F: Exchanges a register pair with the partner lane l xor d. -/
  | bfly (f : FmtR)
  /-- R268, opcode 0x70: Exchanges values within a quad by an xor pattern. -/
  | qswp (f : FmtR)
  /-- R268, opcode 0x71: Broadcasts one quad lane's value to the quad. -/
  | qbcst (f : FmtR)
  /-- R270, opcode 0x72: Reduces A over the executing non-helper lanes in a fixed tree. -/
  | wred (f : FmtR)
  /-- R270, opcode 0x73: Writes the inclusive or exclusive prefix combination over the lanes. -/
  | wscan (f : FmtR)
  /-- R301, opcode 0x80: Loads one element per executing lane and marks D empty until the data arrives. -/
  | ld (f : FmtM)
  /-- R301, opcode 0x81: Enters one store per executing non-helper lane into the warp's store queue. -/
  | st (f : FmtM)
  /-- R303, opcode 0x82: Loads packed w-bit stream elements into consecutive registers as raw codes. -/
  | ldf (f : FmtM)
  /-- R303, opcode 0x83: Stores packed stream elements, writing exactly their bits. -/
  | stf (f : FmtM)
  /-- R305, opcode 0x84: Brings the named lines into the L2, and into the L1 unless the hint or the page type excludes it. -/
  | pref (f : FmtM)
  /-- R305, opcode 0x85: Fills the core's instruction cache with the named lines. -/
  | ipref (f : FmtM)
  /-- R306, opcode 0x86: Orders the warp's accesses at a scope as Table 5.5 states. -/
  | fence (f : FmtM)
  /-- R307, opcode 0x87: Performs grouped atomic read-modify-writes and returns the old values. -/
  | atom (f : FmtMO)
  /-- R307, opcode 0x88: Performs grouped atomic reductions with no returned value. -/
  | red (f : FmtMO)
  /-- R307, opcode 0x89: Performs compare-and-swap per lane in ascending lane order and returns the old values. -/
  | cas (f : FmtMO)
  /-- R311, opcode 0x8A: Begins a transaction in each executing non-helper lane and records its fail target. -/
  | txb (f : FmtC)
  /-- R311, opcode 0x8B: Commits each lane's transaction, or sends aborted lanes to their fail target. -/
  | txe (f : FmtC)
  /-- R311, opcode 0x8C: Aborts the lane's transaction with code explicit and a user code. -/
  | txa (f : FmtC)
  /-- R311, opcode 0x8D: Writes the lane's transaction status word. -/
  | txst (f : FmtR)
  /-- R313, opcode 0x8E: Advances each distinct delayed-scaling entry once at its home slice. -/
  | amxadv (f : FmtM)
  /-- R313, opcode 0x8F: Reads an entry's ScaleExp at the home slice, sign-extended. -/
  | sclget (f : FmtM)
  /-- R315, opcode 0x90: Starts an engine job that copies 32 bytes per lane from global memory to scratchpad. -/
  | cpa (f : FmtMO)
  /-- R317, opcode 0x91: Waits until the tag's job count falls to n, or until its oldest job completes. -/
  | cpwait (f : FmtC)
  /-- R317, opcode 0x92: Writes the warp's job count for a tag. -/
  | cpcnt (f : FmtS)
  /-- R318, opcode 0x93: Checks a list of bulk copy requests and submits each as its own engine job, or none. -/
  | kick (f : FmtS)
  /-- R319, opcode 0x94: Initialises a barrier object with a count. -/
  | binit (f : FmtR)
  /-- R319, opcode 0x95: Arrives on a barrier object with a weight and bytes and returns the phase token. -/
  | barr (f : FmtR)
  /-- R319, opcode 0x96: Waits until each lane's phase token tests complete. -/
  | bwait (f : FmtR)
  /-- R319, opcode 0x97: Writes whether each lane's phase token tests complete. -/
  | btest (f : FmtR)
  /-- R320, opcode 0x98: Waits at the work-group barrier until every warp has arrived or retired. -/
  | bar (f : FmtC)
  /-- R320, opcode 0x99: Waits at the gang barrier until every warp of every member has arrived or exited. -/
  | gsync (f : FmtC)
  /-- R321, opcode 0x9A: Arms a monitor on a global word with an expected value and a timeout. -/
  | monw (f : FmtR)
  /-- R322, opcode 0x9B: Atomically exchanges a word at its home slice and returns the number of monitors it woke. -/
  | monx (f : FmtR)
  /-- R338, opcode 0xA0: Loads B from scratchpad into the active copy of a bank. -/
  | mldb (f : FmtX)
  /-- R338, opcode 0xA1: Loads B from scratchpad into the shadow copy of a bank. -/
  | mldbs (f : FmtX)
  /-- R339, opcode 0xA2: Decodes 32,768 trellis weights into the active copy of a bank. -/
  | mldt (f : FmtX)
  /-- R341, opcode 0xA3: Queues a dense product of A and B into a tile. -/
  | mma (f : FmtX)
  /-- R341, opcode 0xA4: Queues a sparse product of A and B into a tile. -/
  | mmas (f : FmtX)
  /-- R340, opcode 0xA5: Exchanges the active and shadow copies of a bank or a pair. -/
  | msig (f : FmtX)
  /-- R345, opcode 0xA6: Sets a convergence register's count and abandons any partly signed round. -/
  | mkset (f : FmtX)
  /-- R342, opcode 0xA7: Zeroes a tile and clears its flag. -/
  | mzero (f : FmtX)
  /-- R343, opcode 0xA8: Scales, clips and encodes a tile into scratchpad rows, optionally updating an amax entry. -/
  | mst (f : FmtX)
  /-- R344, opcode 0xA9: Queues a read of a tile element or scaling-table entry into D. -/
  | mrd (f : FmtX)
  /-- R344, opcode 0xAA: Queues a write of a tile element or scaling-table entry. -/
  | mwr (f : FmtX)
  /-- R346, opcode 0xAB: Pushes scale codes into the A or B scale FIFO. -/
  | mscl (f : FmtX)
  /-- R347, opcode 0xAC: Waits until the operation of a token, or all queued operations, has completed. -/
  | mwait (f : FmtX)
  /-- R348, opcode 0xAD: Writes the token count, the tile flags or the FIFO fills. -/
  | mstat (f : FmtX)
  /-- R353, opcode 0xB0: Reads and checks a trellis descriptor and installs it in a window register. -/
  | wset (f : FmtS)
  /-- R355, opcode 0xB1: Writes one word of a window register. -/
  | wget (f : FmtS)
  /-- R357, opcode 0xB2: Decodes one trellis weight per lane into D. -/
  | trdec (f : FmtR)
  /-- R358, opcode 0xB3: Starts an engine job that decodes a run of weights into a scratchpad stream. -/
  | trdecn (f : FmtS)
  /-- R360, opcode 0xB4: Starts a Viterbi job that re-encodes groups from target values. -/
  | trenc (f : FmtS)
  /-- R361, opcode 0xB5: Waits until the warp's earlier trellis jobs have completed. -/
  | trwait (f : FmtC)
  /-- R365, opcode 0xC0: Opens a new tape on a chunk, or attaches to a closed tape. -/
  | topen (f : FmtS)
  /-- R368, opcode 0xC1: Writes a value record of the recorded lanes at a site. -/
  | trec (f : FmtS)
  /-- R369, opcode 0xC2: Writes a branch record of each lane's decision. -/
  | tbr (f : FmtS)
  /-- R369, opcode 0xC3: Writes a mark record while recording, or consumes and checks one in reverse. -/
  | tmark (f : FmtS)
  /-- R367, opcode 0xC4: Closes the tape, writes the snapshot and the control block back. -/
  | tclose (f : FmtS)
  /-- R370, opcode 0xC5: Begins reverse play from the last record, loading references from the snapshot. -/
  | trev (f : FmtS)
  /-- R371, opcode 0xC6: Consumes a value record in reverse and delivers each recorded lane's value. -/
  | tget (f : FmtS)
  /-- R372, opcode 0xC7: Consumes a branch record in reverse and writes each lane's decision. -/
  | tbrp (f : FmtS)
  /-- R374, opcode 0xC8: Writes one tape status item. -/
  | tstat (f : FmtS)
  /-- R366, opcode 0xC9: Appends a chunk to the end of the tape's chain. -/
  | tgrant (f : FmtS)
  /-- R381, opcode 0xD0: Writes the value of a selector to D. -/
  | sread (f : FmtS)
  /-- R385, opcode 0xD1: Writes a selector: handler address and mask, ageing bound or pre-emption deadline. -/
  | swrite (f : FmtS)
  /-- R386, opcode 0xD2: Writes a Varve mark record with an event code and a value. -/
  | evmark (f : FmtS)
  /-- R387, opcode 0xD3: Makes the split wait a number of cycles. -/
  | sleep (f : FmtS)
  /-- R390, opcode 0xD4: Copies bytes of the capsule view to global memory as an engine job and writes a status. -/
  | caprd (f : FmtS)
  /-- R402, opcode 0xD5: Returns the handler's lanes to their saved splits at their resume points. -/
  | eret (f : FmtS)
  /-- R391, opcode 0xD6: Writes one word of the trap record being handled. -/
  | trapr (f : FmtS)
  /-- R388, opcode 0xD7: Sets the work-group's held energy rate to that of a class. -/
  | energy (f : FmtS)
  /-- R389, opcode 0xD8: Selects an event for a performance counter and clears the counter. -/
  | perfsel (f : FmtS)
  /-- R389, opcode 0xD9: Writes a performance counter to a pair. -/
  | perfrd (f : FmtS)
  /-- R240: An instruction word with an unassigned opcode, the all-zero word included, takes the illegal-instruction trap with cause opcode. -/
  | unassignedOpcode (word : BitVec 64)
  /-- R184: A producer in flight writes its result and sets the destination full. -/
  | producerComplete (wg : Nat) (warp : Nat) (idx : Nat)
  /-- R126: A store leaves the warp's store queue and is performed at core scope. -/
  | storeQueueDrain (wg : Nat) (warp : Nat)
  /-- R467: Every 10 µs measures Tj, sets headroom and the budget B, and stops or resumes issue. -/
  | powerSample (die : Nat) (tj : Int)
  /-- R29: Firmware re-walks an opened entry and replays it, or forwards it to system software as an event. -/
  | faultEntryRecheck (die : Nat) (entry : Nat)
  /-- R32: A fault waiting for a free queue entry takes one when an entry frees. -/
  | faultQueueWaitEnd (die : Nat)
  /-- R30: Firmware issues fail on an entry that has stayed open for the context's limit. -/
  | faultResolutionLimit (die : Nat) (entry : Nat)
  /-- R213: An instruction line arrives and ends the sub-core's freeze. -/
  | icacheFill (core : Nat) (sub : Nat)
  /-- R316: A copy job's writes are performed, its claims are released, its tag count falls and its barrier count-down is applied. -/
  | cpaJobComplete (job : Nat)
  /-- R154: A bulk copy request completes and counts its length down on its object. -/
  | kickRequestComplete (job : Nat)
  /-- R361: A trdecn or Viterbi encode job completes and releases its claims. -/
  | trellisJobComplete (job : Nat)
  /-- R390: The capsule copy job completes and releases the holding split. -/
  | caprdJobComplete (job : Nat)
  /-- R327: The engine executes the next queued operation of the work-group in queue order. -/
  | matrixOpExecute (wg : Nat)
  /-- R347: A matrix operation completes, releasing mwait waiters on its token. -/
  | matrixOpComplete (wg : Nat)
  /-- R74: Firmware completes an instruction or operation outside native support, bit-identically. -/
  | formatEmulation (wg : Nat) (warp : Nat) (split : Nat)
  /-- R162: A monitor's timeout expires and monw returns timeout with the word's value. -/
  | monitorTimeout (die : Nat) (idx : Nat)
  /-- R387: A sleeping split becomes ready after its cycle count. -/
  | sleepExpiry (wg : Nat) (warp : Nat) (split : Nat)
  /-- R158: Raises a barrier-deadlock fault on every waiting warp of a work-group whose waits cannot be released. -/
  | barrierDeadlock (wg : Nat)
  /-- R160: Raises a barrier-deadlock fault on every waiting warp of a gang whose waits cannot be released. -/
  | gangBarrierDeadlock (gang : Nat)
  /-- R183: Raises a rejoin-deadlock trap on a warp whose live splits all wait in rwait that cannot succeed. -/
  | rejoinDeadlock (wg : Nat) (warp : Nat)
  /-- R398: Delivers a trap to the program handler or to firmware and writes the trap record. -/
  | trapDelivery (wg : Nat) (warp : Nat)
  /-- R396: A launch's running time reaches the watchdog period and every warp takes kind 21. -/
  | watchdog (launch : Nat)
  /-- R206: The launcher places the chosen head work-group on a fitting core. -/
  | workGroupPlace (die : Nat)
  /-- R209: Places a whole gang on a free rectangle of one die. -/
  | gangPlace (die : Nat)
  /-- R207: A head work-group passed over for budget in 16 consecutive windows becomes aged. -/
  | headAged (die : Nat) (ctx : Nat) (queue : Nat)
  /-- R210: Swaps a wholly waiting active warp with a ready pending warp. -/
  | warpSwap (core : Nat) (sub : Nat)
  /-- R211: A split ready for the ageing bound takes first place in the issue choice. -/
  | ageingPromotion (wg : Nat) (warp : Nat) (split : Nat)
  /-- R194: Retires a work-group once its warps, store queues, jobs and tapes are done. -/
  | workGroupRetire (wg : Nat)
  /-- R225: Completes a launch: applies staged reductions, computes the digest and writes the launch record. -/
  | launchComplete (launch : Nat)
  /-- R216: Every 500 µs saves one logical core's work-groups and restores the next. -/
  | timeSlice (ctx : Nat) (core : Nat)
  /-- R408: Stops a persistent gang, drains it and saves each member's image. -/
  | gangSave (gang : Nat)
  /-- R407: Pre-emption completes when no work-group of the context is resident, posting event kind 4. -/
  | preemptionComplete (ctx : Nat)
  /-- R407: The pre-emption deadline expires and the context takes a forced reset. -/
  | preemptionDeadline (ctx : Nat)
  /-- R26: An invalidate completes when every matching entry is dropped and its accesses are performed. -/
  | translationInvalidateComplete (idx : Nat)
  /-- R467: Lowers the die clock one 100 MHz step per 1 ms under a thermal or power limit. -/
  | clockStepDown (die : Nat)
  /-- R467: Raises the die clock one step per 10 ms once every condition has cleared. -/
  | clockStepUp (die : Nat)
  /-- R425: Writes a time anchor after 4,096 records without one. -/
  | varveTimeAnchor (core : Nat)
  /-- R426: Writes an issue-sample record every 4,096 passes of a sub-core. -/
  | issueSample (core : Nat) (sub : Nat)
  /-- R425: Writes a drop record with the count of unrecorded events at the next cycle with room. -/
  | varveDropRecord (core : Nat)
  /-- R431: A freeze message reaches a core, which writes its freeze record and stops recording. -/
  | freezeArrival (core : Nat)
  /-- R433: After the last core freezes, seals the rings into a signed capsule or records an overrun. -/
  | capsuleSeal
  /-- R471: Reads a creation block, checks it, creates the context and extends its attestation chain. -/
  | createContext (page : Nat)
  /-- R40: Destroys a context, discarding its faults, jobs and translations. -/
  | destroyContext (page : Nat)
  /-- R450: Verifies a VKO container, selects an image, maps and relocates it and marks code executable. -/
  | load (page : Nat)
  /-- R451: Clears the executable frames of one load. -/
  | unload (page : Nat)
  /-- R203: Enters a launch into a queue from the command path after the entry checks. -/
  | hostLaunch (page : Nat)
  /-- R407: Stops placement for a context and starts its pre-emption deadline. -/
  | preEmpt (page : Nat)
  /-- R410: Resumes a pre-empted context, optionally on a new partition, restoring its gangs. -/
  | resume (page : Nat)
  /-- R25: Starts invalidation of the translations of a context range. -/
  | translationInvalidate (page : Nat)
  /-- R52: Drops the context's lines from every instruction and trace cache. -/
  | instructionCacheInvalidate (page : Nat)
  /-- R411: Ends every warp of the context, discards its state and empties its queues. -/
  | forcedReset (page : Nat)
  /-- R453: Returns the context id, H, the extension count and a nonce signed with the identity key. -/
  | quote (page : Nat)
  /-- R446: Destroys S, zeroes the capsule region and clears Held and Sealed. -/
  | capsuleRelease (page : Nat)
  /-- R29: Closes a fault-queue entry and restarts its parked requesters. -/
  | faultReplay (page : Nat)
  /-- R29: Closes a fault-queue entry and delivers a translation trap to its parked requesters. -/
  | faultFail (page : Nat)
  /-- R399: Resumes a warp held by firmware as eret would. -/
  | trapResume (page : Nat)
  /-- R399: Performs a forced reset of the context of a warp held by firmware. -/
  | trapReset (page : Nat)
  /-- R68: Clears a line's entry from a slice's lost-line table. -/
  | lostLineClear (page : Nat)
  /-- R128: A store, red or atomic write that left its core reaches its home slice and is performed there. This wakes monitors, releases held loads and release stores, and frees outstanding requests. -/
  | writePerformedAtHomeSlice (core : Nat) (idx : Nat)
  /-- R469: A consumed command entry whose opcode is outside Table 24.6 completes with status bad-opcode and performs nothing. -/
  | badOpcode (page : Nat)
  /-- R69: Patrols HBM daily and each L2 slice every second, correcting or logging errors. -/
  | patrolScrub (line : Nat)
  /-- R17: Walks the translation tables for an access, checking each entry and setting A or D. -/
  | tableWalk (wg : Nat) (warp : Nat) (split : Nat) (va : BitVec 64) (access : Access)
  /-- R61: Retransmits a die-to-die flit whose CRC fails. -/
  | linkCrcRetransmit (src : Nat) (dst : Nat)
  /-- R61: A die-to-die link fails retraining, which is a fatal fault. -/
  | linkRetrainFailure (core : Nat)
  /-- R466: Power good starts bring-up, which runs its steps and sets READY. -/
  | powerGood (result : BringUp)
  /-- R466: A bring-up step still running at 30 s stops with Error 5. -/
  | bringUpTimeout
  /-- R443: Loss of power loses the capsule region and summaries and keeps E and CapsuleId. -/
  | powerLoss
  /-- R465: The management link requests a warm reset, which restarts bring-up. -/
  | managementWarmReset
  /-- R465: The management link requests a cold reset. -/
  | managementColdReset
  /-- R446: The management link releases a held capsule. -/
  | managementCapsuleRelease
  /-- R445: Reads a 128-byte block of the operator capsule view, or answers busy. -/
  | managementReadCapsule (block : Nat)
  /-- R444: Reads a per-die summary. -/
  | managementReadSummary (die : Nat)
  /-- R465: Reads the module status register. -/
  | managementReadStatus
  /-- R465: Reads the capsule and identity public keys. -/
  | managementReadKeys
  /-- R465: Reads temperatures, power and clocks. -/
  | managementReadTelemetry
  /-- R146: A host posted write through BAR2 is performed at its home slice in arrival order. -/
  | hostWrite (offset : Nat) (bytes : List Byte)
  /-- R146: A host read through BAR2 is performed at its home slice after earlier posted writes. -/
  | hostRead (offset : Nat) (len : Nat)
  /-- R148: An access from a peer module arrives over UALink and is performed at its home slice. -/
  | peerInboundAccess (peer : Nat) (addr : Nat) (write : Option (List Byte)) (len : Nat)
  /-- R464: The security core agrees a scale-out session by ML-KEM-1024 and XMSS and derives AES-256-GCM keys. -/
  | sessionAgree (session : Nat) (port : Nat)
  /-- R464: Receives a session frame, dropping and counting it when its tag or counter fails. -/
  | frameReceive (session : Nat) (counter : BitVec 64) (body : List Byte) (tag : BitVec 128)
  /-- R464: Sends a session frame, closing the session when its counter would wrap. -/
  | frameTransmit (session : Nat) (body : List Byte)
  /-- R464: Rekeys a session after 2^32 frames. -/
  | sessionRekey (session : Nat)
  /-- R464: 1 ms after a new key is confirmed, the receiver stops accepting the old key. -/
  | oldKeyExpiry (session : Nat)
  /-- R460: A write to a register with no behaviour of its own, such as the BAR2 window base, CmdBase, CplBase or IrqMask. -/
  | registerWrite (offset : Nat) (value : BitVec 64)
  /-- R468: Advancing CplHead frees completion entries so held completions and events are written. -/
  | cplHeadWrite (page : Nat) (value : BitVec 32)
  /-- R225: Advancing LrRead frees launch-record slots so launches are accepted again. -/
  | lrReadWrite (page : Nat) (value : BitVec 32)
  /-- R148: A peer module acknowledges a write over UALink, releasing a system-scope release that waited for it. -/
  | peerAcknowledgement (peer : Nat)
  /-- R463: A UALink route to a peer module index is lost or returns, deciding whether peer accesses take the uncorrectable-ECC trap. -/
  | liveRouteChange (peer : Nat) (up : Bool)
  /-- R468: A write to CmdTail rings the doorbell so the command processor consumes new entries, and is ignored when it would overfill the ring. -/
  | doorbell (page : Nat) (tail : BitVec 32)
  deriving DecidableEq, Repr

end Sys2Proof
end

