-- ==== Sys2Proof/WellFormed.lean ====
section
/-! DEFINITION. Which instructions stand in code: those whose words some program can hold. -/

namespace Sys2Proof

/-- The opcodes of Table 9.12 that are assigned (R240). -/
def assigned (op : BitVec 8) : Bool :=
  (0x01 ≤ op.toNat && op.toNat ≤ 0x73) || (0x80 ≤ op.toNat && op.toNat ≤ 0x9B) ||
  (0xA0 ≤ op.toNat && op.toNat ≤ 0xAD) || (0xB0 ≤ op.toNat && op.toNat ≤ 0xB5) ||
  (0xC0 ≤ op.toNat && op.toNat ≤ 0xC9) || (0xD0 ≤ op.toNat && op.toNat ≤ 0xD9)

/-- How many case words a `switch` with case count n has: ⌈n / 2⌉ for the legal counts 1 to 8 (R226).
DEDUCED (log 8): a count that takes cause case (R241) brings no case word. -/
def caseWords (n : BitVec 4) : Nat :=
  if n.toNat ≤ 8 then (n.toNat + 1) / 2 else 0

/-- The opcode of a word, bits [63:56] (R228). -/
def opcodeOf (w : Dword) : BitVec 8 := w.extractLsb' 56 8

/-- An instruction that words can hold: a `switch` with its case words, a word with no assigned
opcode. The other steps of the device have no words. -/
def Instr.wellFormed : Instr → Bool
  | .nop _ => true
  | .bra _ => true
  | .brx _ => true
  | .call _ => true
  | .ret _ => true
  | .switch f => f.cases.length == caseWords f.c.site
  | .rset _ => true
  | .rwait _ => true
  | .rleave _ => true
  | .yield _ => true
  | .exit _ => true
  | .region _ => true
  | .launch _ => true
  | .trap _ => true
  | .bkpt _ => true
  | .iadd _ => true
  | .isub _ => true
  | .imul _ => true
  | .imulh _ => true
  | .imad _ => true
  | .idiv _ => true
  | .irem _ => true
  | .imin _ => true
  | .imax _ => true
  | .iabs _ => true
  | .ineg _ => true
  | .isat _ => true
  | .iadds _ => true
  | .isubs _ => true
  | .icmp _ => true
  | .qadd _ => true
  | .and _ => true
  | .or _ => true
  | .xor _ => true
  | .andn _ => true
  | .not _ => true
  | .shl _ => true
  | .shr _ => true
  | .sar _ => true
  | .rol _ => true
  | .bfx _ => true
  | .bfi _ => true
  | .popc _ => true
  | .clz _ => true
  | .ctz _ => true
  | .brev _ => true
  | .lea _ => true
  | .iaddi _ => true
  | .imuli _ => true
  | .andi _ => true
  | .ori _ => true
  | .xori _ => true
  | .shli _ => true
  | .shri _ => true
  | .sari _ => true
  | .icmpi _ => true
  | .imadi _ => true
  | .movi _ => true
  | .movw _ => true
  | .mov _ => true
  | .sel _ => true
  | .movs _ => true
  | .prmt _ => true
  | .fadd _ => true
  | .fsub _ => true
  | .fmul _ => true
  | .ffma _ => true
  | .fmin _ => true
  | .fmax _ => true
  | .fminn _ => true
  | .fmaxn _ => true
  | .fcmp _ => true
  | .fclass _ => true
  | .fdiv _ => true
  | .fsqrt _ => true
  | .frcp _ => true
  | .frsq _ => true
  | .fexp2 _ => true
  | .flog2 _ => true
  | .fsin _ => true
  | .fcos _ => true
  | .ftanh _ => true
  | .frnd _ => true
  | .fscale _ => true
  | .fcvt _ => true
  | .ftoi _ => true
  | .itof _ => true
  | .faddi _ => true
  | .fmuli _ => true
  | .ffmai _ => true
  | .exte _ => true
  | .inse _ => true
  | .srseed _ => true
  | .fmtset _ => true
  | .fmtget _ => true
  | .fmtchk _ => true
  | .rand _ => true
  | .wrng _ => true
  | .mand _ => true
  | .mor _ => true
  | .mxor _ => true
  | .mnot _ => true
  | .mpopc _ => true
  | .mfirst _ => true
  | .ballot _ => true
  | .mtos _ => true
  | .stom _ => true
  | .vote _ => true
  | .shfl _ => true
  | .shflb _ => true
  | .bfly _ => true
  | .qswp _ => true
  | .qbcst _ => true
  | .wred _ => true
  | .wscan _ => true
  | .ld _ => true
  | .st _ => true
  | .ldf _ => true
  | .stf _ => true
  | .pref _ => true
  | .ipref _ => true
  | .fence _ => true
  | .atom _ => true
  | .red _ => true
  | .cas _ => true
  | .txb _ => true
  | .txe _ => true
  | .txa _ => true
  | .txst _ => true
  | .amxadv _ => true
  | .sclget _ => true
  | .cpa _ => true
  | .cpwait _ => true
  | .cpcnt _ => true
  | .kick _ => true
  | .binit _ => true
  | .barr _ => true
  | .bwait _ => true
  | .btest _ => true
  | .bar _ => true
  | .gsync _ => true
  | .monw _ => true
  | .monx _ => true
  | .mldb _ => true
  | .mldbs _ => true
  | .mldt _ => true
  | .mma _ => true
  | .mmas _ => true
  | .msig _ => true
  | .mkset _ => true
  | .mzero _ => true
  | .mst _ => true
  | .mrd _ => true
  | .mwr _ => true
  | .mscl _ => true
  | .mwait _ => true
  | .mstat _ => true
  | .wset _ => true
  | .wget _ => true
  | .trdec _ => true
  | .trdecn _ => true
  | .trenc _ => true
  | .trwait _ => true
  | .topen _ => true
  | .trec _ => true
  | .tbr _ => true
  | .tmark _ => true
  | .tclose _ => true
  | .trev _ => true
  | .tget _ => true
  | .tbrp _ => true
  | .tstat _ => true
  | .tgrant _ => true
  | .sread _ => true
  | .swrite _ => true
  | .evmark _ => true
  | .sleep _ => true
  | .caprd _ => true
  | .eret _ => true
  | .trapr _ => true
  | .energy _ => true
  | .perfsel _ => true
  | .perfrd _ => true
  | .unassignedOpcode w => !assigned (opcodeOf w)
  | .producerComplete _ _ _ => false
  | .storeQueueDrain _ _ => false
  | .tableWalk _ _ _ _ _ => false
  | .faultEntryRecheck _ _ => false
  | .faultQueueWaitEnd _ => false
  | .faultResolutionLimit _ _ => false
  | .icacheFill _ _ => false
  | .cpaJobComplete _ => false
  | .kickRequestComplete _ => false
  | .trellisJobComplete _ => false
  | .caprdJobComplete _ => false
  | .matrixOpExecute _ => false
  | .matrixOpComplete _ => false
  | .formatEmulation _ _ _ => false
  | .monitorTimeout _ _ => false
  | .sleepExpiry _ _ _ => false
  | .barrierDeadlock _ => false
  | .gangBarrierDeadlock _ => false
  | .rejoinDeadlock _ _ => false
  | .trapDelivery _ _ => false
  | .watchdog _ => false
  | .workGroupPlace _ => false
  | .gangPlace _ => false
  | .headAged _ _ _ => false
  | .warpSwap _ _ => false
  | .ageingPromotion _ _ _ => false
  | .workGroupRetire _ => false
  | .launchComplete _ => false
  | .timeSlice _ _ => false
  | .gangSave _ => false
  | .preemptionComplete _ => false
  | .preemptionDeadline _ => false
  | .translationInvalidateComplete _ => false
  | .clockStepDown _ => false
  | .clockStepUp _ => false
  | .varveTimeAnchor _ => false
  | .issueSample _ _ => false
  | .varveDropRecord _ => false
  | .freezeArrival _ => false
  | .capsuleSeal => false
  | .createContext _ => false
  | .destroyContext _ => false
  | .load _ => false
  | .unload _ => false
  | .hostLaunch _ => false
  | .preEmpt _ => false
  | .resume _ => false
  | .translationInvalidate _ => false
  | .instructionCacheInvalidate _ => false
  | .forcedReset _ => false
  | .quote _ => false
  | .capsuleRelease _ => false
  | .faultReplay _ => false
  | .faultFail _ => false
  | .trapResume _ => false
  | .trapReset _ => false
  | .lostLineClear _ => false
  | .writePerformedAtHomeSlice _ _ => false
  | .badOpcode _ => false
  | .patrolScrub _ => false
  | .powerSample _ _ => false
  | .linkCrcRetransmit _ _ => false
  | .linkRetrainFailure _ => false
  | .powerGood _ => false
  | .bringUpTimeout => false
  | .powerLoss => false
  | .managementWarmReset => false
  | .managementColdReset => false
  | .managementCapsuleRelease => false
  | .managementReadCapsule _ => false
  | .managementReadSummary _ => false
  | .managementReadStatus => false
  | .managementReadKeys => false
  | .managementReadTelemetry => false
  | .hostWrite _ _ => false
  | .hostRead _ _ => false
  | .peerInboundAccess _ _ _ _ => false
  | .sessionAgree _ _ => false
  | .frameReceive _ _ _ _ => false
  | .frameTransmit _ _ => false
  | .sessionRekey _ => false
  | .oldKeyExpiry _ => false
  | .registerWrite _ _ => false
  | .cplHeadWrite _ _ => false
  | .lrReadWrite _ _ => false
  | .peerAcknowledgement _ => false
  | .liveRouteChange _ _ => false
  | .doorbell _ _ => false

end Sys2Proof
end

