-- ==== Sys2Proof/Decode.lean ====
section
/-! DEFINITION. The decoder and the encoder of file 09: words to fields, the opcode map of Table 9.12,
extension words, bytes. Decoding loses no bit; what a program may not write is found by the checks of
R241, which Machine/Legal.lean holds. -/

namespace Sys2Proof

/-- Bits [55:50] of every word (R228). -/
def unpackGuard (w : Dword) : Guard :=
  { enable := w.getLsbD 55, negate := w.getLsbD 54, mask := w.extractLsb' 50 4 }

/-- R231, Table 9.3. -/
def unpackR (w : Dword) : FmtR :=
  { guard := unpackGuard w, d := w.extractLsb' 42 8, a := w.extractLsb' 34 8, b := w.extractLsb' 26 8,
    c := w.extractLsb' 18 8, f := w.extractLsb' 14 4, mod := w.extractLsb' 8 6, ea := w.extractLsb' 5 3,
    clamp := w.extractLsb' 3 2, sc := w.extractLsb' 0 3 }

/-- R234; DEDUCED (log 9): neg is bit [28] and abs bit [29], the order format R has. -/
def unpackI (w : Dword) (ext : List Dword) : FmtI :=
  { guard := unpackGuard w, d := w.extractLsb' 42 8, a := w.extractLsb' 34 8, f := w.extractLsb' 30 4,
    abs := w.getLsbD 29, neg := w.getLsbD 28, ea := w.getLsbD 27, clamp := w.extractLsb' 25 2,
    imm := w.extractLsb' 0 24, ext := ext.head? }

/-- R235, Table 9.7. -/
def unpackM (w : Dword) (ext : List Dword) : FmtM :=
  { guard := unpackGuard w, data := w.extractLsb' 42 8, base := w.extractLsb' 34 8,
    index := w.extractLsb' 26 8, indexEnable := w.getLsbD 25, scale := w.extractLsb' 23 2,
    space := w.extractLsb' 20 3, size := w.extractLsb' 16 4, f := w.extractLsb' 12 4,
    order := w.extractLsb' 9 3, scope := w.extractLsb' 7 2, hint := w.extractLsb' 5 2,
    ea := w.getLsbD 4, count := w.extractLsb' 0 3, ext := ext.head? }

/-- R236: the operand word stands first, then the offset word (R226). -/
def unpackMO (w : Dword) (ext : List Dword) : FmtMO :=
  { m := unpackM w ext.tail, operand := ext.headD 0 }

/-- R237, Table 9.9. -/
def unpackC (w : Dword) : FmtC :=
  { guard := unpackGuard w, offset := w.extractLsb' 18 32, mask := w.extractLsb' 14 4,
    site := w.extractLsb' 10 4, low := w.extractLsb' 0 10 }

/-- R238, Table 9.10. -/
def unpackX (w : Dword) : FmtX :=
  { guard := unpackGuard w, z := w.extractLsb' 44 6, base := w.extractLsb' 36 8,
    bank := w.extractLsb' 34 2, f := w.extractLsb' 30 4, planes := w.extractLsb' 26 4,
    sparse := w.getLsbD 25, k := w.extractLsb' 22 3, useK := w.getLsbD 21, acc := w.extractLsb' 19 2,
    low := w.extractLsb' 0 19 }

/-- R239, Table 9.11. -/
def unpackS (w : Dword) : FmtS :=
  { guard := unpackGuard w, d := w.extractLsb' 42 8, a := w.extractLsb' 34 8,
    sel := w.extractLsb' 18 16, b := w.extractLsb' 10 8, c := w.extractLsb' 2 8, o := w.extractLsb' 0 2 }

/-- The instruction a word and its extension words stand for, by Table 9.12. -/
def fromWords (w : Dword) (ext : List Dword) : Instr :=
  match (opcodeOf w).toNat with
  | 0x01 => .nop (unpackC w)
  | 0x02 => .bra (unpackC w)
  | 0x03 => .brx (unpackC w)
  | 0x04 => .call (unpackC w)
  | 0x05 => .ret (unpackC w)
  | 0x06 => .switch ⟨unpackC w, ext⟩
  | 0x07 => .rset (unpackC w)
  | 0x08 => .rwait (unpackC w)
  | 0x09 => .rleave (unpackC w)
  | 0x0A => .yield (unpackC w)
  | 0x0B => .exit (unpackC w)
  | 0x0C => .region (unpackC w)
  | 0x0D => .launch (unpackS w)
  | 0x0E => .trap (unpackC w)
  | 0x0F => .bkpt (unpackC w)
  | 0x10 => .iadd (unpackR w)
  | 0x11 => .isub (unpackR w)
  | 0x12 => .imul (unpackR w)
  | 0x13 => .imulh (unpackR w)
  | 0x14 => .imad (unpackR w)
  | 0x15 => .idiv (unpackR w)
  | 0x16 => .irem (unpackR w)
  | 0x17 => .imin (unpackR w)
  | 0x18 => .imax (unpackR w)
  | 0x19 => .iabs (unpackR w)
  | 0x1A => .ineg (unpackR w)
  | 0x1B => .isat (unpackR w)
  | 0x1C => .iadds (unpackR w)
  | 0x1D => .isubs (unpackR w)
  | 0x1E => .icmp (unpackR w)
  | 0x1F => .qadd (unpackR w)
  | 0x20 => .and (unpackR w)
  | 0x21 => .or (unpackR w)
  | 0x22 => .xor (unpackR w)
  | 0x23 => .andn (unpackR w)
  | 0x24 => .not (unpackR w)
  | 0x25 => .shl (unpackR w)
  | 0x26 => .shr (unpackR w)
  | 0x27 => .sar (unpackR w)
  | 0x28 => .rol (unpackR w)
  | 0x29 => .bfx (unpackR w)
  | 0x2A => .bfi (unpackR w)
  | 0x2B => .popc (unpackR w)
  | 0x2C => .clz (unpackR w)
  | 0x2D => .ctz (unpackR w)
  | 0x2E => .brev (unpackR w)
  | 0x2F => .lea (unpackR w)
  | 0x30 => .iaddi (unpackI w ext)
  | 0x31 => .imuli (unpackI w ext)
  | 0x32 => .andi (unpackI w ext)
  | 0x33 => .ori (unpackI w ext)
  | 0x34 => .xori (unpackI w ext)
  | 0x35 => .shli (unpackI w ext)
  | 0x36 => .shri (unpackI w ext)
  | 0x37 => .sari (unpackI w ext)
  | 0x38 => .icmpi (unpackI w ext)
  | 0x39 => .movi (unpackI w ext)
  | 0x3A => .movw (unpackI w ext)
  | 0x3B => .mov (unpackR w)
  | 0x3C => .sel (unpackR w)
  | 0x3D => .movs (unpackR w)
  | 0x3E => .prmt (unpackR w)
  | 0x3F => .imadi (unpackI w ext)
  | 0x40 => .fadd (unpackR w)
  | 0x41 => .fsub (unpackR w)
  | 0x42 => .fmul (unpackR w)
  | 0x43 => .ffma (unpackR w)
  | 0x44 => .fmin (unpackR w)
  | 0x45 => .fmax (unpackR w)
  | 0x46 => .fminn (unpackR w)
  | 0x47 => .fmaxn (unpackR w)
  | 0x48 => .fcmp (unpackR w)
  | 0x49 => .fclass (unpackR w)
  | 0x4A => .fdiv (unpackR w)
  | 0x4B => .fsqrt (unpackR w)
  | 0x4C => .frcp (unpackR w)
  | 0x4D => .frsq (unpackR w)
  | 0x4E => .fexp2 (unpackR w)
  | 0x4F => .flog2 (unpackR w)
  | 0x50 => .fsin (unpackR w)
  | 0x51 => .fcos (unpackR w)
  | 0x52 => .ftanh (unpackR w)
  | 0x53 => .frnd (unpackR w)
  | 0x54 => .fscale (unpackR w)
  | 0x55 => .fcvt (unpackR w)
  | 0x56 => .ftoi (unpackR w)
  | 0x57 => .itof (unpackR w)
  | 0x58 => .faddi (unpackI w ext)
  | 0x59 => .fmuli (unpackI w ext)
  | 0x5A => .ffmai (unpackI w ext)
  | 0x5B => .exte (unpackR w)
  | 0x5C => .inse (unpackR w)
  | 0x5D => .srseed (unpackR w)
  | 0x5E => .fmtset (unpackR w)
  | 0x5F => .fmtget (unpackR w)
  | 0x60 => .fmtchk (unpackR w)
  | 0x61 => .rand (unpackR w)
  | 0x62 => .wrng (unpackR w)
  | 0x63 => .mand (unpackR w)
  | 0x64 => .mor (unpackR w)
  | 0x65 => .mxor (unpackR w)
  | 0x66 => .mnot (unpackR w)
  | 0x67 => .mpopc (unpackR w)
  | 0x68 => .mfirst (unpackR w)
  | 0x69 => .ballot (unpackR w)
  | 0x6A => .mtos (unpackR w)
  | 0x6B => .stom (unpackR w)
  | 0x6C => .vote (unpackR w)
  | 0x6D => .shfl (unpackR w)
  | 0x6E => .shflb (unpackR w)
  | 0x6F => .bfly (unpackR w)
  | 0x70 => .qswp (unpackR w)
  | 0x71 => .qbcst (unpackR w)
  | 0x72 => .wred (unpackR w)
  | 0x73 => .wscan (unpackR w)
  | 0x80 => .ld (unpackM w ext)
  | 0x81 => .st (unpackM w ext)
  | 0x82 => .ldf (unpackM w ext)
  | 0x83 => .stf (unpackM w ext)
  | 0x84 => .pref (unpackM w ext)
  | 0x85 => .ipref (unpackM w ext)
  | 0x86 => .fence (unpackM w ext)
  | 0x87 => .atom (unpackMO w ext)
  | 0x88 => .red (unpackMO w ext)
  | 0x89 => .cas (unpackMO w ext)
  | 0x8A => .txb (unpackC w)
  | 0x8B => .txe (unpackC w)
  | 0x8C => .txa (unpackC w)
  | 0x8D => .txst (unpackR w)
  | 0x8E => .amxadv (unpackM w ext)
  | 0x8F => .sclget (unpackM w ext)
  | 0x90 => .cpa (unpackMO w ext)
  | 0x91 => .cpwait (unpackC w)
  | 0x92 => .cpcnt (unpackS w)
  | 0x93 => .kick (unpackS w)
  | 0x94 => .binit (unpackR w)
  | 0x95 => .barr (unpackR w)
  | 0x96 => .bwait (unpackR w)
  | 0x97 => .btest (unpackR w)
  | 0x98 => .bar (unpackC w)
  | 0x99 => .gsync (unpackC w)
  | 0x9A => .monw (unpackR w)
  | 0x9B => .monx (unpackR w)
  | 0xA0 => .mldb (unpackX w)
  | 0xA1 => .mldbs (unpackX w)
  | 0xA2 => .mldt (unpackX w)
  | 0xA3 => .mma (unpackX w)
  | 0xA4 => .mmas (unpackX w)
  | 0xA5 => .msig (unpackX w)
  | 0xA6 => .mkset (unpackX w)
  | 0xA7 => .mzero (unpackX w)
  | 0xA8 => .mst (unpackX w)
  | 0xA9 => .mrd (unpackX w)
  | 0xAA => .mwr (unpackX w)
  | 0xAB => .mscl (unpackX w)
  | 0xAC => .mwait (unpackX w)
  | 0xAD => .mstat (unpackX w)
  | 0xB0 => .wset (unpackS w)
  | 0xB1 => .wget (unpackS w)
  | 0xB2 => .trdec (unpackR w)
  | 0xB3 => .trdecn (unpackS w)
  | 0xB4 => .trenc (unpackS w)
  | 0xB5 => .trwait (unpackC w)
  | 0xC0 => .topen (unpackS w)
  | 0xC1 => .trec (unpackS w)
  | 0xC2 => .tbr (unpackS w)
  | 0xC3 => .tmark (unpackS w)
  | 0xC4 => .tclose (unpackS w)
  | 0xC5 => .trev (unpackS w)
  | 0xC6 => .tget (unpackS w)
  | 0xC7 => .tbrp (unpackS w)
  | 0xC8 => .tstat (unpackS w)
  | 0xC9 => .tgrant (unpackS w)
  | 0xD0 => .sread (unpackS w)
  | 0xD1 => .swrite (unpackS w)
  | 0xD2 => .evmark (unpackS w)
  | 0xD3 => .sleep (unpackS w)
  | 0xD4 => .caprd (unpackS w)
  | 0xD5 => .eret (unpackS w)
  | 0xD6 => .trapr (unpackS w)
  | 0xD7 => .energy (unpackS w)
  | 0xD8 => .perfsel (unpackS w)
  | 0xD9 => .perfrd (unpackS w)
  | _ => .unassignedOpcode w

/-- How many extension words follow a word (R226). -/
def extCount (w : Dword) : Nat :=
  match (opcodeOf w).toNat with
  | 0x30 => if w.getLsbD 24 then 1 else 0
  | 0x31 => if w.getLsbD 24 then 1 else 0
  | 0x32 => if w.getLsbD 24 then 1 else 0
  | 0x33 => if w.getLsbD 24 then 1 else 0
  | 0x34 => if w.getLsbD 24 then 1 else 0
  | 0x35 => if w.getLsbD 24 then 1 else 0
  | 0x36 => if w.getLsbD 24 then 1 else 0
  | 0x37 => if w.getLsbD 24 then 1 else 0
  | 0x38 => if w.getLsbD 24 then 1 else 0
  | 0x39 => if w.getLsbD 24 then 1 else 0
  | 0x3A => if w.getLsbD 24 then 1 else 0
  | 0x3F => if w.getLsbD 24 then 1 else 0
  | 0x58 => if w.getLsbD 24 then 1 else 0
  | 0x59 => if w.getLsbD 24 then 1 else 0
  | 0x5A => if w.getLsbD 24 then 1 else 0
  | 0x80 => if w.getLsbD 3 then 1 else 0
  | 0x81 => if w.getLsbD 3 then 1 else 0
  | 0x82 => if w.getLsbD 3 then 1 else 0
  | 0x83 => if w.getLsbD 3 then 1 else 0
  | 0x84 => if w.getLsbD 3 then 1 else 0
  | 0x85 => if w.getLsbD 3 then 1 else 0
  | 0x86 => if w.getLsbD 3 then 1 else 0
  | 0x8E => if w.getLsbD 3 then 1 else 0
  | 0x8F => if w.getLsbD 3 then 1 else 0
  | 0x87 => if w.getLsbD 3 then 2 else 1
  | 0x88 => if w.getLsbD 3 then 2 else 1
  | 0x89 => if w.getLsbD 3 then 2 else 1
  | 0x90 => if w.getLsbD 3 then 2 else 1
  | 0x06 => caseWords (w.extractLsb' 10 4)
  | _ => 0

/-- Eight bytes read as a little-endian word (R6). -/
def wordOfBytes (bs : List Byte) : Dword :=
  BitVec.ofNat 64 (bs.foldr (fun b acc => b.toNat + 256 * acc) 0)

/-- The bytes of a word, lowest first (R6). -/
def bytesOfWord (w : Dword) : List Byte :=
  (List.range 8).map fun k => w.extractLsb' (8 * k) 8

/-- Why bytes are no instruction. -/
inductive DecodeError where
  /-- fewer bytes than the instruction and its extension words have (R227) -/
  | short
  deriving DecidableEq, Repr

/-- The instruction words of a byte string, in order; a part shorter than a word is left out. -/
def wordsOf : Nat → List Byte → List Dword
  | 0, _ => []
  | n + 1, bs => if bs.length < 8 then [] else wordOfBytes (bs.take 8) :: wordsOf n (bs.drop 8)

/-- One instruction from its words (R226, R227): the instruction and the words it leaves. -/
def decodeWords : List Dword → Except DecodeError (Instr × List Dword)
  | [] => .error .short
  | w :: rest =>
    if rest.length < extCount w then .error .short
    else .ok (fromWords w (rest.take (extCount w)), rest.drop (extCount w))

/-- One instruction from the bytes at an instruction's address, five words at the most (R226). -/
def decode (bs : List Byte) : Except DecodeError Instr :=
  match decodeWords (wordsOf 5 bs) with
  | .ok (i, _) => .ok i
  | .error e => .error e

/-- The bytes of an instruction whose bits are w, bit 0 the least significant of its first word; the
bits from nbits up are 0, to the longest instruction, five words (R226). -/
def tableBytes (nbits w : Nat) : List Byte :=
  (List.range 40).map fun k => BitVec.ofNat 8 ((w % 2 ^ nbits) >>> (8 * k))

/-- What the decoder reads from an instruction whose bits are w. -/
def decodeTableWord (nbits w : Nat) : Option Instr :=
  match decode (tableBytes nbits w) with
  | .ok i => some i
  | .error _ => none

/-- Bits [63:50] (R228). -/
def packHead (op : BitVec 8) (g : Guard) : BitVec 14 :=
  op ++ BitVec.ofBool g.enable ++ BitVec.ofBool g.negate ++ g.mask

/-- Table 9.3. -/
def packR (op : BitVec 8) (f : FmtR) : Dword :=
  packHead op f.guard ++ f.d ++ f.a ++ f.b ++ f.c ++ f.f ++ f.mod ++ f.ea ++ f.clamp ++ f.sc

/-- R234. -/
def packI (op : BitVec 8) (f : FmtI) : List Dword :=
  (packHead op f.guard ++ f.d ++ f.a ++ f.f ++ BitVec.ofBool f.abs ++ BitVec.ofBool f.neg ++
    BitVec.ofBool f.ea ++ f.clamp ++ BitVec.ofBool f.ext.isSome ++ f.imm) :: f.ext.toList

/-- Table 9.7, the first word. -/
def packMWord (op : BitVec 8) (f : FmtM) : Dword :=
  packHead op f.guard ++ f.data ++ f.base ++ f.index ++ BitVec.ofBool f.indexEnable ++ f.scale ++
    f.space ++ f.size ++ f.f ++ f.order ++ f.scope ++ f.hint ++ BitVec.ofBool f.ea ++
    BitVec.ofBool f.ext.isSome ++ f.count

/-- Table 9.7. -/
def packM (op : BitVec 8) (f : FmtM) : List Dword :=
  packMWord op f :: f.ext.toList

/-- R226: the operand word before the offset word. -/
def packMO (op : BitVec 8) (f : FmtMO) : List Dword :=
  packMWord op f.m :: f.operand :: f.m.ext.toList

/-- Table 9.9. -/
def packC (op : BitVec 8) (f : FmtC) : Dword :=
  packHead op f.guard ++ f.offset ++ f.mask ++ f.site ++ f.low

/-- R238. -/
def packX (op : BitVec 8) (f : FmtX) : Dword :=
  packHead op f.guard ++ f.z ++ f.base ++ f.bank ++ f.f ++ f.planes ++ BitVec.ofBool f.sparse ++ f.k ++
    BitVec.ofBool f.useK ++ f.acc ++ f.low

/-- R239. -/
def packS (op : BitVec 8) (f : FmtS) : Dword :=
  packHead op f.guard ++ f.d ++ f.a ++ f.sel ++ f.b ++ f.c ++ f.o

/-- The words of an instruction, the first at the lowest address: the other direction of Table 9.12.
A step that no word stands for has none. -/
def encode : Instr → List Dword
  | .nop f => [packC 0x01 f]
  | .bra f => [packC 0x02 f]
  | .brx f => [packC 0x03 f]
  | .call f => [packC 0x04 f]
  | .ret f => [packC 0x05 f]
  | .switch f => packC 0x06 f.c :: f.cases
  | .rset f => [packC 0x07 f]
  | .rwait f => [packC 0x08 f]
  | .rleave f => [packC 0x09 f]
  | .yield f => [packC 0x0A f]
  | .exit f => [packC 0x0B f]
  | .region f => [packC 0x0C f]
  | .launch f => [packS 0x0D f]
  | .trap f => [packC 0x0E f]
  | .bkpt f => [packC 0x0F f]
  | .iadd f => [packR 0x10 f]
  | .isub f => [packR 0x11 f]
  | .imul f => [packR 0x12 f]
  | .imulh f => [packR 0x13 f]
  | .imad f => [packR 0x14 f]
  | .idiv f => [packR 0x15 f]
  | .irem f => [packR 0x16 f]
  | .imin f => [packR 0x17 f]
  | .imax f => [packR 0x18 f]
  | .iabs f => [packR 0x19 f]
  | .ineg f => [packR 0x1A f]
  | .isat f => [packR 0x1B f]
  | .iadds f => [packR 0x1C f]
  | .isubs f => [packR 0x1D f]
  | .icmp f => [packR 0x1E f]
  | .qadd f => [packR 0x1F f]
  | .and f => [packR 0x20 f]
  | .or f => [packR 0x21 f]
  | .xor f => [packR 0x22 f]
  | .andn f => [packR 0x23 f]
  | .not f => [packR 0x24 f]
  | .shl f => [packR 0x25 f]
  | .shr f => [packR 0x26 f]
  | .sar f => [packR 0x27 f]
  | .rol f => [packR 0x28 f]
  | .bfx f => [packR 0x29 f]
  | .bfi f => [packR 0x2A f]
  | .popc f => [packR 0x2B f]
  | .clz f => [packR 0x2C f]
  | .ctz f => [packR 0x2D f]
  | .brev f => [packR 0x2E f]
  | .lea f => [packR 0x2F f]
  | .iaddi f => packI 0x30 f
  | .imuli f => packI 0x31 f
  | .andi f => packI 0x32 f
  | .ori f => packI 0x33 f
  | .xori f => packI 0x34 f
  | .shli f => packI 0x35 f
  | .shri f => packI 0x36 f
  | .sari f => packI 0x37 f
  | .icmpi f => packI 0x38 f
  | .imadi f => packI 0x3F f
  | .movi f => packI 0x39 f
  | .movw f => packI 0x3A f
  | .mov f => [packR 0x3B f]
  | .sel f => [packR 0x3C f]
  | .movs f => [packR 0x3D f]
  | .prmt f => [packR 0x3E f]
  | .fadd f => [packR 0x40 f]
  | .fsub f => [packR 0x41 f]
  | .fmul f => [packR 0x42 f]
  | .ffma f => [packR 0x43 f]
  | .fmin f => [packR 0x44 f]
  | .fmax f => [packR 0x45 f]
  | .fminn f => [packR 0x46 f]
  | .fmaxn f => [packR 0x47 f]
  | .fcmp f => [packR 0x48 f]
  | .fclass f => [packR 0x49 f]
  | .fdiv f => [packR 0x4A f]
  | .fsqrt f => [packR 0x4B f]
  | .frcp f => [packR 0x4C f]
  | .frsq f => [packR 0x4D f]
  | .fexp2 f => [packR 0x4E f]
  | .flog2 f => [packR 0x4F f]
  | .fsin f => [packR 0x50 f]
  | .fcos f => [packR 0x51 f]
  | .ftanh f => [packR 0x52 f]
  | .frnd f => [packR 0x53 f]
  | .fscale f => [packR 0x54 f]
  | .fcvt f => [packR 0x55 f]
  | .ftoi f => [packR 0x56 f]
  | .itof f => [packR 0x57 f]
  | .faddi f => packI 0x58 f
  | .fmuli f => packI 0x59 f
  | .ffmai f => packI 0x5A f
  | .exte f => [packR 0x5B f]
  | .inse f => [packR 0x5C f]
  | .srseed f => [packR 0x5D f]
  | .fmtset f => [packR 0x5E f]
  | .fmtget f => [packR 0x5F f]
  | .fmtchk f => [packR 0x60 f]
  | .rand f => [packR 0x61 f]
  | .wrng f => [packR 0x62 f]
  | .mand f => [packR 0x63 f]
  | .mor f => [packR 0x64 f]
  | .mxor f => [packR 0x65 f]
  | .mnot f => [packR 0x66 f]
  | .mpopc f => [packR 0x67 f]
  | .mfirst f => [packR 0x68 f]
  | .ballot f => [packR 0x69 f]
  | .mtos f => [packR 0x6A f]
  | .stom f => [packR 0x6B f]
  | .vote f => [packR 0x6C f]
  | .shfl f => [packR 0x6D f]
  | .shflb f => [packR 0x6E f]
  | .bfly f => [packR 0x6F f]
  | .qswp f => [packR 0x70 f]
  | .qbcst f => [packR 0x71 f]
  | .wred f => [packR 0x72 f]
  | .wscan f => [packR 0x73 f]
  | .ld f => packM 0x80 f
  | .st f => packM 0x81 f
  | .ldf f => packM 0x82 f
  | .stf f => packM 0x83 f
  | .pref f => packM 0x84 f
  | .ipref f => packM 0x85 f
  | .fence f => packM 0x86 f
  | .atom f => packMO 0x87 f
  | .red f => packMO 0x88 f
  | .cas f => packMO 0x89 f
  | .txb f => [packC 0x8A f]
  | .txe f => [packC 0x8B f]
  | .txa f => [packC 0x8C f]
  | .txst f => [packR 0x8D f]
  | .amxadv f => packM 0x8E f
  | .sclget f => packM 0x8F f
  | .cpa f => packMO 0x90 f
  | .cpwait f => [packC 0x91 f]
  | .cpcnt f => [packS 0x92 f]
  | .kick f => [packS 0x93 f]
  | .binit f => [packR 0x94 f]
  | .barr f => [packR 0x95 f]
  | .bwait f => [packR 0x96 f]
  | .btest f => [packR 0x97 f]
  | .bar f => [packC 0x98 f]
  | .gsync f => [packC 0x99 f]
  | .monw f => [packR 0x9A f]
  | .monx f => [packR 0x9B f]
  | .mldb f => [packX 0xA0 f]
  | .mldbs f => [packX 0xA1 f]
  | .mldt f => [packX 0xA2 f]
  | .mma f => [packX 0xA3 f]
  | .mmas f => [packX 0xA4 f]
  | .msig f => [packX 0xA5 f]
  | .mkset f => [packX 0xA6 f]
  | .mzero f => [packX 0xA7 f]
  | .mst f => [packX 0xA8 f]
  | .mrd f => [packX 0xA9 f]
  | .mwr f => [packX 0xAA f]
  | .mscl f => [packX 0xAB f]
  | .mwait f => [packX 0xAC f]
  | .mstat f => [packX 0xAD f]
  | .wset f => [packS 0xB0 f]
  | .wget f => [packS 0xB1 f]
  | .trdec f => [packR 0xB2 f]
  | .trdecn f => [packS 0xB3 f]
  | .trenc f => [packS 0xB4 f]
  | .trwait f => [packC 0xB5 f]
  | .topen f => [packS 0xC0 f]
  | .trec f => [packS 0xC1 f]
  | .tbr f => [packS 0xC2 f]
  | .tmark f => [packS 0xC3 f]
  | .tclose f => [packS 0xC4 f]
  | .trev f => [packS 0xC5 f]
  | .tget f => [packS 0xC6 f]
  | .tbrp f => [packS 0xC7 f]
  | .tstat f => [packS 0xC8 f]
  | .tgrant f => [packS 0xC9 f]
  | .sread f => [packS 0xD0 f]
  | .swrite f => [packS 0xD1 f]
  | .evmark f => [packS 0xD2 f]
  | .sleep f => [packS 0xD3 f]
  | .caprd f => [packS 0xD4 f]
  | .eret f => [packS 0xD5 f]
  | .trapr f => [packS 0xD6 f]
  | .energy f => [packS 0xD7 f]
  | .perfsel f => [packS 0xD8 f]
  | .perfrd f => [packS 0xD9 f]
  | .unassignedOpcode w => [w]
  | .producerComplete _ _ _ => []
  | .storeQueueDrain _ _ => []
  | .tableWalk _ _ _ _ _ => []
  | .faultEntryRecheck _ _ => []
  | .faultQueueWaitEnd _ => []
  | .faultResolutionLimit _ _ => []
  | .icacheFill _ _ => []
  | .cpaJobComplete _ => []
  | .kickRequestComplete _ => []
  | .trellisJobComplete _ => []
  | .caprdJobComplete _ => []
  | .matrixOpExecute _ => []
  | .matrixOpComplete _ => []
  | .formatEmulation _ _ _ => []
  | .monitorTimeout _ _ => []
  | .sleepExpiry _ _ _ => []
  | .barrierDeadlock _ => []
  | .gangBarrierDeadlock _ => []
  | .rejoinDeadlock _ _ => []
  | .trapDelivery _ _ => []
  | .watchdog _ => []
  | .workGroupPlace _ => []
  | .gangPlace _ => []
  | .headAged _ _ _ => []
  | .warpSwap _ _ => []
  | .ageingPromotion _ _ _ => []
  | .workGroupRetire _ => []
  | .launchComplete _ => []
  | .timeSlice _ _ => []
  | .gangSave _ => []
  | .preemptionComplete _ => []
  | .preemptionDeadline _ => []
  | .translationInvalidateComplete _ => []
  | .clockStepDown _ => []
  | .clockStepUp _ => []
  | .varveTimeAnchor _ => []
  | .issueSample _ _ => []
  | .varveDropRecord _ => []
  | .freezeArrival _ => []
  | .capsuleSeal => []
  | .createContext _ => []
  | .destroyContext _ => []
  | .load _ => []
  | .unload _ => []
  | .hostLaunch _ => []
  | .preEmpt _ => []
  | .resume _ => []
  | .translationInvalidate _ => []
  | .instructionCacheInvalidate _ => []
  | .forcedReset _ => []
  | .quote _ => []
  | .capsuleRelease _ => []
  | .faultReplay _ => []
  | .faultFail _ => []
  | .trapResume _ => []
  | .trapReset _ => []
  | .lostLineClear _ => []
  | .writePerformedAtHomeSlice _ _ => []
  | .badOpcode _ => []
  | .patrolScrub _ => []
  | .powerSample _ _ => []
  | .linkCrcRetransmit _ _ => []
  | .linkRetrainFailure _ => []
  | .powerGood _ => []
  | .bringUpTimeout => []
  | .powerLoss => []
  | .managementWarmReset => []
  | .managementColdReset => []
  | .managementCapsuleRelease => []
  | .managementReadCapsule _ => []
  | .managementReadSummary _ => []
  | .managementReadStatus => []
  | .managementReadKeys => []
  | .managementReadTelemetry => []
  | .hostWrite _ _ => []
  | .hostRead _ _ => []
  | .peerInboundAccess _ _ _ _ => []
  | .sessionAgree _ _ => []
  | .frameReceive _ _ _ _ => []
  | .frameTransmit _ _ => []
  | .sessionRekey _ => []
  | .oldKeyExpiry _ => []
  | .registerWrite _ _ => []
  | .cplHeadWrite _ _ => []
  | .lrReadWrite _ _ => []
  | .peerAcknowledgement _ => []
  | .liveRouteChange _ _ => []
  | .doorbell _ _ => []

end Sys2Proof
end

