-- ==== Sys2Proof/Config.lean ====
section
/-! DEFINITION. What an implementation fixes and what the manual leaves open. A constant here without a
body is a FREE VALUE: no proof can see what it is, so a claim holds whatever it is. Each is named in a
row of notes/assumptions. -/

namespace Sys2Proof.Config

/-- FREE VALUE (log 2): which of the moves that are possible comes next, at step `tick` (R197). -/
opaque pick : Nat → Nat

/-- FREE VALUE (log 2): picoseconds that pass in the step `tick`. -/
opaque elapsedPs : Nat → Nat

/-- FREE VALUE (log 10): which entry of a full TLB, walk cache, instruction-cache set or trace cache is replaced (R24,
R52). -/
opaque victim : Nat → Nat

/-- FREE VALUE (log 11): whether a byte of a granule last held by the same context keeps its value
(R47), for the placement `tick` and the byte's offset. -/
opaque keepsByte : Nat → Nat → Bool

/-- FREE VALUE (log 11): which of the free granules a new work-group takes next, for the placement `tick`. -/
opaque leftGranule : Nat → Nat → Nat

/-- FREE VALUE (log 20): a field of a launch record whose source the device has not read, because the
launch was refused before: field k, at the running number of the refusal (Table 8.7). Also other words the manual does not
state (log 22). -/
opaque unread (k n : Nat) : Nat

/-- FREE VALUE (log 21): what a performance counter of a timing event holds at step `tick` (Table 18.3):
the model keeps no time inside the core. -/
opaque timingCount (event tick : Nat) : Nat

/-- FREE VALUE (log 68): whether a fetch of a word that was written after its line was cached returns the new content
(R52), at step `tick`, by physical address. -/
opaque fetchesNew (tick pa : Nat) : Bool

/-- FREE VALUE (log 81): which of the values that a location has held a read returns after a violation (R145), at step
`tick`, for a lane and a location. -/
opaque heldValue (tick lane word : Nat) : Nat

/-- FREE VALUE (log 145): whether a sub-core fetches for a split whose words are not in reach before it issues a ready
one (R211, R213), at step `tick`. -/
opaque fetchesAhead (tick : Nat) : Bool

/-- FREE VALUE (log 12): a tie between two neighbours of odd code on the two sides of a removed special
code (R81): true takes the larger magnitude. Applied to the record and the lower code. -/
opaque oddTie : Dword → Nat → Bool

/-- FREE VALUE (log 13): the secret S the security core draws at a sealing (R437). -/
opaque capsuleSecret : Nat → BitVec 256

/-- FREE VALUE (log 107): whether the commit of a limit to non-volatile storage succeeds (R440, R441), at step `tick`. -/
opaque commits (tick : Nat) : Bool

/-- FREE VALUE (log 14): the XMSS signature of R439 by a key of the module over a message, at an index. -/
opaque xmssSign (key : Nat) (index : Nat) (message : List Byte) : List Byte

/-- FREE VALUE (log 14): whether an XMSS signature verifies under the key with this digest (R449). -/
opaque xmssVerify (keyDigest : BitVec 256) (message : List Byte) (signature : List Byte) : Bool

/-- FREE VALUE (log 14): the public keys of R465, capsule key 0 and identity key 1. -/
opaque publicKey (key : Nat) : List Byte

/-- FREE VALUE (log 15): the shared secret a session agreement or a rekey yields (R464). -/
opaque sessionSecret : Nat → BitVec 256

/-- FREE VALUE (log 15): AES-256-GCM of R464: the tag of a body under a key and a nonce. -/
opaque gcmTag (key : BitVec 256) (nonce : BitVec 96) (body : List Byte) : BitVec 128

/-- FREE VALUE (log 15): AES-256-GCM of R464: the ciphertext of a body. -/
opaque gcmSeal (key : BitVec 256) (nonce : BitVec 96) (body : List Byte) : List Byte

/-- FREE VALUE (log 16): the image that the translator emits for a Bacel module that it does not reject (R459). -/
opaque bacelImage : List Byte → List Byte

/-- FREE VALUE (log 26): what the kernels of a metadata segment require, a shape code (0 none) and `.determ`
(R457 gives the records no byte layout). -/
opaque kernelShapes : List (BitVec 8) → List (Nat × Bool)

/-- FREE VALUE (log 16): version of the Bacel translator (R453, tag 0x03). -/
opaque bacelVersion : BitVec 32

/-- FREE VALUE (log 17): what the power manager measures besides Tj at step `tick`: 0 the die's power is over
480 W, 1 an HBM stack is above 95 °C, 2 the module's power is over 14 kW (Table 24.3). -/
opaque sense (quantity die tick : Nat) : Bool

/-- FREE VALUE (log 17): the junction temperature a die's power manager measures at step `tick` (R467). -/
opaque junction (die tick : Nat) : Int

/-- FREE VALUE (log 17): power figures read over the management link (R465). -/
opaque telemetry : Nat → List Byte

/-- Device revision of the VK9-M24 (R454). -/
def deviceRevision : BitVec 32 := 0x00090100#32

/-- The hardware's feature word 1 (Table 18.2): the VK9-M24 has every feature this manual describes. -/
def hardwareFeatures : BitVec 32 := 0x3F#32

end Sys2Proof.Config
end

