-- ==== Sys2Proof/Machine/Exact.lean ====
section
/-! DEFINITION. Exact numbers: every floating result is formed exactly and rounded once (file 11). -/

namespace Sys2Proof.Machine

/-- A rational number num / den, den above 0, not reduced. -/
structure Q where
  num : Int
  den : Nat
  deriving DecidableEq, Repr

namespace Q

/-- The integer n. -/
def ofInt (n : Int) : Q := ⟨n, 1⟩

/-- 2 to the power e. -/
def pow2 (e : Int) : Q := if 0 ≤ e then ⟨2 ^ e.toNat, 1⟩ else ⟨1, 2 ^ (-e).toNat⟩

/-- x × 2^e. -/
def scale (x : Q) (e : Int) : Q :=
  if 0 ≤ e then ⟨x.num * 2 ^ e.toNat, x.den⟩ else ⟨x.num, x.den * 2 ^ (-e).toNat⟩

/-- n × 2^e. -/
def dyadic (n : Int) (e : Int) : Q := (ofInt n).scale e

def add (x y : Q) : Q := ⟨x.num * y.den + y.num * x.den, x.den * y.den⟩

def neg (x : Q) : Q := ⟨-x.num, x.den⟩

def sub (x y : Q) : Q := x.add y.neg

def mul (x y : Q) : Q := ⟨x.num * y.num, x.den * y.den⟩

/-- x / y for nonzero y. -/
def div (x y : Q) : Q :=
  if 0 ≤ y.num then ⟨x.num * y.den, x.den * y.num.toNat⟩
  else ⟨-(x.num * y.den), x.den * (-y.num).toNat⟩

def abs (x : Q) : Q := ⟨x.num.natAbs, x.den⟩

def isZero (x : Q) : Bool := x.num == 0

def isNeg (x : Q) : Bool := x.num < 0

def lt (x y : Q) : Bool := x.num * y.den < y.num * x.den

def le (x y : Q) : Bool := x.num * y.den ≤ y.num * x.den

def eq (x y : Q) : Bool := x.num * y.den == y.num * x.den

def floor (x : Q) : Int := Int.fdiv x.num x.den

/-- ⌊log2 x⌋ of a positive x. -/
def log2 (x : Q) : Int :=
  let e : Int := (Nat.log2 x.num.toNat : Int) - (Nat.log2 x.den : Int)
  if le (pow2 e) x then e else e - 1

end Q

/-- A value a code stands for (R76 to R78), or the exact value of an operation. A zero keeps its sign. -/
inductive Val where
  | nan
  | inf (neg : Bool)
  | zero (neg : Bool)
  /-- a finite nonzero value -/
  | fin (q : Q)
  deriving DecidableEq, Repr

namespace Val

/-- A rational as a value; zero is +0. -/
def ofQ (q : Q) : Val := if q.isZero then .zero false else .fin q

def isNan : Val → Bool
  | .nan => true
  | _ => false

def isInf : Val → Bool
  | .inf _ => true
  | _ => false

def isZero : Val → Bool
  | .zero _ => true
  | _ => false

/-- The sign of a value that is no NaN; a NaN counts as positive. -/
def sign : Val → Bool
  | .nan => false
  | .inf s => s
  | .zero s => s
  | .fin q => q.isNeg

/-- The value as a rational, infinities and NaN left out. -/
def toQ : Val → Q
  | .fin q => q
  | _ => ⟨0, 1⟩

def neg : Val → Val
  | .nan => .nan
  | .inf s => .inf !s
  | .zero s => .zero !s
  | .fin q => .fin q.neg

def abs : Val → Val
  | .nan => .nan
  | .inf _ => .inf false
  | .zero _ => .zero false
  | .fin q => .fin q.abs

/-- R276 rules 1, 3, 4 and 5: a sum; an exact zero sum takes the common sign of two zeros, otherwise +0,
or −0 when the rounding is RDN. -/
def add (rdn : Bool) : Val → Val → Val
  | .nan, _ => .nan
  | _, .nan => .nan
  | .inf s, .inf t => if s == t then .inf s else .nan
  | .inf s, _ => .inf s
  | _, .inf t => .inf t
  | .zero s, .zero t => if s == t then .zero s else .zero rdn
  | .zero _, .fin q => .fin q
  | .fin q, .zero _ => .fin q
  | .fin p, .fin q => let r := p.add q; if r.isZero then .zero rdn else .fin r

/-- R276 rules 1, 2, 4 and 5: a product. -/
def mul (a b : Val) : Val :=
  if a.isNan || b.isNan then .nan
  else if a.isInf || b.isInf then
    if a.isZero || b.isZero then .nan else .inf (a.sign != b.sign)
  else if a.isZero || b.isZero then .zero (a.sign != b.sign)
  else .fin (a.toQ.mul b.toQ)

/-- Numeric order of two values that are no NaN, −0 below +0 (R277). -/
def below (a b : Val) : Bool :=
  match a, b with
  | .inf s, .inf t => s && !t
  | .inf s, _ => s
  | _, .inf t => !t
  | .zero s, .zero t => s && !t
  | _, _ => a.toQ.lt b.toQ

/-- Equality of two values that are no NaN; zeros of both signs are equal (R278). -/
def same (a b : Val) : Bool :=
  match a, b with
  | .inf s, .inf t => s == t
  | .inf _, _ => false
  | _, .inf _ => false
  | _, _ => a.toQ.eq b.toQ

/-- Numeric order of two values that are no NaN, zeros of both signs equal (R278). -/
def less (a b : Val) : Bool :=
  match a, b with
  | .inf s, .inf t => s && !t
  | .inf s, _ => s
  | _, .inf t => !t
  | _, _ => a.toQ.lt b.toQ

/-- x × 2^e, exact. -/
def scale (e : Int) : Val → Val
  | .fin q => .fin (q.scale e)
  | v => v

/-- R277: the lesser of two, NaN if either is NaN, −0 below +0. -/
def min (a b : Val) : Val :=
  if a.isNan || b.isNan then .nan else if b.below a then b else a

/-- R277: the greater of two, NaN if either is NaN. -/
def max (a b : Val) : Val :=
  if a.isNan || b.isNan then .nan else if a.below b then b else a

end Val

end Sys2Proof.Machine
end

