-- ==== Sys2Proof/Machine/Formats.lean ====
section
/-! DEFINITION. Format records and number formats (file 03): the record's fields, its checks, decoding a
code, encoding an exact value, packed elements. -/

namespace Sys2Proof.Machine

namespace Rec

/-! The fields of a format record, Table 3.1. -/

def m (r : Dword) : Nat := (r.extractLsb' 0 6).toNat
def e (r : Dword) : Nat := (r.extractLsb' 6 4).toNat
def s (r : Dword) : Nat := (r.extractLsb' 10 1).toNat
def bias (r : Dword) : Int := (r.extractLsb' 12 12).toInt
def infCode (r : Dword) : Nat := (r.extractLsb' 24 2).toNat
def nanCode (r : Dword) : Nat := (r.extractLsb' 26 2).toNat
def flushIn (r : Dword) : Bool := r.getLsbD 28
def flushOut (r : Dword) : Bool := r.getLsbD 29
def round (r : Dword) : Nat := (r.extractLsb' 30 3).toNat
def sat (r : Dword) : Bool := r.getLsbD 33
def intOvf (r : Dword) : Nat := (r.extractLsb' 34 2).toNat
def srBits (r : Dword) : Nat := (r.extractLsb' 36 4).toNat
def version (r : Dword) : Nat := (r.extractLsb' 48 8).toNat

/-- Width in bits (R72). -/
def w (r : Dword) : Nat := s r + e r + m r

/-- E = 0 selects integer or fixed point (Table 3.1). -/
def isInt (r : Dword) : Bool := e r == 0

/-- Elements per register, ⌊32 / w⌋, or one per pair above 32 bits (R89). -/
def ne (r : Dword) : Nat := if w r ≤ 32 then 32 / w r else 1

/-- Magnitude codes of a floating record, sign bit cleared (R72), number 2^(E+M). -/
def magTop (r : Dword) : Nat := 2 ^ (e r + m r) - 1

/-- The magnitude code with exponent all ones and fraction zero. -/
def infRow (r : Dword) : Nat := (2 ^ e r - 1) * 2 ^ m r

/-- Whether a magnitude code is an infinity (Table 3.5). -/
def isInfMag (r : Dword) (c : Nat) : Bool :=
  (infCode r == 1 && c == infRow r) || (infCode r == 2 && c == magTop r)

/-- Whether a magnitude code is a NaN, whatever its sign (Table 3.5, NanCode 1 and 2). -/
def isNanMag (r : Dword) (c : Nat) : Bool :=
  (nanCode r == 1 && infRow r < c) || (nanCode r == 2 && c == magTop r)

/-- The largest magnitude code that is not special (R76); 0 when there is no positive finite value. -/
def maxMag (r : Dword) : Nat :=
  let c := if nanCode r == 1 then infRow r
    else if infCode r == 2 || nanCode r == 2 then magTop r - 1 else magTop r
  if infCode r == 1 && c == infRow r then c - 1 else c

/-- The check code of a record, 0 when every check of Table 3.2 passes (R73). -/
def check (r : Dword) : Nat :=
  if version r ≠ 1 then 1
  else if r.getLsbD 11 || r.extractLsb' 40 8 ≠ 0 || r.extractLsb' 56 8 ≠ 0 then 2
  else if 11 < e r then 3
  else if w r = 0 ∨ 64 < w r ∨ (0 < e r ∧ 52 < m r) then 4
  else if e r = 0 ∧ (infCode r ≠ 0 ∨ nanCode r ≠ 0) then 5
  else if infCode r = 3 ∨ round r = 7 ∨ (e r = 0 ∧ 2 ≤ intOvf r) then 6
  else if (nanCode r = 1 ∧ m r = 0) ∨ (nanCode r = 3 ∧ s r = 0) ∨ (0 < e r ∧ maxMag r = 0) then 7
  else if (infCode r = 2 ∧ (nanCode r = 1 ∨ nanCode r = 2)) ∨
      (infCode r = 1 ∧ nanCode r = 2 ∧ m r = 0) then 8
  else 0

/-- The value of a magnitude code of a floating record, its exponent range continued without bound
(R76, R81). -/
def magQ (r : Dword) (c : Nat) : Q :=
  let ex := c / 2 ^ m r
  let f := c % 2 ^ m r
  if ex = 0 then .dyadic f (1 - bias r - m r)
  else .dyadic (2 ^ m r + f) ((ex : Int) - bias r - m r)

/-- Range of n of an integer record (R78). -/
def intMin (r : Dword) : Int := if s r = 1 then -(2 ^ m r) else 0

def intMax (r : Dword) : Int := 2 ^ m r - 1

/-- The largest finite value; of an integer record the largest n × 2^(−P) (R76, R78, R108). -/
def maxFinite (r : Dword) : Q :=
  if isInt r then .dyadic (intMax r) (-bias r) else magQ r (maxMag r)

/-- The sign bit, in place. -/
def signBit (r : Dword) (neg : Bool) : Nat :=
  if neg && s r == 1 then 2 ^ (e r + m r) else 0

/-- The code of a zero; a format of NanCode 3 has no −0, one without sign neither (R77, R86). -/
def zeroCode (r : Dword) (neg : Bool) : Nat :=
  if nanCode r == 3 then 0 else signBit r neg

/-- The canonical NaN of a format that has one (R80). -/
def nanCanon (r : Dword) : Nat :=
  match nanCode r with
  | 1 => infRow r + 2 ^ (m r - 1)
  | 2 => magTop r
  | _ => 2 ^ (e r + m r)

/-- A NaN written to a record: canonical, +0 without NaN, 0 in an integer record (R80, R86, R87). -/
def nanOut (r : Dword) : Nat := if isInt r || nanCode r == 0 then 0 else nanCanon r

end Rec

/-- The value of a code under a record, R76 to R79, FlushIn applied when `flush` (R79). -/
def decodeVal (r : Dword) (flush : Bool) (code : Nat) : Val :=
  let c := code % 2 ^ Rec.w r
  if Rec.isInt r then
    let n : Int := if Rec.s r = 1 ∧ 2 ^ Rec.m r ≤ c then (c : Int) - 2 ^ Rec.w r else c
    .ofQ (.dyadic n (-Rec.bias r))
  else
    let mag := c % 2 ^ (Rec.e r + Rec.m r)
    let neg := Rec.s r == 1 && 2 ^ (Rec.e r + Rec.m r) ≤ c
    if Rec.isNanMag r mag || (Rec.nanCode r == 3 && neg && mag == 0) then .nan
    else if Rec.isInfMag r mag then .inf neg
    else if mag = 0 then .zero neg
    else if flush && Rec.flushIn r && mag < 2 ^ Rec.m r then .zero (neg && Rec.nanCode r != 3)
    else let q := Rec.magQ r mag; .fin (if neg then q.neg else q)

/-- decode of Table 9.14. -/
def decodeCode (r : Dword) (code : Nat) : Val := decodeVal r true code

/-- A rounding choice between the neighbours a and c of |x|, |a| < |x| < |c| (Table 3.6): true takes c.
`aOdd` and `cOdd` are the parities, `word` the random word of a stochastic rounding (R82), `tie` what a
tie takes when neither neighbour is even (log 12). -/
def roundsUp (mode : Nat) (neg aOdd cOdd : Bool) (a c x : Q) (srBits word : Nat) (tie : Bool) : Bool :=
  let lo := x.sub a
  let hi := c.sub x
  match mode with
  | 0 => if lo.eq hi then (if aOdd && cOdd then tie else aOdd) else hi.lt lo
  | 1 => false
  | 2 => !neg
  | 3 => neg
  | 4 => hi.le lo
  | 5 => ((word % 2 ^ (srBits + 8) : Nat) : Int) < ((lo.div (c.sub a)).scale (srBits + 8)).floor
  | _ => !aOdd

/-- Rounding of a nonzero x to an integer by a record's Round field (R87, R281). -/
def roundInt (r : Dword) (x : Q) (word : Nat) : Int :=
  let y := x.abs
  let f := y.floor
  let n : Int :=
    if y.eq (.ofInt f) then f
    else if roundsUp (Rec.round r) x.isNeg (f % 2 == 1) (f % 2 == 0) (.ofInt f) (.ofInt (f + 1)) y
        (Rec.srBits r) word false
      then f + 1 else f
  if x.isNeg then -n else n

/-- The greatest magnitude code, continued without bound, whose value is at most y > 0 (R81). -/
def floorMag (r : Dword) (y : Q) : Nat :=
  let k := y.log2
  if k < 1 - Rec.bias r then (y.scale (Rec.m r - 1 + Rec.bias r)).floor.toNat
  else (k + Rec.bias r).toNat * 2 ^ Rec.m r + ((y.scale (Rec.m r - k)).floor.toNat - 2 ^ Rec.m r)

/-- A magnitude code below the largest finite one that R77 makes special: such a value is not in the
rounding grid (R81). -/
def removedMag (r : Dword) (c : Nat) : Bool := c < Rec.maxMag r && Rec.isInfMag r c

/-- The rounded magnitude code of y > 0, continued without bound (R81, R82). -/
def roundMag (r : Dword) (neg : Bool) (y : Q) (word : Nat) : Nat :=
  let f := floorMag r y
  let exact := (Rec.magQ r f).eq y
  if exact && !removedMag r f then f
  else
    let a := if removedMag r f then f - 1 else f
    let c := if removedMag r (f + 1) || removedMag r f then a + 2 else a + 1
    if roundsUp (Rec.round r) neg (a % 2 == 1) (c % 2 == 1) (Rec.magQ r a) (Rec.magQ r c) y
        (Rec.srBits r) word (Config.oddTie r a)
      then c else a

/-- What an overflow of a sign writes, Table 3.7 (R85); a largest finite value that is subnormal is flushed after it
(R84). -/
def overflowCode (r : Dword) (neg : Bool) : Nat :=
  let largest :=
    if Rec.flushOut r && Rec.maxMag r < 2 ^ Rec.m r then Rec.zeroCode r neg else Rec.signBit r neg + Rec.maxMag r
  let md := Rec.round r
  if Rec.sat r || md == 1 || (md == 3 && !neg) || (md == 2 && neg) || md == 6 then largest
  else if Rec.infCode r == 1 then Rec.signBit r neg + Rec.infRow r
  else if Rec.infCode r == 2 then Rec.signBit r neg + Rec.magTop r
  else if Rec.nanCode r != 0 then Rec.nanCanon r
  else largest

/-- A negative nonzero result in a floating format without sign (R86). -/
def unsignedNegative (r : Dword) : Nat :=
  if Rec.nanCode r != 0 && !Rec.sat r then Rec.nanCanon r else 0

/-- An integer n written to an integer record: wrapped or clamped (R87). -/
def intCode (r : Dword) (n : Int) : Nat :=
  let n := if Rec.intOvf r = 1 then max (Rec.intMin r) (min (Rec.intMax r) n) else n
  (n % 2 ^ Rec.w r).toNat

/-- encode of Table 9.14: the code of an exact value under a record (R80 to R87), `word` being the
Fount word of a stochastic rounding. -/
def encodeVal (r : Dword) (x : Val) (word : Nat) : Nat :=
  if Rec.isInt r then
    match x with
    | .nan => 0
    | .zero _ => 0
    | .inf neg => ((if neg then Rec.intMin r else Rec.intMax r) % 2 ^ Rec.w r).toNat
    | .fin q => intCode r (roundInt r (q.scale (Rec.bias r)) word)
  else
    match x with
    | .nan => Rec.nanOut r
    | .zero neg => Rec.zeroCode r neg
    | .inf neg =>
      if neg && Rec.s r == 0 then unsignedNegative r
      else if Rec.infCode r == 1 then Rec.signBit r neg + Rec.infRow r
      else if Rec.infCode r == 2 then Rec.signBit r neg + Rec.magTop r
      else overflowCode r neg
    | .fin q =>
      let neg := q.isNeg
      let c := roundMag r neg q.abs word
      if c = 0 then Rec.zeroCode r neg
      else if neg && Rec.s r == 0 then unsignedNegative r
      else if Rec.maxMag r < c then overflowCode r neg
      else if Rec.flushOut r && c < 2 ^ Rec.m r then Rec.zeroCode r neg
      else Rec.signBit r neg + c

/-- An exact result of an operation: a value, or an irrational number given by enclosures that narrow
as their argument, a number of bits, grows (R280). -/
inductive Exact where
  | val (v : Val)
  | real (approx : Nat → Q × Q)

/-- Decides a rounding from as many bits of an irrational result as the decision needs (R280): the
first enclosure whose two ends round alike. `f` is monotone in its argument, and an irrational number
is no point where it changes, so the ends decide. DESIGN CHOICE (log 19): after 2^85 bits the lower end
decides, a case no argument reaches. -/
def decideReal (approx : Nat → Q × Q) (f : Q → Int × Bool) : (fuel p : Nat) → Int × Bool
  | 0, p => f (approx p).1
  | fuel + 1, p =>
    let lo := f (approx p).1
    let hi := f (approx p).2
    if lo = hi then lo else decideReal approx f fuel (2 * p)

/-- What a real number rounds to, where f gives the outcome for a rational. -/
def roundReal (approx : Nat → Q × Q) (f : Q → Int × Bool) : Int × Bool := decideReal approx f 80 64

/-- Clamp of `finish` (R242) on an exact value: NaN passes, a zero keeps its sign. -/
def clampVal (r : Dword) (clamp : Nat) (x : Val) : Val :=
  let lim (lo hi : Q) : Val :=
    match x with
    | .nan => .nan
    | .zero s => .zero s
    | .inf neg => .ofQ (if neg then lo else hi)
    | .fin q => .ofQ (if q.lt lo then lo else if hi.lt q then hi else q)
  match clamp with
  | 1 => lim (.ofInt 0) (.ofInt 1)
  | 2 => lim (.ofInt (-1)) (.ofInt 1)
  | 3 => lim (Rec.maxFinite r).neg (Rec.maxFinite r)
  | _ => x

/-- finish of R242: scale, clamp, encode once. -/
def finishVal (r : Dword) (sc : Int) (clamp : Nat) (x : Val) (word : Nat) : Nat :=
  encodeVal r (clampVal r clamp (x.scale sc)) word

/-- The outcome a real result is decided by: the integer before wrapping that an integer record would write, or the
code of a floating one beside its sign, so that an overflow to NaN at one end of an enclosure does not meet that of
the other sign at the other end. Within one sign the codes of an interval whose ends agree are one code. -/
def outcomeOf (r : Dword) (x : Val) (word : Nat) : Int × Bool :=
  match x with
  | .fin q => if Rec.isInt r then (roundInt r (q.scale (Rec.bias r)) word, false) else (encodeVal r x word, q.isNeg)
  | _ => (encodeVal r x word, x.sign)

/-- finish of an exact result that may be irrational. -/
def finishExact (r : Dword) (sc : Int) (clamp : Nat) (x : Exact) (word : Nat) : Nat :=
  match x with
  | .val v => finishVal r sc clamp v word
  | .real approx =>
    let f (q : Q) : Val := clampVal r clamp ((Val.ofQ q).scale sc)
    let n := (roundReal approx fun q => outcomeOf r (f q) word).1
    if Rec.isInt r then intCode r n else n.toNat

/-- elem of Table 9.14: element j of a register (R89). -/
def elemOf (x w j : Nat) : Nat := x >>> (j * w) % 2 ^ w

/-- Elements packed from element 0 up, the bits above zero (R89). -/
def packElems (w : Nat) (es : List Nat) : Nat :=
  es.foldr (fun e acc => e % 2 ^ w + acc * 2 ^ w) 0

/-- binary32 with RNE: preset f0 (Table 3.4). -/
def binary32 : Dword := 0x000100000507F617#64

/-- binary32 rounded toward +∞ (R107). -/
def binary32Up : Dword := 0x000100008507F617#64

/-- The presets of f0 to f15 at a launch (R75, Table 3.4). -/
def presetSlots : List Dword :=
  [0x000100000507F617#64, 0x000100000500F54A#64, 0x000100000507F607#64, 0x0001000008007503#64,
   0x000100000500F542#64, 0x0001000000001481#64, 0x0001000400000407#64, 0x000100000000041F#64,
   0, 0, 0, 0, 0, 0, 0, 0]

end Sys2Proof.Machine
end

