-- ==== Sys2Proof/Machine/State.lean ====
section
/-! DEFINITION. The state of the module: everything the manual gives it, as plain data. -/

namespace Sys2Proof.Machine

/-- A finite map from numbers, held as pairs with strictly rising keys. -/
abbrev Sparse (α : Type) := List (Nat × α)

/-- Physical memory: bytes by 52-bit physical address; a byte not listed is zero (R14; log 4). -/
abbrev Memory := List Host.Cell

/-- A register of a warp as a number: vector register r of lane l is 256 l + r, scalar register n is
32768 + n (R229). -/
abbrev RegKey := Nat

/-- What an error of a memory cell strikes (R65 to R70): an input from outside. -/
inductive Upset where
  /-- a word that its code corrects: it is counted on the die (R65) -/
  | corrected (die : Nat)
  /-- the same in the pool of a work-group: its counters of event 10 count it too (R65, R389) -/
  | correctedPool (wg : Nat)
  /-- a clean copy of a core beyond correction: a line of its L1, a key of its instruction cache, a trace, an entry of
  its TLB; it is dropped and counted (R66) -/
  | l1 (core line : Nat)
  | code (core key : Nat)
  | trace (core entry : Nat)
  | translation (core entry : Nat)
  /-- a clean copy of a die: an entry of its last-level TLB or of its walk cache (R66) -/
  | dieTranslation (die entry : Nat)
  | walkCache (die entry : Nat)
  /-- 32 bytes of a line in its L2 slice, by physical address / 32: a clean line is dropped and counted (R66), a dirty one
  becomes uncorrectable there (R67) -/
  | l2 (grain : Nat)
  /-- 32 bytes in HBM, by physical address / 32 (R67) -/
  | hbm (grain : Nat)
  /-- a register of a warp, a 32-bit word of a work-group's scratchpad, an element of a tile with the rest of its word,
  a 64-bit word of a copy of a bank (R67, Table 2.5) -/
  | register (wg warp key : Nat)
  | scratch (wg word : Nat)
  | tile (wg key : Nat)
  | bank (wg n : Nat) (shadow : Bool) (word : Nat)
  /-- a Varve ring of a core (R412) -/
  | ring (core : Nat)
  /-- a fault queue or firmware's own state of a die, or a trap of firmware itself (R412) -/
  | control (die : Nat)
  deriving DecidableEq, Repr

/-- Whose turn is next. The manual promises no order between agents (R197); the model plays these turns
first (log 1). -/
inductive Turn where
  /-- the sub-core issues one instruction -/
  | issue (core sub : Nat)
  /-- a step of the device or an input from outside -/
  | event (e : Instr)
  /-- time passes, in picoseconds: every die's clock makes the cycles of its own frequency (R6) -/
  | pass (ps : Nat)
  /-- a memory cell fails -/
  | upset (x : Upset)
  /-- the sub-core issues a `txe`, whose commits begin and do not end in this turn (R167) -/
  | begin_ (core sub : Nat)
  /-- the commit of a lane under way locks its next line (R167, R169) -/
  | lock (wg warp lane : Nat)
  /-- the commit of a lane under way ends (R167) -/
  | commit (wg warp lane : Nat)
  /-- a copy job reads its next source line, or, with a number, writes one of the locations it has read for (R142) -/
  | engine (job : Nat) (put : Option Nat)
  /-- a posted write of the host with the Relaxed Ordering attribute arrives: HOST_WRITE otherwise (R146) -/
  | relaxed (offset : Nat) (bytes : List Byte)
  /-- an access of the host or a peer that has arrived is performed (R141, R146) -/
  | inbound (n : Nat)
  /-- a bank shows its own core a write of another member (R138) -/
  | bank (wg n : Nat)
  /-- a debugger is attached to the management link, or detached (R392) -/
  | debugger (on : Bool)
  /-- the image of a saved work-group is altered, or becomes one of another firmware version (R410) -/
  | alter (wg : Nat)
  deriving DecidableEq, Repr

/-- The split whose instruction executes (log 1). `slots` holds the format records sampled at issue when
firmware emulates the instruction, and the lanes that its guard selected then (R74, R88, R228). -/
structure Cur where
  wg : Nat
  warp : Nat
  split : Nat
  slots : Option (List Dword × Lanes)
  deriving DecidableEq, Repr

/-- A line or block an engine job claims (R140): a 128-byte line of physical memory, or a 128-byte block
of the scratchpad of a work-group. -/
inductive Loc where
  | line (n : Nat)
  | block (wg n : Nat)
  deriving DecidableEq, Repr

/-- An address of one byte that is written or read: physical, or scratchpad of a work-group. -/
inductive Addr where
  | phys (pa : Nat)
  | scratch (wg off : Nat)
  deriving DecidableEq, Repr

/-- What a translation faulted with (Table 1.7). -/
structure Miss where
  /-- 0 not-present, 1 permission, 2 malformed, 3 physical-range, 4 walk error; 5, which no fault queue takes, a table
  in a firmware reserve: an access fault (R56) -/
  type : Nat
  level : Nat
  /-- entry value at the stopping level -/
  entry : Dword
  /-- faulting virtual address, 57 bits -/
  va : Nat
  /-- physical address of the table entry at which the walk stopped -/
  at_ : Nat
  deriving DecidableEq, Repr

/-- Why a split does not issue (R187, R196). -/
inductive Wait where
  /-- its instruction is tried again: empty registers, tags, tokens, jobs, barrier objects, claims -/
  | retry
  /-- in `rwait` on a mask register (R182) -/
  | rwait (m : Nat)
  /-- in `bar` (R320) -/
  | bar
  /-- in `gsync` (R160) -/
  | gsync
  /-- in `bwait` on an object offset and a token (R156) -/
  | bwait (off : Nat) (token : Word)
  /-- in `monw` on a monitor (R162) -/
  | monw
  /-- in `cpwait`: for the oldest form, the job it waits for (R317) -/
  | cpwait (job : Option Nat)
  /-- in `sleep` until a cycle of the die's clock (R387) -/
  | sleep (until_ : Nat)
  /-- parked on an entry of a die's fault queue (R27); none while it waits for an entry (R32); the lanes whose
  address failed -/
  | parked (die : Nat) (entry : Option Nat) (miss : Miss) (access : Access) (lanes : Lanes)
  /-- waits for firmware to complete its instruction under these records in these lanes, which were sampled at issue
  (R74, R88, R228) -/
  | emul (i : Instr) (slots : List Dword) (lanes : Lanes)
  /-- in `trwait`, for the jobs recorded before a running number (R361) -/
  | trwait (before : Nat)
  /-- in `mwait all` or `mstat`: all operations queued before a queue number (R347, R348) -/
  | mwait (before : Word)
  /-- in `mwait` on a token (R347) -/
  | mtoken (token : Word)
  /-- a `caprd` holds its split until the job completes (R390) -/
  | job (id : Nat)
  /-- in `txe`, whose commits are under way (R167) -/
  | commit
  /-- its replay waits for its atomics to be performed (R314) -/
  | replay
  deriving DecidableEq, Repr

/-- A split (R180) with its region entry and counter (R403). -/
structure Split where
  id : Nat
  lanes : Lanes
  pc : Nat
  wait : Option Wait
  /-- cycle of the die's clock at which it became ready (R211) -/
  readyAt : Nat
  /-- its ageing promotion has been counted (Table 8.4, key 1) -/
  aged : Bool
  entry : Nat
  counter : Word
  /-- the stochastic counts of its lanes at the region entry (R83, R403) -/
  counts : Sparse Word
  /-- running number at which a blocked access reached a claimed line, and those lines (R141) -/
  arrived : Option (Nat × List Loc)
  deriving DecidableEq, Repr

/-- How the value of an integer or floating atomic is formed (R308, R309). -/
structure AtomKind where
  /-- operation code of the operand word; 7 is `cas` -/
  op : Nat
  /-- floating: the sampled record -/
  record : Option Dword
  /-- integer type code -/
  type : Nat
  /-- bytes of the location -/
  bytes : Nat
  deriving DecidableEq, Repr

/-- One lane's part of an atomic group. -/
structure AtomLane where
  lane : Nat
  /-- operand -/
  v : Nat
  /-- the new value of `cas`, whose operand is the value it compares with -/
  new : Nat
  /-- the words of its one draw (R309) -/
  words : List Nat
  deriving DecidableEq, Repr

/-- The lanes of one atomic that name one address, ascending (R136). -/
structure AtomGroup where
  addr : Addr
  /-- the address its lanes named, for reports -/
  va : Nat
  lanes : List AtomLane
  deriving DecidableEq, Repr

/-- One byte a store has queued: the lanes that wrote it and the bits they wrote (R125, R126, R92). -/
structure StoreByte where
  addr : Addr
  lanes : Lanes
  byte : Byte
  mask : Byte
  deriving DecidableEq, Repr

/-- What one entry of a store queue does when it leaves. -/
inductive StoreOp where
  /-- the bytes one instruction writes to one location (R125) -/
  | bytes (bs : List StoreByte)
  /-- a group of a `red` (R307) -/
  | red (k : AtomKind) (g : AtomGroup)
  /-- a `fence` of order release: nothing behind it leaves before its condition holds (R132) -/
  | fence
  deriving DecidableEq, Repr

/-- One entry of a warp's store queue (R126). -/
structure StoreEntry where
  op : StoreOp
  /-- the address its lowest lane named, for reports -/
  va : Nat
  /-- release scope plus one, or 0 for a plain store (R129) -/
  release : Nat
  /-- it drops the core's L1 copy instead of updating it (R49) -/
  bypass : Bool
  /-- a Type 2 page (R18) -/
  strict : Bool
  /-- its instruction writes the whole 128-byte line (R68) -/
  full : Bool
  /-- the cache hint of its instruction (R51) -/
  hint : Nat
  /-- the split that issued it -/
  split : Nat
  order : Nat
  /-- running number at which it reached a claimed block (R141) -/
  arrived : Option Nat
  deriving DecidableEq, Repr

/-- One lane's part of a load: the bytes it reads, lowest first. -/
structure LoadLane where
  lane : Nat
  va : Nat
  addrs : List Addr
  /-- bits below the first element, for packed loads -/
  shift : Nat
  /-- a helper lane whose address fails: it reads zero (R177) -/
  zero : Bool
  /-- the cache hint of its instruction (R51) -/
  hint : Nat
  /-- it reads at the home slice or another member's bank, not the L1 (R49, R130) -/
  home : Bool
  /-- a Type 2 page (R18) -/
  strict : Bool
  /-- the lane is in a transaction (R165) -/
  tx : Bool
  deriving DecidableEq, Repr

/-- How a loaded value becomes register words. -/
inductive Shape where
  /-- zero-extended into n registers -/
  | plain (n : Nat)
  /-- sign-extended from the width in bits -/
  | signed (bits : Nat)
  /-- packed elements: width, count, elements per register -/
  | packed (w count : Nat)
  deriving DecidableEq, Repr

/-- What a producer in flight will write (R184). -/
inductive Work where
  /-- an `mrd` whose operation has not executed (R344) -/
  | queued (number : Word)
  /-- results that are known -/
  | values (ws : List (RegKey × Word))
  /-- a load; `inv` is an invariant load, `acq` its acquire scope plus one, or 0 (R130) -/
  | load (lanes : List LoadLane) (d : BitVec 8) (shape : Shape) (inv : Bool) (acq : Nat)
  /-- `atom` and `cas`: the groups not yet performed at their home slice or bank, the values of the others;
  `release` as for a store -/
  | atomic (groups : List AtomGroup) (results : List (RegKey × Word)) (d : BitVec 8) (k : AtomKind)
      (release acq : Nat)
  deriving DecidableEq, Repr

/-- A producer in flight: registers marked empty that it will fill (R184). -/
structure Producer where
  id : Nat
  split : Nat
  dests : List RegKey
  work : Work
  order : Nat
  /-- running number at which it reached a claimed line (R141) -/
  arrived : Option Nat
  deriving DecidableEq, Repr

/-- A trap as it is detected, before delivery (R397, R400). -/
structure Trap where
  kind : Nat
  cause : Nat
  detail : Nat
  lanes : Lanes
  pc : Nat
  entry : Nat
  counter : Word
  address : Nat
  reg : Nat
  unit : Nat
  time : Nat
  /-- splits it concerns, with the pc each goes on at after a return (Table 19.1); none: its region entry -/
  splits : List (Nat × Option Nat)
  /-- cycle of the core's clock in which it was held (R397; log 60) -/
  cycle : Nat := 0
  deriving DecidableEq, Repr

/-- What a handler or firmware returns to (R401). -/
structure Saved where
  splits : List Split
  /-- resume pc of each saved split that the trap concerns; none replays -/
  resumes : List (Nat × Option Nat)
  record : List Word
  deriving DecidableEq, Repr

/-- A transaction of one lane (R164, R165). -/
structure Txn where
  fail : Nat
  /-- read lines with the bytes the loads returned: physical address and byte -/
  reads : List (Nat × Byte)
  readLines : List Nat
  /-- buffered bytes: physical address, byte, the bits written -/
  writes : List (Nat × Byte × Byte)
  writeLines : List Nat
  /-- a virtual address on each page written, for the D bit of its leaf (R22) -/
  pages : List Nat
  /-- while its commit is under way: how many of its lines, in ascending order, it has locked (R167) -/
  locks : Option Nat
  /-- the code with which its commit has failed, until every lane of its `txe` is decided (R312) -/
  verdict : Option Nat
  deriving DecidableEq, Repr

/-- The binding of a warp to a tape (R362): the engine's copy of the control block (Table 4.5) and its
references (R113). -/
structure Bound where
  /-- address of the control block -/
  block : Nat
  first : Nat
  cur : Nat
  off : Nat
  seq : Word
  dropped : Word
  /-- 0 recording, 1 lost, 2 closed, 3 reversing, 4 complete -/
  state : Nat
  /-- Ovf: the lost mode -/
  lost : Bool
  /-- width code: 0 32, 1 64, 2 128 -/
  width : Nat
  sites : BitVec 16
  /-- ref[s][l][j] by (128 s + l) × 4 + j -/
  refs : Sparse Word
  /-- privilege of the instruction that bound it (R380) -/
  privileged : Bool
  deriving DecidableEq, Repr

/-- One warp (R174). -/
structure Warp where
  sub : Nat
  slot : Nat
  active : Bool
  live : Lanes
  helpers : Lanes
  regs : Sparse Word
  /-- registers that are empty (R184) -/
  empty : Sparse Bool
  /-- registers whose word is uncorrectable, until it is overwritten (R67) -/
  damaged : Sparse Bool
  masks : Sparse Lanes
  slots : List Dword
  key : BitVec 128
  /-- stochastic counts, by lane (R83) -/
  seq : Sparse Word
  launches : Sparse Word
  splits : List Split
  nextSplit : Nat
  regions : Word
  txns : Sparse Txn
  txst : Sparse Word
  storeQ : List StoreEntry
  producers : List Producer
  nextProducer : Nat
  /-- copy jobs in flight under each tag (R316) -/
  tags : Sparse Nat
  tokens : Word
  /-- tokens of rounds that were abandoned, with the cause an `mwait` takes (R189, R345) -/
  badTokens : Sparse Nat
  tape : Option Bound
  hndLo : Word
  hndHi : Word
  hndLoSet : Bool
  hndHiSet : Bool
  hndPending : Option Word
  hmask : Word
  held : List Trap
  handler : Option Saved
  fw : Option Saved
  trapSeq : Word
  /-- latched high words of the 64-bit selectors, by low selector (R383) -/
  latches : Sparse Word
  /-- matrix faults found at execution that the warp has not taken, in the order they were found (R349) -/
  matFaults : List Trap
  /-- accesses with lower running numbers that its core performed come before its next release (R134) -/
  synced : Nat
  deriving DecidableEq, Repr

/-- The fields of a launch descriptor (Table 8.1). -/
structure Desc where
  entry : Nat
  args : Dword
  gridX : Nat
  gridY : Nat
  gridZ : Nat
  pool : Word
  threads : Nat
  /-- W, in lanes -/
  width : Nat
  regs : Nat
  gangW : Nat
  gangH : Nat
  energy : Nat
  matrix : Bool
  persist : Bool
  after : Bool
  needDet : Bool
  roles : Word
  succTab : Nat
  digest : Nat
  seed : Dword
  ctrBase : Dword
  deriving DecidableEq, Repr

/-- Convergence register (R188). -/
structure ConvReg where
  n : Nat
  /-- thread numbers of the work-group that have signed this round -/
  signed : List Nat
  /-- the signers' warps with their tokens -/
  tokens : List (Nat × Word)
  /-- their keys as they signed -/
  keys : List (Nat × BitVec 128)
  /-- first signer's word without guard, scalar values, sampled records -/
  first : Option (Dword × List Nat × List Dword)
  /-- the cause that abandoned the round, until `mkset` (R189) -/
  abandoned : Option Nat
  deriving DecidableEq, Repr

/-- One copy of a matrix bank (Table 15.1). -/
structure BankCopy where
  valid : Bool
  record : Dword
  paired : Bool
  sparse : Bool
  /-- bw, stored bits per element -/
  width : Nat
  /-- codes by physical row × 128 + column; of an integer record with planes, the bits not loaded are 0 -/
  codes : Sparse Nat
  /-- sparse indices, likewise -/
  index : Sparse Nat
  /-- its uncorrectable 64-bit words (R67, Table 2.5) -/
  damaged : List Nat
  deriving DecidableEq, Repr

/-- Performance counter (R389). -/
structure Counter where
  event : Nat
  value : Dword
  /-- cycle at which it started, for the events that count cycles -/
  since : Nat
  deriving DecidableEq, Repr

/-- A window register (R352). -/
structure Window where
  desc : BitVec 256
  addr : Nat
  deriving DecidableEq, Repr

/-- An operation of the matrix engine's queue (R327). -/
structure MatOp where
  number : Word
  instr : Instr
  /-- the warp that queued it, or completed its round -/
  warp : Nat
  /-- values of the scalar registers it reads -/
  scalars : List Nat
  /-- `mrd`, `mwr`: register, index, value -/
  elems : List (Nat × Nat × Nat)
  slots : List Dword
  /-- `mldt`: the window register -/
  window : Option Window
  /-- the warps that queued or signed it, with their tokens -/
  tokens : List (Nat × Word)
  /-- key of the lowest of them -/
  key : BitVec 128
  /-- its engine job -/
  job : Nat
  executed : Bool
  deriving DecidableEq, Repr

/-- A word of a work-group's memories that is uncorrectable (R67): the n-th 32-bit word of its scratchpad, or a tile's by
its key. -/
inductive PoolWord where
  | scratch (n : Nat)
  | tile (key : Nat)
  deriving DecidableEq, Repr

/-- The image of a saved work-group, as its seal and version tell it (R409, R410). -/
inductive Image where
  | intact
  /-- its digest fails, or its version is not the firmware's -/
  | altered
  /-- a resume has found it so: the context takes a forced reset -/
  | refused
  deriving DecidableEq, Repr

/-- A resident or saved work-group (R174). -/
structure WorkGroup where
  ctx : Nat
  launch : Nat
  /-- linear work-group id (Table 7.2) -/
  id : Nat
  gang : Option Nat
  member : Nat
  /-- physical core, die × 64 + index; logical core in a deterministic context -/
  core : Nat
  lcore : Nat
  desc : Desc
  resident : Bool
  /-- its issue has stopped so that it can be saved (R408) -/
  saving : Bool
  /-- the image of a work-group that is saved (R410; log 99) -/
  image : Image := .intact
  warps : List Warp
  scratch : Memory
  /-- the granules of its core's pool that it holds: register file, scratchpad, extension tiles (R41, R46) -/
  granules : List Nat
  /-- writes of other gang members that the bank holds and does not yet show its own core: offset, byte, bits (R138) -/
  inbox : List (List (Nat × Byte × Byte))
  tiles : Sparse Word
  /-- flags and kind bits of a tile -/
  tileFlags : Sparse Nat
  /-- uncorrectable words of the scratchpad and the tiles, until they are overwritten (R67) -/
  damaged : List PoolWord
  banks : Sparse BankCopy
  shadows : Sparse BankCopy
  fifoA : List Nat
  fifoB : List Nat
  scaleTab : Sparse Word
  ops : List MatOp
  queueNo : Word
  conv : Sparse ConvReg
  windows : Sparse Window
  counters : Sparse Counter
  energy : Nat
  trellis : Word
  succ : Nat
  /-- placement count of its core modulo 4 at its placement: warp i runs on sub-core i + base (R208) -/
  base : Nat
  born : Nat
  deriving DecidableEq, Repr

/-- A barrier entry of a gang (R159, R160). -/
structure Gang where
  ctx : Nat
  die : Nat
  x0 : Nat
  y0 : Nat
  members : List Nat
  spill : Bool
  phase : Word
  deriving DecidableEq, Repr

/-- A run of lines or blocks that a job claims (R140). -/
structure Claim where
  first : Loc
  count : Nat
  deriving DecidableEq, Repr

/-- One lane of a `cpa` (R315): scratchpad offset, source address, valid bytes, barrier object. -/
structure CopyLane where
  dest : Nat
  source : Nat
  valid : Nat
  object : Option Nat
  deriving DecidableEq, Repr

/-- One end of a bulk copy (Table 13.3): a scratchpad offset, or a global address. -/
inductive End where
  | scratch (off : Nat)
  | global (va : Nat)
  deriving DecidableEq, Repr

/-- A translated page: its number, physical address and type. -/
structure PageMap where
  page : Nat
  pa : Nat
  deriving DecidableEq, Repr

/-- What a trellis job reads, by the window installed at issue (R358, R360). -/
structure TrellisRun where
  desc : BitVec 256
  /-- `trdecn`: first weight; `trenc`: first group -/
  first : Nat
  count : Nat
  /-- scratchpad offset of the decoded stream -/
  off : Nat
  /-- the record of the destination slot, sampled at issue -/
  record : Dword
  /-- the records sampled at issue -/
  slots : List Dword
  /-- pages of the destination of `trenc` -/
  pages : List PageMap
  /-- address of the targets of `trenc` -/
  targets : Nat
  /-- the work-group's trellis job number and the issuing warp's key -/
  number : Nat
  key : BitVec 128
  deriving DecidableEq, Repr

/-- What an engine job does (R119). -/
inductive JobKind where
  /-- `cpa`: its lanes, how many are done, its tag -/
  | cpa (lanes : List CopyLane) (next tag : Nat)
  /-- one `kick` request: source, destination with its pages, length, bytes done -/
  | copy (src dst : End) (pages : List PageMap) (len next : Nat)
  /-- trellis decode (R358): weights done -/
  | trdec (run : TrellisRun) (next : Nat)
  /-- Viterbi encode (R360): groups done -/
  | trenc (run : TrellisRun) (next : Nat)
  /-- `caprd`: capsule offset, length, destination pages, bytes done, status register (R390) -/
  | caprd (off len va : Nat) (pages : List PageMap) (d : BitVec 8) (lanes : Lanes)
  /-- one matrix operation (R329): its queue number, and the tokens that denote it, by warp -/
  | matrix (number : Word) (tokens : List (Nat × Word))
  deriving DecidableEq, Repr

/-- An engine job (R139 to R143). A job that has ended on a fault stays until a wait receives the fault
(R33, R317). -/
structure Job where
  wg : Nat
  warp : Nat
  split : Nat
  kind : JobKind
  /-- running number at which its claims were recorded -/
  order : Nat
  claims : List Claim
  /-- barrier object a request counts down on -/
  object : Option Nat
  privileged : Bool
  /-- its first parked request: die, fault queue entry, miss (R33) -/
  parked : Option (Nat × Option Nat × Miss × Access)
  failed : Option Trap
  done : Bool
  /-- what a copy has read and not yet written (R142); the codes that a trellis load has decoded (R33) -/
  buf : List (Addr × Byte × Byte)
  /-- source lines that it has read, which it reads once (R105, R142) -/
  lines : Sparse (List Byte)
  /-- the cache hint of its source or destination (R315, R318); of a matrix operation, 1 once its late ownership request has
  waited (R55) -/
  hint : Nat
  deriving DecidableEq, Repr

/-- A translation a TLB holds (R24). -/
structure TlbEntry where
  ctx : Nat
  /-- virtual page number at 64 KiB -/
  page : Nat
  /-- pages it covers: 1, 32 or 8,192 -/
  span : Nat
  /-- physical address of the first page -/
  base : Nat
  /-- the leaf's bits [15:0] -/
  bits : BitVec 16
  /-- physical address of the first page's leaf -/
  leaf : Nat
  accessed : List Nat
  dirty : List Nat
  deriving DecidableEq, Repr

/-- A walk-cache entry: a table pointer by context, level and index prefix (R24). -/
structure WalkEntry where
  ctx : Nat
  level : Nat
  prefix_ : Nat
  table : Nat
  deriving DecidableEq, Repr

/-- An open entry of a fault queue (Table 1.7). -/
structure FaultEntry where
  type : Nat
  kinds : Nat
  ctx : Nat
  tenant : BitVec 16
  page : Nat
  level : Nat
  count : Nat
  core : Nat
  sub : Nat
  warp : Nat
  engine : Bool
  time : Nat
  entry : Dword
  /-- firmware has walked again and handed it to system software (R29) -/
  forwarded : Bool
  deriving DecidableEq, Repr

/-- An armed monitor (R161). -/
structure Monitor where
  word : Nat
  x : Word
  /-- cycle of the clock of the word's home die at which it times out (R6, R161) -/
  until_ : Nat
  wg : Nat
  warp : Nat
  split : Nat
  /-- the pair it writes at its return, and the lanes that write it -/
  d : BitVec 8
  lanes : Lanes
  /-- the value that a table walk's A or D bit left in the word, other than x: it wakes in this turn (R162) -/
  woken : Option Word
  deriving DecidableEq, Repr

/-- A 128-byte line of an L1 (R49): its bytes, the launch whose invariant load filled it (R144), its way. -/
structure L1Line where
  bytes : List Byte
  inv : Option Nat
  way : Nat
  deriving DecidableEq, Repr

/-- A line that its home slice holds (R53, R54). `State.mem` holds its value. -/
structure L2Line where
  dirty : Bool
  /-- inserted under the hint keep (R51) -/
  keep : Bool
  /-- of a dirty line: what HBM holds of it (R68) -/
  behind : List Byte
  /-- its uncorrectable granules of 32 bytes, 0 to 3 (R67, Table 2.5) -/
  bad : List Nat
  deriving DecidableEq, Repr

/-- The structures of Table 2.5 whose uncorrectable errors are logged (R67). -/
inductive Cell where
  | registerFile
  | scratchpad
  | tiles
  | banks
  | l2
  | hbm
  deriving DecidableEq, Repr

/-- An entry of a die control core's log of uncorrectable errors (R67): the structure, the physical line address or the
place in the pool, the time. -/
structure EccEntry where
  cell : Cell
  at_ : Nat
  time : Nat
  deriving DecidableEq, Repr

/-- A store or `red` on its way from a core to its home slice (R126, R128). -/
structure OutWrite where
  op : StoreOp
  va : Nat
  wg : Nat
  warp : Nat
  strict : Bool
  full : Bool
  hint : Nat
  split : Nat
  order : Nat
  arrived : Option Nat
  /-- running number as it left the store queue (R60) -/
  left : Nat
  deriving DecidableEq, Repr

/-- A fetch that missed (R213): context, line, and the split that fetches. -/
structure Fetch where
  ctx : Nat
  line : Nat
  wg : Nat
  warp : Nat
  split : Nat
  /-- the address fetched -/
  va : Nat
  /-- running number at which it began (R26, R52) -/
  order : Nat
  deriving DecidableEq, Repr

/-- What an issue sample will record (R426, type 0x10): the pc and mask class of the split that issued the 4,096th
pass, its tenant and slot. -/
structure Sample where
  pc : Nat
  class_ : Nat
  tenant : BitVec 16
  slot : Nat
  deriving DecidableEq, Repr

/-- One sub-core: the fetch it is frozen on (R213); its passes modulo 4,096; a sample to write. -/
structure SubCore where
  sample : Option Sample
  frozen : Option Fetch
  passes : Nat
  deriving DecidableEq, Repr

/-- A core's Varve ring (R423 to R425). -/
structure Varve where
  ring : List (BitVec 128)
  /-- cycle of the last record -/
  last : Nat
  sinceAnchor : Nat
  /-- records written in the cycle `last` -/
  inCycle : Nat
  dropped : Nat
  /-- freeze arrival time (R430) -/
  frozen : Option Nat
  deriving DecidableEq, Repr

/-- A decoded trace (R52, R212): its tag and its words, of which the first stands at `pc`. -/
structure Trace where
  ctx : Nat
  pc : Nat
  class_ : Nat
  words : List Dword
  deriving DecidableEq, Repr

/-- The trace that a split issues from or builds (R212): where it goes on, with which lanes; the words from its start up
to there; whether it hit a trace of the cache. -/
structure Tracing where
  wg : Nat
  warp : Nat
  split : Nat
  pc : Nat
  lanes : Lanes
  words : List Dword
  hit : Bool
  deriving DecidableEq, Repr

/-- What a pool granule was left with (R39, R47): the context that held it last, and its bytes. -/
structure Left where
  ctx : Nat
  bytes : Memory
  deriving DecidableEq, Repr

/-- One core (R41 to R63). -/
structure Core where
  l1 : Sparse L1Line
  /-- the pseudo-LRU bits of its sets, by set (R49) -/
  plru : Sparse (BitVec 7)
  tlb : List TlbEntry
  /-- instruction lines by context × 2^52 + physical line: the words' bytes (R52) -/
  icache : Sparse (List Byte)
  traces : List Trace
  tracing : List Tracing
  outbound : List OutWrite
  /-- what pool granules that no work-group holds were left with, by granule (R39, R47) -/
  granules : Sparse Left
  /-- the same for the dedicated tiles: the context that held them last, and their elements -/
  tileLeft : Option (Nat × Sparse Word)
  placements : Nat
  subs : Sparse SubCore
  varve : Varve
  deriving DecidableEq, Repr

/-- Per-die summary (Table 22.6). -/
structure Summary where
  capsuleId : Dword
  held : Bool
  sealed : Bool
  overruns : Nat
  t0 : Nat
  firstF : Nat
  lastF : Nat
  lastFreeze : Nat
  deriving DecidableEq, Repr

/-- One die. -/
structure Die where
  cycles : Nat
  /-- millionths of a cycle that the clock has made since (R6) -/
  phase : Nat
  clockMHz : Nat
  tj : Int
  headroom : Nat
  budget : Nat
  stopped : Bool
  powerOver : Bool
  hbmHot : Bool
  faultQ : Sparse FaultEntry
  faultOverflow : Nat
  tlb : List TlbEntry
  walks : List WalkEntry
  corrected : Nat
  /-- uncorrectable errors logged (R67) -/
  eccLog : List EccEntry
  /-- the lines its slices hold, most recently used first, by line number (R53) -/
  l2 : List (Nat × L2Line)
  /-- lost lines by slice: slice, line, what HBM holds of it (R68) -/
  lost : List (Nat × Nat × List Byte)
  /-- ownership requests that found their slice's 2,048 entries in use (R55) -/
  ownerWaits : Nat
  monitors : Sparse Monitor
  viterbi : List Nat
  summary : Summary
  /-- the stop at which a freeze entered the die (R430) -/
  entryStop : Option Nat
  lastSingle : Nat
  /-- time of the last clock step -/
  stepAt : Nat
  /-- time of the last sample of its power manager (R467) -/
  sampledAt : Nat
  deriving DecidableEq, Repr

/-- A launch queue of a context (Table 24.10, R198). -/
structure Queue where
  enable : Bool
  priority : Nat
  trace : Nat
  traceBase : Nat
  traceSize : Nat
  /-- bytes of the trace written or read -/
  tracePos : Nat
  bound : Bool
  /-- launches in the order they entered -/
  launches : List Nat
  /-- the launch that entered it last (R204) -/
  last : Option Nat
  /-- die that received the last gang of the queue (R209) -/
  lastDie : Nat
  accepted : Nat
  /-- time the head became head (R206) -/
  headSince : Nat
  /-- consecutive windows in which a die passed the head over for budget, by die (R207) -/
  passed : Sparse Nat
  /-- dies on which the head is aged, and the rectangle an aged gang reserves: die, corner (R209) -/
  aged : List Nat
  reserved : Option (Nat × Nat × Nat)
  deriving DecidableEq, Repr

/-- A loaded image (R450, R451): its executable segments and their digests. -/
structure LoadedSegment where
  base : Nat
  size : Nat
  code : Bool
  digest : BitVec 256
  frames : List Nat
  deriving DecidableEq, Repr

structure Loaded where
  segments : List LoadedSegment
  deriving DecidableEq, Repr

/-- A pre-emption of a context (R407). -/
structure Preempt where
  since : Nat
  deadline : Nat
  done : Bool
  /-- time at which it completed -/
  doneAt : Nat
  deriving DecidableEq, Repr

/-- A context (R37, Table 24.9). -/
structure Context where
  root : Nat
  tenant : BitVec 16
  privileged : Bool
  deterministic : Bool
  shape : Nat
  feat1 : Word
  ageing : Nat
  watchdog : Nat
  faultLimit : Nat
  deadline : Nat
  idBase : Dword
  lrBase : Nat
  lrSize : Nat
  staging : Nat
  keys : List (BitVec 256)
  queues : Sparse Queue
  /-- cores of the partition, die × 64 + index, ascending -/
  partition : List Nat
  /-- physical 64 KiB frames marked executable (R451) -/
  execFrames : List Nat
  loads : Sparse Loaded
  nextLoad : Nat
  chain : BitVec 256
  extensions : Dword
  preempt : Option Preempt
  /-- staged floating reductions: logical core, virtual address, record, exact sum (R222) -/
  staged : List (Nat × Nat × Nat × Dword × List Val)
  /-- logical core whose work-groups a physical core runs now (R216), by physical core -/
  slices : Sparse Nat
  /-- time of the last slice boundary of a physical core (R216) -/
  sliceAt : Sparse Nat
  /-- logical core of a logical die that received the last single work-group (R208, R214) -/
  lastSingle : Sparse Nat
  /-- placements on each logical core -/
  placements : Sparse Nat
  deriving DecidableEq, Repr

/-- A launch that has entered a queue (R198 to R203). -/
structure Launch where
  ctx : Nat
  id : Dword
  desc : Desc
  queue : Nat
  host : Option (Nat × Dword × Bool)
  codeDigest : BitVec 256
  /-- 0 dynamic, 1 recording, 2 bound -/
  mode : Nat
  /-- below it every work-group has been dispatched, and these above it (R220) -/
  next : Nat
  placed : List Nat
  dispatched : Nat
  retired : Nat
  statuses : List Nat
  orderExposed : Bool
  traceOverflow : Bool
  unbound : Bool
  throttled : Bool
  started : Option Nat
  /-- nanoseconds of completed pre-emptions, left out of its running time (R396) -/
  away : Nat
  watched : Bool
  /-- its section of the dispatch trace (R219) -/
  section_ : List (BitVec 128)
  /-- the launch its first work-group waits for -/
  after : Option Nat
  /-- 32-bit locations that its invariant loads have read, by physical address / 4 (R144) -/
  invRead : List Nat
  /-- values that written locations held before, since the launch started (R145) -/
  past : Sparse (List Word)
  deriving DecidableEq, Repr

/-- A command page (Table 24.4). -/
structure Page where
  cmdBase : Dword
  cplBase : Dword
  cmdTail : Word
  cmdHead : Word
  cplTail : Word
  cplHead : Word
  lrRead : Word
  lrWrite : Word
  lrReserved : Nat
  irqMask : Word
  /-- completions and events held while the ring is full (R468, R472) -/
  held : List (BitVec 1024 × Bool)
  /-- the command in progress waits for its completion: opcode, tag, irq -/
  busy : Option (Nat × Dword × Bool)
  deriving DecidableEq, Repr

/-- A pending invalidate of translations, or of instruction lines (R26, R52). -/
structure Inval where
  code : Bool
  page : Nat
  ctx : Nat
  first : Nat
  count : Nat
  tag : Dword
  irq : Bool
  /-- accesses with a lower running number were translated before it -/
  order : Nat
  deriving DecidableEq, Repr

/-- A scale-out session (R464). -/
structure Session where
  port : Nat
  txKey : BitVec 256
  rxKey : BitVec 256
  oldRxKey : Option (BitVec 256 × Nat)
  txCounter : Nat
  rxHigh : Nat
  rxSeen : List Nat
  sent : Nat
  dropped : Nat
  delivered : List (List Byte)
  outbox : List (List Byte)
  deriving DecidableEq, Repr

/-- An origin of a freeze (R432, Table 22.4). -/
structure Origin where
  core : Nat
  unit : Nat
  time : Nat
  deriving DecidableEq, Repr

/-- A sealed capsule (R434 to R438): the records of each segment, its freeze time; and the secret S. -/
structure Capsule where
  secret : BitVec 256
  id : Dword
  unsigned : Bool
  index : Word
  origins : List Origin
  t0 : Nat
  segments : List (Nat × List (BitVec 128) × Nat)
  signature : List Byte
  deriving DecidableEq, Repr

/-- An access of the host or of a peer module that has arrived at its home slices (R141, R146, R148): a write with its
bytes, or a read of `len` bytes; who sends it (none the host), its arrival number, the Relaxed Ordering attribute. -/
structure Inbound where
  peer : Option Nat
  addr : Nat
  write : Option (List Byte)
  len : Nat
  order : Nat
  relaxed : Bool
  deriving DecidableEq, Repr

/-- Who waits at a claimed line beside threads, the host and peers (R141): the command processor for a page, the launcher
for a launch or a retired work-group, the security core. -/
inductive Agent where
  | page (c : Nat)
  | launch (l : Nat)
  | record (l : Nat)
  | group (wg : Nat)
  /-- the engine with the tape of a warp that retires or is saved: it waits for an entry of its die's fault queue (R32) -/
  | tape (wg warp : Nat)
  | firmware (die : Nat)
  deriving DecidableEq, Repr

/-- The module. -/
structure State where
  agenda : List Turn
  tick : Nat
  cur : Option Cur
  order : Nat
  time : Nat
  /-- picoseconds since the last whole nanosecond -/
  sub : Nat
  mem : Memory
  /-- uncorrectable granules of 32 bytes in HBM, by physical address / 32 (R67, Table 2.5) -/
  hbmBad : List Nat
  ready : Bool
  warm : Bool
  held : Bool
  frozen : Bool
  step_ : Nat
  error : Nat
  /-- global time at power good or warm reset -/
  resetAt : Nat
  powered : Bool
  barWindow : Dword
  moduleOver : Bool
  dies : Sparse Die
  cores : Sparse Core
  contexts : Sparse Context
  pages : Sparse Page
  launches : Sparse Launch
  wgs : Sparse WorkGroup
  gangs : Sparse Gang
  jobs : Sparse Job
  invals : Sparse Inval
  sessions : Sparse Session
  routes : List Nat
  /-- writes that peer modules have not acknowledged: peer, work-group, warp, order (R148) -/
  peerPending : List (Nat × Nat × Nat × Nat)
  /-- accesses of the host and of peers that have arrived and are not performed (R141, R146) -/
  inbound : List Inbound
  /-- accesses of the command processor and of firmware that wait for claims (R141) -/
  waiting : List (Agent × Nat × List Loc)
  /-- words of the host window that a release narrower than the system has written before its earlier accesses were
  performed: word, core, work-group, warp, order (R147) -/
  hostEarly : List (Nat × Nat × Nat × Nat × Nat)
  xmssLimit : Nat
  xmssNext : Nat
  identityLimit : Nat
  identityNext : Nat
  capsuleId : Dword
  capsule : Option Capsule
  origins : List Origin
  irqs : List Nat
  hostOut : List Byte
  hostFail : Bool
  mgmtOut : List Byte
  /-- the management link answered busy (R445) -/
  mgmtBusy : Bool
  /-- a debugger is attached to the management link; the breakpoints reported to it (R392) -/
  debugger : Bool
  debugOut : List Trap
  nextUid : Nat
  deriving DecidableEq, Repr

/-- The reasons a step stops. -/
inductive Fault where
  /-- An event whose condition does not hold (a job that is not in flight, a wait that has not ended).
  Raised by the steps of the device. Safe: the device does not take that step there. -/
  | notEnabled
  /-- An instruction with no split to execute it. Raised by every instruction. Safe. -/
  | noSplit
  deriving DecidableEq, Repr

/-- The reasons the model gives no meaning. -/
inductive Refusal where
  /-- An instruction the model gives no meaning to. Raised by Dispatch only. Safe. -/
  | notModelled (mnemonic : String)
  deriving DecidableEq, Repr

/-- What one step answers. -/
abbrev Res := Host.Outcome State Fault Refusal

/-- The ring of a core before bring-up (R423). -/
def Varve.reset : Varve := ⟨[], 0, 0, 0, 0, none⟩

/-- A core as bring-up leaves it. -/
def Core.reset : Core :=
  { l1 := [], plru := [], tlb := [], icache := [], traces := [], tracing := [], outbound := [], granules := [],
    tileLeft := none, placements := 0, subs := [], varve := .reset }

def SubCore.reset : SubCore := ⟨none, none, 0⟩

def Summary.reset : Summary := ⟨0, false, false, 0, 0, 0, 0, 0⟩

/-- A die as bring-up leaves it: 1.4 GHz and the full budget at the temperature of log 3 (R205, R467). -/
def Die.reset : Die :=
  { cycles := 0, phase := 0, clockMHz := 1400, tj := 45, headroom := 256, budget := 4800, stopped := false,
    powerOver := false, hbmHot := false, faultQ := [], faultOverflow := 0, tlb := [], walks := [],
    corrected := 0, eccLog := [], l2 := [], lost := [], ownerWaits := 0, monitors := [], viterbi := [],
    summary := .reset, entryStop := none, lastSingle := 63, stepAt := 0, sampledAt := 0 }

/-- A command page, all registers 0 (Table 24.4). -/
def Page.reset : Page :=
  { cmdBase := 0, cplBase := 0, cmdTail := 0, cmdHead := 0, cplTail := 0, cplHead := 0, lrRead := 0,
    lrWrite := 0, lrReserved := 0, irqMask := 0, held := [], busy := none }

/-- The module right after reset: before power good, no bring-up having run (R462, R466; log 123). -/
def State.reset : State :=
  { agenda := [], tick := 0, cur := none, order := 0, time := 0, sub := 0, mem := [], hbmBad := [],
    ready := false, warm := false, held := false, frozen := false, step_ := 0, error := 0, resetAt := 0,
    powered := false, barWindow := 0, moduleOver := false, dies := [], cores := [], contexts := [],
    pages := [], launches := [], wgs := [], gangs := [], jobs := [], invals := [], sessions := [],
    routes := [], peerPending := [], inbound := [], waiting := [], hostEarly := [], xmssLimit := 0, xmssNext := 0, identityLimit := 0,
    identityNext := 0, capsuleId := 0, capsule := none, origins := [], irqs := [], hostOut := [],
    hostFail := false, mgmtOut := [], mgmtBusy := false, debugger := false,
    debugOut := [], nextUid := 0 }

end Sys2Proof.Machine
end

