-- ==== Sys2Proof/Machine/Sparse.lean ====
section
/-! DEFINITION. Finite maps with strictly rising keys, and physical memory as such a map. -/

namespace Sys2Proof.Machine

namespace Sparse

/-- The value under a key. -/
def look {α : Type} : Sparse α → Nat → Option α
  | [], _ => none
  | (j, v) :: r, k => if j = k then some v else look r k

/-- Removes a key. -/
def del {α : Type} (m : Sparse α) (k : Nat) : Sparse α := m.filter fun p => p.1 != k

/-- Inserts a key that is not there, before the first greater one. -/
def ins {α : Type} (k : Nat) (v : α) : Sparse α → Sparse α
  | [] => [(k, v)]
  | p :: r => if k < p.1 then (k, v) :: p :: r else p :: ins k v r

/-- Sets or removes a key. -/
def put {α : Type} (m : Sparse α) (k : Nat) : Option α → Sparse α
  | none => m.del k
  | some v => ins k v (m.del k)

/-- The value under a key, `d` when it is not listed. -/
def get {α : Type} (d : α) (m : Sparse α) (k : Nat) : α := (m.look k).getD d

/-- Sets a key; the value `d` of unlisted keys is not listed. -/
def set {α : Type} [DecidableEq α] (d : α) (m : Sparse α) (k : Nat) (v : α) : Sparse α :=
  m.put k (if v = d then none else some v)

/-- Sets several keys in order. -/
def setMany {α : Type} [DecidableEq α] (d : α) (m : Sparse α) (kvs : List (Nat × α)) : Sparse α :=
  kvs.foldl (fun m kv => m.set d kv.1 kv.2) m

/-- Changes the value under a key that is listed. -/
def modify {α : Type} (m : Sparse α) (k : Nat) (f : α → α) : Sparse α :=
  m.map fun p => if p.1 = k then (p.1, f p.2) else p

/-- Keys strictly rising. -/
def rising {α : Type} : Sparse α → Bool
  | [] => true
  | p :: r => r.all (fun q => p.1 < q.1) && rising r

end Sparse

/-- A byte of memory; an unlisted one is zero. -/
def Memory.byte (m : Memory) (a : Nat) : Byte := Sparse.get (0 : Byte) m a

/-- Writes a byte. -/
def Memory.setByte (m : Memory) (a : Nat) (b : Byte) : Memory := Sparse.set (0 : Byte) m a b

/-- The canonical form: strictly rising addresses, no listed zero. -/
def Memory.wf (m : Memory) : Bool := Sparse.rising m && m.all fun p => p.2 != 0

/-- n bytes from an address, lowest first. -/
def Memory.bytes (m : Memory) (a n : Nat) : List Byte := (List.range n).map fun i => m.byte (a + i)

/-- Writes bytes to their addresses in order. -/
def Memory.setBytes (m : Memory) (bs : List (Nat × Byte)) : Memory := Sparse.setMany (0 : Byte) m bs

/-- Bytes as a number, little-endian (R6). -/
def natOfBytes : List Byte → Nat
  | [] => 0
  | b :: r => b.toNat + 256 * natOfBytes r

/-- The n low bytes of a number, little-endian (R6). -/
def bytesOfNat : (n x : Nat) → List Byte
  | 0, _ => []
  | n + 1, x => BitVec.ofNat 8 x :: bytesOfNat n (x / 256)

/-- A little-endian value of n bytes. -/
def Memory.value (m : Memory) (a n : Nat) : Nat := natOfBytes (m.bytes a n)

/-- Writes the n low bytes of a value. -/
def Memory.setValue (m : Memory) (a n x : Nat) : Memory :=
  m.setBytes ((bytesOfNat n x).zipIdx.map fun p => (a + p.2, p.1))

end Sys2Proof.Machine
end

