-- ==== Sys2Proof/Machine/Ops.lean ====
section
/-! DEFINITION. Named operations on the state: lanes, registers, warps, splits, cores and dies. -/

namespace Sys2Proof.Machine

/-! ### Lanes -/

/-- The lanes of a mask, ascending. -/
def lanesOf (m : Lanes) : List Nat := (List.range 128).filter m.getLsbD

/-- The mask of one lane. -/
def laneBit (l : Nat) : Lanes := 1#128 <<< l

/-- The mask of a list of lanes. -/
def maskOf (ls : List Nat) : Lanes := ls.foldl (fun m l => m ||| laneBit l) 0

/-- The lowest lane of a mask. -/
def lowest (m : Lanes) : Option Nat := (lanesOf m).head?

/-- How many lanes a mask has. -/
def countLanes (m : Lanes) : Nat := (lanesOf m).length

/-- The lanes below the warp's width W. -/
def widthMask (w : Nat) : Lanes := BitVec.ofNat 128 (2 ^ w - 1)

/-! ### Registers (R229) -/

/-- A field that names a scalar register. -/
def isScalar (f : BitVec 8) : Bool := 0xE0 ≤ f.toNat

/-- The register a field names for a lane. -/
def keyOf (f : BitVec 8) (l : Nat) : RegKey :=
  if isScalar f then 32768 + (f.toNat - 0xE0) else l * 256 + f.toNat

/-- The i-th register above a field. -/
def plusReg (f : BitVec 8) (i : Nat) : BitVec 8 := f + BitVec.ofNat 8 i

/-- rd of Table 9.14. -/
def Warp.rd (w : Warp) (f : BitVec 8) (l : Nat) : Word := Sparse.get (0 : Word) w.regs (keyOf f l)

/-- n registers from a field up as one number, the named register lowest. -/
def Warp.rdN (w : Warp) (f : BitVec 8) (l : Nat) : Nat → Nat
  | 0 => 0
  | n + 1 => (w.rd f l).toNat + 2 ^ 32 * w.rdN (plusReg f 1) l n

/-- rd64 of Table 9.14. -/
def Warp.rd64 (w : Warp) (f : BitVec 8) (l : Nat) : Nat := w.rdN f l 2

/-- wr of Table 9.14: the value of a register. A write gives the word sound check bits (R67). -/
def Warp.wr (w : Warp) (f : BitVec 8) (l : Nat) (x : Word) : Warp :=
  { w with regs := w.regs.set (0 : Word) (keyOf f l) x, damaged := w.damaged.set false (keyOf f l) false }

/-- Writes the low 32 n bits of a number to n registers. -/
def Warp.wrN (w : Warp) (f : BitVec 8) (l : Nat) (x : Nat) : Nat → Warp
  | 0 => w
  | n + 1 => (w.wr f l (BitVec.ofNat 32 x)).wrN (plusReg f 1) l (x / 2 ^ 32) n

/-- Writes a value to n registers of each unit of execution: a lane, its value. -/
def Warp.wrAll (w : Warp) (f : BitVec 8) (n : Nat) (xs : List (Nat × Nat)) : Warp :=
  xs.foldl (fun w p => w.wrN f p.1 p.2 n) w

/-- A mask register; bits W to 127 read as zero because no write sets them (R179). -/
def Warp.mask (w : Warp) (m : Nat) : Lanes := Sparse.get (0 : Lanes) w.masks m

/-- Writes the bits of `lanes` of a mask register (R179). -/
def Warp.wrMask (w : Warp) (m : Nat) (lanes value : Lanes) : Warp :=
  { w with masks := w.masks.set (0 : Lanes) m ((w.mask m &&& ~~~lanes) ||| (value &&& lanes)) }

/-- Whether a register is empty (R184). -/
def Warp.isEmpty (w : Warp) (k : RegKey) : Bool := Sparse.get false w.empty k

/-- Whether a register's word is uncorrectable (R67). -/
def Warp.isDamaged (w : Warp) (k : RegKey) : Bool := Sparse.get false w.damaged k

def Warp.markEmpty (w : Warp) (ks : List RegKey) : Warp :=
  { w with empty := w.empty.setMany false (ks.map fun k => (k, true)) }

def Warp.markFull (w : Warp) (ks : List RegKey) : Warp :=
  { w with empty := w.empty.setMany false (ks.map fun k => (k, false)) }

/-- Writes registers by key. -/
def Warp.wrKeys (w : Warp) (ws : List (RegKey × Word)) : Warp :=
  { w with regs := w.regs.setMany (0 : Word) ws,
           damaged := w.damaged.setMany false (ws.map fun x => (x.1, false)) }

/-- Format slot F. -/
def Warp.slotRec (w : Warp) (f : Nat) : Dword := w.slots.getD f 0

/-! ### Warps and splits -/

def Warp.split? (w : Warp) (id : Nat) : Option Split := w.splits.find? fun sp => sp.id == id

/-- Replaces a split by the given ones, in place. -/
def Warp.replace (w : Warp) (id : Nat) (new : List Split) : Warp :=
  { w with splits := w.splits.flatMap fun sp => if sp.id == id then new else [sp] }

def Warp.setSplit (w : Warp) (sp : Split) : Warp := w.replace sp.id [sp]

/-- The non-helper live lanes. -/
def Warp.threads (w : Warp) : Lanes := w.live &&& ~~~w.helpers

def WorkGroup.setWarp (g : WorkGroup) (i : Nat) (w : Warp) : WorkGroup :=
  { g with warps := g.warps.set i w }

def State.setWg (s : State) (u : Nat) (g : WorkGroup) : State := { s with wgs := s.wgs.put u (some g) }

def State.setWarp (s : State) (u i : Nat) (w : Warp) : State :=
  match s.wgs.look u with
  | some g => s.setWg u (g.setWarp i w)
  | none => s

def State.warp? (s : State) (u i : Nat) : Option Warp :=
  (s.wgs.look u).bind fun g => g.warps[i]?

/-- Changes a warp that exists. -/
def State.modWarp (s : State) (u i : Nat) (f : Warp → Warp) : State :=
  match s.warp? u i with
  | some w => s.setWarp u i (f w)
  | none => s

def State.modWg (s : State) (u : Nat) (f : WorkGroup → WorkGroup) : State :=
  match s.wgs.look u with
  | some g => s.setWg u (f g)
  | none => s

/-! ### Cores and dies: core number is die × 64 + index -/

def State.core (s : State) (c : Nat) : Core := Sparse.get .reset s.cores c

def State.setCore (s : State) (c : Nat) (k : Core) : State := { s with cores := s.cores.set .reset c k }

def State.modCore (s : State) (c : Nat) (f : Core → Core) : State := s.setCore c (f (s.core c))

def State.die (s : State) (d : Nat) : Die := Sparse.get .reset s.dies d

def State.setDie (s : State) (d : Nat) (k : Die) : State := { s with dies := s.dies.set .reset d k }

def State.modDie (s : State) (d : Nat) (f : Die → Die) : State := s.setDie d (f (s.die d))

/-- Cycles of the clock of a core's die. -/
def State.now (s : State) (core : Nat) : Nat := (s.die (core / 64)).cycles

def Core.sub (k : Core) (i : Nat) : SubCore := Sparse.get .reset k.subs i

def Core.setSub (k : Core) (i : Nat) (x : SubCore) : Core :=
  { k with subs := k.subs.set .reset i x }

def State.page (s : State) (c : Nat) : Page := Sparse.get .reset s.pages c

def State.setPage (s : State) (c : Nat) (p : Page) : State := { s with pages := s.pages.set .reset c p }

/-- A context as it is never created: what the rules about a missing one read. -/
def noContext : Context :=
  { root := 0, tenant := 0, privileged := false, deterministic := false, shape := 0, feat1 := 0,
    ageing := 4096, watchdog := 0, faultLimit := 1000, deadline := 2000, idBase := 0, lrBase := 0,
    lrSize := 6, staging := 0, keys := [], queues := [], partition := [], execFrames := [], loads := [],
    nextLoad := 0, chain := 0, extensions := 0, preempt := none, staged := [], slices := [], sliceAt := [],
    lastSingle := [], placements := [] }

def State.ctx (s : State) (c : Nat) : Context := (s.contexts.look c).getD noContext

def State.modCtx (s : State) (c : Nat) (f : Context → Context) : State :=
  match s.contexts.look c with
  | some k => { s with contexts := s.contexts.put c (some (f k)) }
  | none => s

def State.modLaunch (s : State) (l : Nat) (f : Launch → Launch) : State :=
  match s.launches.look l with
  | some k => { s with launches := s.launches.put l (some (f k)) }
  | none => s

def State.modJob (s : State) (j : Nat) (f : Job → Job) : State :=
  match s.jobs.look j with
  | some k => { s with jobs := s.jobs.put j (some (f k)) }
  | none => s

/-- Whether a claim covers a line or block. -/
def Claim.has (c : Claim) : Loc → Bool
  | .line n =>
    match c.first with
    | .line m => m ≤ n && n < m + c.count
    | .block _ _ => false
  | .block u n =>
    match c.first with
    | .line _ => false
    | .block v m => v == u && m ≤ n && n < m + c.count

/-- Whether two claims share a line or block. -/
def Claim.meets (a b : Claim) : Bool :=
  match a.first, b.first with
  | .line m, .line n => m < n + b.count && n < m + a.count
  | .block u m, .block v n => u == v && m < n + b.count && n < m + a.count
  | _, _ => false

/-- Merges the bits of `mask` into a byte (R92). -/
def mergeByte (old new mask : Byte) : Byte := (old &&& ~~~mask) ||| (new &&& mask)

/-- Writes the bits of `mask` of one byte of a scratchpad; its word is sound from then on (R67). -/
def WorkGroup.putScratch (g : WorkGroup) (off : Nat) (b mask : Byte) : WorkGroup :=
  { g with scratch := g.scratch.setByte off (mergeByte (g.scratch.byte off) b mask),
           damaged := g.damaged.filter (· != .scratch (off / 4)) }

/-- Writes the bytes of one write of another member that the bank held. -/
def WorkGroup.take (g : WorkGroup) (bs : List (Nat × Byte × Byte)) : WorkGroup :=
  bs.foldl (fun g b => g.putScratch b.1 b.2.1 b.2.2) g

/-- A work-group whose bank shows its core every write that it holds (R138). -/
def WorkGroup.show_ (g : WorkGroup) : WorkGroup := { g.inbox.foldl WorkGroup.take g with inbox := [] }

/-- The banks of a core show it every write that they hold: what an acquire of die scope or wider, and every access but a
plain load of the core's own, finds (R130, R138). -/
def State.showBanks (s : State) (core : Nat) : State :=
  { s with wgs := s.wgs.map fun p => if p.2.core = core then (p.1, p.2.show_) else p }

/-- Drops the L1 lines of a core that invariant loads of the launch did not fill (R130). -/
def State.dropL1 (s : State) (core launch : Nat) : State :=
  s.modCore core fun k => { k with l1 := k.l1.filter fun p => p.2.inv == some launch }

/-- What an acquire of die scope or wider does to its core (R130, R138). -/
def State.acquire (s : State) (core launch : Nat) : State := (s.showBanks core).dropL1 core launch

/-- An acquire-side event of a warp (R133, R134): what its core had performed by then comes before its next release. -/
def Warp.sync (w : Warp) (order : Nat) : Warp := { w with synced := max w.synced order }

/-- Takes the next running number (R140, R141). -/
def State.stamp (s : State) : Nat × State := (s.order, { s with order := s.order + 1 })

/-- Takes a new name for a work-group, job, gang or launch. -/
def State.fresh (s : State) : Nat × State := (s.nextUid, { s with nextUid := s.nextUid + 1 })

/-- Counts an event of a work-group's performance counters (R389). -/
def WorkGroup.count (g : WorkGroup) (event n : Nat) : WorkGroup :=
  { g with counters := g.counters.map fun p =>
      if p.2.event = event then (p.1, { p.2 with value := p.2.value + BitVec.ofNat 64 n }) else p }

/-- The counters of a work-group that is saved: cycles count while it is resident (R389). -/
def WorkGroup.stopCounters (g : WorkGroup) (now : Nat) : WorkGroup :=
  { g with counters := g.counters.map fun p =>
      if p.2.event = 0 then (p.1, { p.2 with value := p.2.value + BitVec.ofNat 64 (now - p.2.since) }) else p }

/-- The same when it is restored. -/
def WorkGroup.startCounters (g : WorkGroup) (now : Nat) : WorkGroup :=
  { g with counters := g.counters.map fun p => if p.2.event = 0 then (p.1, { p.2 with since := now }) else p }

/-- The eight counters at a first instruction (R389). -/
def newCounters (now : Nat) : Sparse Counter := (List.range 8).map fun n => (n, ⟨0, 0, now⟩)

/-- A signed 32-bit register value. -/
def toSigned (x : Word) : Int := x.toInt

/-- An address modulo 2^57 (R259). -/
def wrapPc (x : Int) : Nat := (x % 2 ^ 57).toNat

end Sys2Proof.Machine
end

