-- ==== Sys2Proof/Machine/Recorder.lean ====
section
/-! DEFINITION. The Varve recorder (file 22): records, anchors, drops and the ring of each core. -/

namespace Sys2Proof.Machine

/-- A field of a record's payload: a value placed from bit `at_` of the record up (Table 22.2). -/
def field (at_ bits x : Nat) : Nat := x % 2 ^ bits * 2 ^ (at_ - 48)

/-- A record (Table 22.1); the payload stands at bits [127:48]. -/
def varveWord (type delta : Nat) (tenant : BitVec 16) (sub slot payload : Nat) : BitVec 128 :=
  BitVec.ofNat 128 (type + delta * 2 ^ 8 + tenant.toNat * 2 ^ 24 + sub % 4 * 2 ^ 40 + slot % 32 * 2 ^ 42 +
    payload % 2 ^ 80 * 2 ^ 48)

/-- Puts a record in the ring, over the oldest when the ring is full (R423). -/
def Varve.push (v : Varve) (r : BitVec 128) : Varve :=
  { v with ring := (v.ring ++ [r]).drop (v.ring.length + 1 - 4096) }

/-- Writes a time anchor (R425, type 0x01). -/
def Varve.anchor (v : Varve) (now time clock : Nat) : Varve :=
  let v' := v.push (varveWord 0x01 (min 65535 (now - v.last)) 0 0 0
    (field 48 64 time + field 112 12 clock))
  { v' with last := now, sinceAnchor := 0, inCycle := (if v.last = now then v.inCycle else 0) + 1 }

/-- Writes one record at a cycle, an anchor before it where R425 asks for one. The fifth event of a cycle
is counted instead (R425); a frozen ring takes nothing (R431). -/
def Varve.record (v : Varve) (now time clock type : Nat) (tenant : BitVec 16)
    (sub slot payload : Nat) : Varve :=
  if v.frozen.isSome then v
  else if v.last = now ∧ 4 ≤ v.inCycle then { v with dropped := v.dropped + 1 }
  else
    let v := if v.ring.isEmpty || 65535 < now - v.last || 4096 ≤ v.sinceAnchor
      then v.anchor now time clock else v
    let v' := v.push (varveWord type (now - v.last) tenant sub slot payload)
    { v' with last := now, sinceAnchor := v.sinceAnchor + 1,
              inCycle := (if v.last = now then v.inCycle else 0) + 1 }

/-- Writes a record in the ring of a core. -/
def State.varve (s : State) (core type : Nat) (tenant : BitVec 16) (sub slot payload : Nat) : State :=
  let d := s.die (core / 64)
  s.modCore core fun k =>
    { k with varve := k.varve.record d.cycles s.time d.clockMHz type tenant sub slot payload }

/-- A record about a warp: its tenant, sub-core and slot. -/
def State.varveWarp (s : State) (g : WorkGroup) (w : Warp) (type payload : Nat) : State :=
  s.varve g.core type (s.ctx g.ctx).tenant w.sub w.slot payload

/-- A record of a context's event that no warp raises. -/
def State.varveWg (s : State) (g : WorkGroup) (type payload : Nat) : State :=
  s.varve g.core type (s.ctx g.ctx).tenant 0 0 payload

/-- The continuation records of an extended field of the low `bits` bits (R427), from part p up. -/
def State.varveParts (s : State) (g : WorkGroup) (w : Warp) (ext : Nat) : (parts : List Nat) → State
  | [] => s
  | p :: r =>
    (s.varveWarp g w 0x0F (field 48 64 (ext / 2 ^ (64 * p)) + field 112 2 p)).varveParts g w ext r

/-- A split change (type 0x11): kind 0 divide, 1 merge, 2 exit. -/
def State.varveSplit (s : State) (g : WorkGroup) (w : Warp) (pc kind : Nat) (lanes : Lanes) : State :=
  s.varveWarp g w 0x11 (field 48 54 (pc / 8) + field 102 2 kind +
    field 104 7 ((lowest lanes).getD 0) + field 111 8 (countLanes lanes))

end Sys2Proof.Machine
end

