-- ==== Sys2Proof/Machine/Pages.lean ====
section
/-! DEFINITION. Command pages: completion entries, events and interrupts (R460, R468, R470, R472). -/

namespace Sys2Proof.Machine

/-- The physical address of host address 0 (Table 1.2). -/
def hostBase : Nat := 0x8000000000000

/-- The end of module HBM (Table 1.2). -/
def hbmTop : Nat := 0x30000000000

/-- Entry n of a ring whose base is a host address. -/
def ringAddr (base : Dword) (size : Nat) (n : Word) : Nat :=
  hostBase + (base.toNat + size * (n.toNat % 4096)) % 2 ^ 51

/-- Signals vector 32 c + k unless the page masks it (R468). -/
def State.signal (s : State) (c k : Nat) : State :=
  if (s.page c).irqMask.getLsbD k then s else { s with irqs := s.irqs ++ [32 * c + k] }

/-- Whether the completion ring of a page has room (R468). -/
def Page.hasRoom (p : Page) : Bool := (p.cplTail - p.cplHead).toNat < 4096

/-- The class field of a completion entry (Table 24.7). -/
def entryClass (e : BitVec 1024) : Nat := (e.extractLsb' 72 2).toNat

/-- Writes a completion entry and signals its vector (R470, R472). -/
def State.writeCompletion (s : State) (c : Nat) (e : BitVec 1024) (irq : Bool) : State :=
  let p := s.page c
  let a := ringAddr p.cplBase 128 p.cplTail
  let s := { s with mem := s.mem.setValue a 128 e.toNat }
  let s := s.setPage c { p with cplTail := p.cplTail + 1 }
  if irq then s.signal c (if entryClass e = 3 then 1 else 0) else s

/-- Posts an entry, or holds it while the ring is full or entries are held before it (R472). -/
def State.post (s : State) (c : Nat) (e : BitVec 1024) (irq : Bool) : State :=
  let p := s.page c
  if p.hasRoom && p.held.isEmpty then s.writeCompletion c e irq
  else s.setPage c { p with held := p.held ++ [(e, irq)] }

/-- Posts held entries while there is room; `fuel` is how many are held. -/
def State.release (s : State) (c : Nat) : (fuel : Nat) → State
  | 0 => s
  | n + 1 =>
    let p := s.page c
    match p.held with
    | (e, irq) :: r =>
      if p.hasRoom then ((s.setPage c { p with held := r }).writeCompletion c e irq).release c n else s
    | [] => s

/-- An event entry (R472): class 3, its kind in Status, its payload from bit 256 up. -/
def eventEntry (c kind payload : Nat) : BitVec 1024 :=
  BitVec.ofNat 1024 (3 * 2 ^ 72 + c % 64 * 2 ^ 74 + kind * 2 ^ 80 + 0xFFFF * 2 ^ 224 + payload * 2 ^ 256)

def State.event (s : State) (c kind payload : Nat) : State := s.post c (eventEntry c kind payload) true

/-- A command's completion entry (Table 24.7). -/
def completionEntry (c : Nat) (tag : Dword) (opcode cls status : Nat) (value : Nat)
    (offset segment : Nat) : BitVec 1024 :=
  BitVec.ofNat 1024 (tag.toNat + opcode % 256 * 2 ^ 64 + cls * 2 ^ 72 + c % 64 * 2 ^ 74 +
    status % 256 * 2 ^ 80 + value % 2 ^ 64 * 2 ^ 128 + offset % 2 ^ 32 * 2 ^ 192 +
    segment % 2 ^ 16 * 2 ^ 224)

end Sys2Proof.Machine
end

