-- ==== Sys2Proof/Machine/Homes.lean ====
section
/-! DEFINITION. Home slices (file 02): where a physical address lives, the lines that its L2 slice holds, and which copies
are uncorrectable. `State.mem` holds the value of each location at its home slice. -/

namespace Sys2Proof.Machine

/-! ### Routing (R14, R53, R56) -/

/-- Table 1.2: an address of a reserved range. -/
def reservedPa (pa : Nat) : Bool := hbmTop ≤ pa && pa < 0x4000000000000

def isHbm (pa : Nat) : Bool := pa < hbmTop

def isPeer (pa : Nat) : Bool := 0x4000000000000 ≤ pa && pa < hostBase

def isHost (pa : Nat) : Bool := hostBase ≤ pa

/-- A byte of a firmware reserve: the top 512 MiB of a die's region (R56). -/
def inReserve (pa : Nat) : Bool := isHbm pa && 0x1FE0000000 ≤ pa % 2 ^ 37

/-- Home slice of an address (R53). -/
def homeSlice (pa : Nat) : Nat :=
  (pa / 2 ^ 7 % 64) ^^^ (pa / 2 ^ 13 % 64) ^^^ (pa / 2 ^ 19 % 64) ^^^ (pa / 2 ^ 25 % 64) ^^^
    (pa / 2 ^ 31 % 64)

/-- Home die of an address of module HBM (R14). -/
def homeDie (pa : Nat) : Nat := pa / 2 ^ 37 % 32

/-- The set of its slice that an address lies in (R53). -/
def homeSet (pa : Nat) : Nat := pa / 2 ^ 13 % 4096

/-- Whether two lines of one die lie in one set of one slice. -/
def sameSet (m n : Nat) : Bool :=
  homeSlice (m * 128) == homeSlice (n * 128) && homeSet (m * 128) == homeSet (n * 128)

/-! ### Damage (R65 to R70) -/

/-- A line as its home slice holds it. -/
def State.l2Line (s : State) (line : Nat) : Option L2Line :=
  ((s.die (homeDie (line * 128))).l2.find? fun p => p.1 == line).map (·.2)

/-- A line in a lost-line table (R68). -/
def State.lostLine (s : State) (line : Nat) : Bool :=
  (s.die (homeDie (line * 128))).lost.any fun p => p.2.1 == line

/-- An address of HBM whose reader gets an uncorrectable error: its 32 bytes are damaged in the slice; or the slice would
fill the line from an HBM copy of which some 32 bytes are, or the line is lost (R67, R68, Table 2.5). -/
def State.badByte (s : State) (pa : Nat) : Bool :=
  match s.l2Line (pa / 128) with
  | some x => x.bad.contains (pa % 128 / 32)
  | none => s.lostLine (pa / 128) || s.hbmBad.any fun g => g / 4 == pa / 128

/-- A line of which some byte cannot be read. -/
def State.badLine (s : State) (line : Nat) : Bool :=
  (List.range 4).any fun i => s.badByte (line * 128 + 32 * i)

/-- An entry in a die control core's log (R67). -/
def State.logEcc (s : State) (die : Nat) (cell : Cell) (at_ : Nat) : State :=
  s.modDie die fun d => { d with eccLog := d.eccLog ++ [⟨cell, at_, s.time⟩] }

/-- The entry of an address that cannot be read: its line, in the L2 or in HBM (R67). -/
def State.logLine (s : State) (pa : Nat) : State :=
  s.logEcc (homeDie pa) (if (s.l2Line (pa / 128)).isSome then .l2 else .hbm) (pa / 128 * 128)

/-! ### The lines of a slice (R51, R53, R68) -/

/-- A line leaves its slice. A sound dirty line is written to HBM; a damaged one is not, and enters the lost-line table
with what HBM keeps (R68). -/
def State.evict (s : State) (line : Nat) (x : L2Line) : State :=
  let s := s.modDie (homeDie (line * 128)) fun d => { d with l2 := d.l2.filter fun p => p.1 != line }
  if !x.dirty then s
  else if x.bad.isEmpty then { s with hbmBad := s.hbmBad.filter fun g => g / 4 != line }
  else (s.logEcc (homeDie (line * 128)) .l2 (line * 128)).modDie (homeDie (line * 128)) fun d =>
    { d with lost := d.lost ++ [(homeSlice (line * 128), line, x.behind)] }

/-- The line that a full set of 16 loses: the least recently used of those without the hint keep, or else of all (R51;
log 126). -/
def l2Victim (l2 : List (Nat × L2Line)) (line : Nat) : Option (Nat × L2Line) :=
  let set_ := l2.filter fun p => sameSet p.1 line
  if set_.length < 16 then none else ((set_.filter fun p => !p.2.keep).getLast?).or set_.getLast?

/-- Inserts a line as most recently used, or least (R51). -/
def State.insertLine (s : State) (line : Nat) (x : L2Line) (low : Bool) : State :=
  let die := homeDie (line * 128)
  let s := match l2Victim (s.die die).l2 line with
    | some v => s.evict v.1 v.2
    | none => s
  s.modDie die fun d => { d with l2 := if low then d.l2 ++ [(line, x)] else (line, x) :: d.l2 }

/-- An access performed at the home slice of a line of HBM, under a cache hint: a line that the slice does not hold is
filled, unless its HBM copy is damaged (R51, R54, R67). -/
def State.touchLine (s : State) (hint line : Nat) : State :=
  match s.l2Line line with
  | some x => s.modDie (homeDie (line * 128)) fun d =>
    { d with l2 := (line, x) :: d.l2.filter fun p => p.1 != line }
  | none => if s.badLine line then s else s.insertLine line ⟨false, hint == 3, [], []⟩ (hint == 1)

/-- The lines of HBM of some addresses, each once. -/
def hbmLines (as : List Addr) : List Nat :=
  (as.filterMap fun a => match a with
    | .phys pa => if isHbm pa then some (pa / 128) else none
    | .scratch _ _ => none).eraseDups

/-- Accesses to some addresses at their home slices. -/
def State.touchLines (s : State) (hint : Nat) (as : List Addr) : State :=
  (hbmLines as).foldl (fun s line => s.touchLine hint line) s

/-- Which granules of a line a write covers whole. -/
def wholeGrains (bs : List (Addr × Byte × Byte)) (line : Nat) : List Nat :=
  (List.range 4).filter fun i => (List.range 32).all fun j =>
    bs.any fun b => b.1 == .phys (line * 128 + 32 * i + j) && b.2.2 == 0xFF

/-- Drops a line's entry in the lost-line table. -/
def State.clearLost (s : State) (line : Nat) : State :=
  s.modDie (homeDie (line * 128)) fun d => { d with lost := d.lost.filter fun p => p.2.1 != line }

/-- What HBM holds of a line that its slice does not hold. -/
def State.hbmBytes (s : State) (line : Nat) : List Byte :=
  match (s.die (homeDie (line * 128))).lost.find? fun p => p.2.1 == line with
  | some p => p.2.2
  | none => s.mem.bytes (line * 128) 128

/-- A write to a line at its home slice makes it dirty there; what it covers whole is sound from then on, and a write of
all 128 bytes ends a loss (R67, R68). A partial write of a line that cannot be filled is not performed, and does not come
here. -/
def State.dirtyLine (s : State) (hint line : Nat) (whole : List Nat) : State :=
  let s' := s.touchLine hint line
  match s'.l2Line line with
  | some x =>
    let y : L2Line := { x with dirty := true, behind := if x.dirty then x.behind else s.mem.bytes (line * 128) 128,
                               bad := x.bad.filter fun i => !whole.contains i }
    s'.modDie (homeDie (line * 128)) fun d =>
      { d with l2 := d.l2.map fun p => if p.1 = line then (line, y) else p }
  | none =>
    if whole.length = 4 then (s'.clearLost line).insertLine line ⟨true, hint == 3, s.hbmBytes line, []⟩ (hint == 1)
    else s'

/-- Makes the lines that a write touches ready for it. -/
def State.dirtyLines (s : State) (hint : Nat) (bs : List (Addr × Byte × Byte)) : State :=
  (hbmLines (bs.map (·.1))).foldl (fun s line => s.dirtyLine hint line (wholeGrains bs line)) s

/-- Whether a write cannot be performed at the home slices: it covers part of 32 bytes that are damaged there, or part of
a line that cannot be filled (R67, R68). -/
def State.partWrites (s : State) (bs : List (Addr × Byte × Byte)) : Option Nat :=
  (bs.filterMap fun b => match b.1 with
    | .phys pa =>
      let whole := wholeGrains bs (pa / 128)
      if isHbm pa && s.badByte pa &&
          !(if (s.l2Line (pa / 128)).isSome then whole.contains (pa % 128 / 32) else whole.length == 4)
      then some pa else none
    | .scratch _ _ => none).head?

end Sys2Proof.Machine
end

