-- ==== Sys2Proof/Machine/Translate.lean ====
section
/-! DEFINITION. Translation of global addresses (file 01): tables, TLBs, A and D bits, fault queues. -/

namespace Sys2Proof.Machine

/-- The level's index shift (Table 1.3). -/
def levelShift : Nat → Nat
  | 1 => 42
  | 2 => 29
  | _ => 16

def levelIndex (level va : Nat) : Nat := va / 2 ^ levelShift level % (if level = 1 then 32768 else 8192)

def eBit (e : Dword) (i : Nat) : Bool := e.getLsbD i

/-- Table pointer, or 64 KiB frame: PA[51:16]. -/
def eAddr (e : Dword) : Nat := (e.extractLsb' 16 36).toNat * 2 ^ 16

/-- The malformed checks of R17 for an entry of a level. -/
def malformed (level : Nat) (e : Dword) : Bool :=
  eBit e 10 || e.extractLsb' 12 4 != 0 || e.extractLsb' 52 4 != 0 ||
  (if eBit e 1 then level == 3 || e.extractLsb' 2 10 != 0 || !isHbm (eAddr e)
   else level == 1 || (eBit e 3 && !eBit e 2) || e.extractLsb' 8 2 == 3 || (eBit e 7 && level != 3) ||
     (level == 2 && e.extractLsb' 16 13 != 0))

/-- The permission check of R17 and R18. -/
def permits (e : Dword) (access : Access) (priv : Bool) : Bool :=
  (priv || !eBit e 11) &&
  match access with
  | .read => eBit e 2
  | .engineRead => eBit e 2
  | .write => eBit e 3
  | .engineWrite => eBit e 3
  | .execute => eBit e 4
  | .atomic => eBit e 2 && eBit e 3

/-- The kinds bits of an access (Table 1.7 [8:4]). -/
def accessKinds : Access → Nat
  | .read => 1
  | .write => 2
  | .execute => 4
  | .atomic => 8
  | .engineRead => 17
  | .engineWrite => 18

/-- A leaf that a walk reached: its entry, where it stands, its level. -/
structure Leaf where
  entry : Dword
  at_ : Nat
  level : Nat
  deriving DecidableEq, Repr

/-- A walk: the addresses of the entries it read, the tables they pointed to by level, and its end. -/
structure Walk where
  reads : List Nat
  tables : List (Nat × Nat)
  result : Except Miss Leaf

/-- A fetch needs a frame that the security core has marked executable (R1, R451). -/
def runsIn (frames : List Nat) (pa : Nat) (access : Access) : Bool :=
  access != .execute || frames.contains (pa / 2 ^ 16)

/-- The address that a leaf of a level gives. -/
def Leaf.pa (l : Leaf) (va : Nat) : Nat := eAddr l.entry + va % 2 ^ (if l.level = 2 then 29 else 16)

/-- Reads one entry and goes on (R15 to R17); `fuel` is the number of levels left. A walk error reports the entry value
0, since none was read (log 127). A table in a firmware reserve ends the walk too (R56). -/
def walkFrom (s : State) (frames : List Nat) (va : Nat) (access : Access) (priv : Bool) :
    (fuel table level : Nat) → Walk
  | 0, _, level => ⟨[], [], .error ⟨2, level, 0, va, 0⟩⟩
  | n + 1, table, level =>
    let a := table + 8 * levelIndex level va
    let miss (type level : Nat) (e : Dword) : Walk := ⟨[a], [], .error ⟨type, level, e, va, a⟩⟩
    if inReserve a then miss 5 level 0
    else if s.badByte a then miss 4 level 0
    else
      let e := BitVec.ofNat 64 (s.mem.value a 8)
      if !eBit e 0 then miss 0 level 0
      else if malformed level e then miss 2 level e
      else if eBit e 1 then
        let w := walkFrom s frames va access priv n (eAddr e) (level + 1)
        { w with reads := a :: w.reads, tables := (level, eAddr e) :: w.tables }
      else if reservedPa (eAddr e) then miss 3 0 e
      else if permits e access priv && runsIn frames (Leaf.pa ⟨e, a, level⟩ va) access
        then ⟨[a], [], .ok ⟨e, a, level⟩⟩
      else miss 1 level e

/-- The walk of a context from its root. -/
def rootWalk (s : State) (c va : Nat) (access : Access) (priv : Bool) : Walk :=
  walkFrom s (s.ctx c).execFrames va access priv 3 (s.ctx c).root 1

/-- The walk of a context from the deepest cached table (R24). -/
def walk (s : State) (die c va : Nat) (access : Access) (priv : Bool) : Walk :=
  let ws := (s.die die).walks.filter fun w => w.ctx == c
  let hit (level : Nat) := ws.find? fun w => w.level == level && w.prefix_ == va / 2 ^ levelShift level
  match hit 2 with
  | some w => walkFrom s (s.ctx c).execFrames va access priv 1 w.table 3
  | none =>
    match hit 1 with
    | some w => walkFrom s (s.ctx c).execFrames va access priv 2 w.table 2
    | none => rootWalk s c va access priv

/-- The TLB entry a leaf fills (R19, R20): a page, a hinted group of 32 pages whose base follows from this leaf alone
modulo 2^52, or 512 MiB. -/
def tlbOf (c va : Nat) (l : Leaf) : TlbEntry :=
  let page := va / 2 ^ 16
  let bits := l.entry.extractLsb' 0 16
  let dirty (p : Nat) : List Nat := if eBit l.entry 6 then [p] else []
  if l.level = 2 then ⟨c, page / 8192 * 8192, 8192, eAddr l.entry, bits, l.at_, [], dirty (page / 8192 * 8192)⟩
  else if eBit l.entry 7 then
    let i := page % 32
    ⟨c, page - i, 32, (eAddr l.entry + 2 ^ 52 - i * 2 ^ 16) % 2 ^ 52, bits, l.at_ - 8 * i, [], dirty page⟩
  else ⟨c, page, 1, eAddr l.entry, bits, l.at_, [], dirty page⟩

def TlbEntry.covers (t : TlbEntry) (c va : Nat) : Bool :=
  t.ctx == c && t.page ≤ va / 2 ^ 16 && va / 2 ^ 16 < t.page + t.span

/-- The leaf that stands for one page of an entry. -/
def TlbEntry.leafOf (t : TlbEntry) (va : Nat) : Nat :=
  if t.span = 32 then t.leaf + 8 * (va / 2 ^ 16 - t.page) else t.leaf

/-- Pages whose A and D bits an entry keeps apart: those of a hinted group (R20). -/
def TlbEntry.pageOf (t : TlbEntry) (va : Nat) : Nat := if t.span = 32 then va / 2 ^ 16 else t.page

def TlbEntry.pa (t : TlbEntry) (va : Nat) : Nat := (t.base + (va - t.page * 2 ^ 16)) % 2 ^ 52

/-- Puts an entry at the head of a TLB, over a victim when it is full (log 10). -/
def tlbFill (tlb : List TlbEntry) (size tick : Nat) (t : TlbEntry) : List TlbEntry :=
  let rest := tlb.filter fun x => !(x.ctx == t.ctx && x.page == t.page && x.span == t.span)
  t :: if rest.length < size then rest else rest.eraseIdx (Config.victim tick % rest.length)

/-- The monitors of a line whose word a walk's write left other than they expect: they wake in this turn (R162). -/
def State.wakeLater (s : State) (line : Nat) : State :=
  s.modDie (homeDie (line * 128)) fun d => { d with monitors := d.monitors.map fun p =>
    let v : Word := BitVec.ofNat 32 (s.mem.value p.2.word 4)
    if p.2.word / 128 == line && v != p.2.x && p.2.woken.isNone then (p.1, { p.2 with woken := some v }) else p }

/-- Sets bits of a table entry's low byte at its home slice: the atomic OR of R21. -/
def State.orEntry (s : State) (at_ : Nat) (bits : Byte) : State :=
  let s := s.dirtyLines 0 [(.phys at_, bits, 0xFF)]
  { s with mem := s.mem.setByte at_ (s.mem.byte at_ ||| bits) }.wakeLater (at_ / 128)

/-- Whether an access writes, and so needs D (R22). -/
def accessWrites : Access → Bool
  | .write => true
  | .atomic => true
  | .engineWrite => true
  | _ => false

/-- Uses an entry for an access: sets A, and D before a write, in the leaf of the page (R20 to R22), and
keeps the entry in both TLBs. -/
def State.useEntry (s : State) (core va : Nat) (access : Access) (t : TlbEntry) : State :=
  let p := t.pageOf va
  let newA := !t.accessed.contains p
  let newD := accessWrites access && !t.dirty.contains p
  let t := { t with accessed := if newA then p :: t.accessed else t.accessed,
                    dirty := if newD then p :: t.dirty else t.dirty }
  let s := if newA then s.orEntry (t.leafOf va) 0x20 else s
  let s := if newD then s.orEntry (t.leafOf va) 0x40 else s
  let s := s.modCore core fun k => { k with tlb := tlbFill k.tlb 256 s.tick t }
  s.modDie (core / 64) fun d => { d with tlb := tlbFill d.tlb 12288 s.tick t }

/-- Remembers the tables a walk went through (R24). -/
def State.cacheWalk (s : State) (die c va : Nat) (level table : Nat) : State :=
  s.modDie die fun d =>
    let w : WalkEntry := ⟨c, level, va / 2 ^ levelShift level, table⟩
    if d.walks.contains w then d
    else { d with walks := w :: if d.walks.length < 1024 then d.walks
                  else d.walks.eraseIdx (Config.victim s.tick % d.walks.length) }

/-- The walk-cache fills of the entries that a walk has read and checked (R17, R24). -/
def State.cacheWalks (s : State) (die c va : Nat) (w : Walk) : State :=
  w.tables.foldl (fun s t => s.cacheWalk die c va t.1 t.2) s

/-- An access that has been translated. -/
structure Phys where
  pa : Nat
  /-- Table 1.4 Type; peer and host pages are always 2 (R18) -/
  type : Nat
  /-- P of the leaf -/
  priv : Bool
  deriving DecidableEq, Repr

def physOf (t : TlbEntry) (va : Nat) : Phys :=
  let pa := t.pa va
  ⟨pa, if isHbm pa then (t.bits.extractLsb' 8 2).toNat else 2, t.bits.getLsbD 11⟩

/-- An entry of the TLBs that serves an access: it covers the address, permits the access, and for a fetch its frame is
marked executable (R24, R451). -/
def State.tlbHit (s : State) (core c va : Nat) (access : Access) (priv : Bool) : Option TlbEntry :=
  let ok (t : TlbEntry) : Bool := t.covers c va && permits (t.bits.zeroExtend 64) access priv &&
    runsIn (s.ctx c).execFrames (t.pa va) access
  match (s.core core).tlb.find? ok with
  | some t => some t
  | none => (s.die (core / 64)).tlb.find? ok

/-- Translates through an entry, whose page's A and D bits are set. A group entry that an inconsistent leaf gave may map
a page into a reserved range, which no memory answers (R14, R20). -/
def State.translateBy (s s' : State) (core va : Nat) (access : Access) (t : TlbEntry) : Except Miss Phys × State :=
  if reservedPa (t.pa va) then (.error ⟨3, 0, t.bits.zeroExtend 64, va, 0⟩, s)
  else (.ok (physOf t va), s'.useEntry core va access t)

/-- Translates one address of an access: by a TLB entry, else by a walk that fills the TLBs (R17 to R24). A write through
an entry that has not set D walks again (R22). -/
def State.translate (s : State) (core c va : Nat) (access : Access) (priv : Bool) :
    Except Miss Phys × State :=
  match (s.tlbHit core c va access priv).filter fun t => !accessWrites access || t.dirty.contains (t.pageOf va) with
  | some t => s.translateBy s core va access t
  | none =>
    let w := walk s (core / 64) c va access priv
    match w.result with
    | .ok l =>
      s.translateBy ((s.touchLines 0 (w.reads.map .phys)).cacheWalks (core / 64) c va w) core va access (tlbOf c va l)
    | .error m => (.error m, s)

/-- Whether a translation would succeed, without its effects. -/
def State.translates (s : State) (core c va : Nat) (access : Access) (priv : Bool) : Bool :=
  match (s.translate core c va access priv).1 with
  | .ok _ => true
  | .error _ => false

/-! ### Fault queues (R27 to R32) -/

/-- The 32 bytes of an entry (Table 1.7). -/
def FaultEntry.bits (f : FaultEntry) (die : Nat) : Nat :=
  1 + f.type * 2 ^ 1 + f.kinds % 32 * 2 ^ 4 + f.ctx % 64 * 2 ^ 9 + f.tenant.toNat * 2 ^ 16 +
    f.page % 2 ^ 41 * 2 ^ 32 + f.level % 4 * 2 ^ 73 + min f.count 65535 * 2 ^ 80 + die % 32 * 2 ^ 96 +
    f.core % 64 * 2 ^ 101 + f.sub % 4 * 2 ^ 107 + f.warp % 32 * 2 ^ 109 +
    (if f.engine then 2 ^ 114 else 0) + f.time % 2 ^ 64 * 2 ^ 128 + f.entry.toNat * 2 ^ 192

/-- Who a fault is posted for. -/
structure Requester where
  core : Nat
  sub : Nat
  slot : Nat
  engine : Bool
  deriving DecidableEq, Repr

/-- The free entry that a fault takes: the lowest-numbered one, where R28 says "a free entry" (DESIGN CHOICE, log
128). -/
def freeEntry (q : Sparse FaultEntry) : Option Nat :=
  (List.range (min 4096 (q.length + 1))).find? fun i => (q.look i).isNone

/-- Posts a fault: joins the open entry of its key or opens a free one; none when the queue is full, the wait being
counted (R28, R32). A walk error is logged to the die control core with its line (R36, R67). -/
def State.postFault (s : State) (r : Requester) (c : Nat) (m : Miss) (access : Access) :
    Option Nat × State :=
  let s := if m.type = 4 then s.logLine m.at_ else s
  let die := r.core / 64
  let d := s.die die
  let page := m.va / 2 ^ 16
  let kinds := accessKinds access
  let note (n : Nat) (joined : Bool) (k : Nat) (s : State) : State :=
    s.varve r.core 0x20 (s.ctx c).tenant 0 0 (field 48 57 m.va + field 105 3 m.type + field 108 5 k +
      (if joined then field 113 1 1 else 0) + field 114 12 n)
  match d.faultQ.find? fun p => p.2.ctx == c && p.2.page == page && p.2.type == m.type with
  | some (n, f) =>
    let f := { f with kinds := f.kinds ||| kinds, count := f.count + 1 }
    (some n, note n true f.kinds (s.setDie die { d with faultQ := d.faultQ.put n (some f) }))
  | none =>
    match freeEntry d.faultQ with
    | some n =>
      let f : FaultEntry :=
        { type := m.type, kinds := kinds, ctx := c, tenant := (s.ctx c).tenant, page := page,
          level := m.level, count := 1, core := r.core % 64, sub := r.sub, warp := r.slot,
          engine := r.engine, time := s.time, entry := if m.type = 0 then 0 else m.entry,
          forwarded := false }
      (some n, note n false kinds (s.setDie die { d with faultQ := d.faultQ.put n (some f) }))
    | none => (none, s.setDie die { d with faultOverflow := d.faultOverflow + 1 })

/-- Whether some entry of a die's queue would take a fault: its key is open, or an entry is free (R28). -/
def State.entryFor (s : State) (die c : Nat) (m : Miss) : Bool :=
  ((s.die die).faultQ.any fun p => p.2.ctx == c && p.2.page == m.va / 2 ^ 16 && p.2.type == m.type) ||
    (freeEntry (s.die die).faultQ).isSome

end Sys2Proof.Machine
end

