-- ==== Sys2Proof/Machine/Traps.lean ====
section
/-! DEFINITION. Regions, replay, transaction aborts, taking a trap and returning from one (file 19). -/

namespace Sys2Proof.Machine

/-! ### Regions (R403, R405) -/

/-- Changes a split wherever it stands: in the warp or among the splits a handler saved. -/
def Warp.modSplit (w : Warp) (id : Nat) (f : Split → Split) : Warp :=
  let g (l : List Split) : List Split := l.map fun sp => if sp.id == id then f sp else sp
  { w with splits := g w.splits,
           handler := w.handler.map fun h => { h with splits := g h.splits } }

/-- Opens a region: the warp's counter rises (R263, R403). -/
def Warp.openRegion (w : Warp) : Warp := { w with regions := w.regions + 1 }

/-- The stochastic counts of some lanes (R83). -/
def Warp.countsOf (w : Warp) (lanes : Lanes) : Sparse Word := w.seq.filter fun p => lanes.getLsbD p.1

/-- A split at the start of a region of the warp opened just now, with its lanes' counts (R403). -/
def Warp.atRegion (w : Warp) (sp : Split) (pc : Nat) : Split :=
  { sp with pc := pc, entry := pc, counter := w.regions, counts := w.countsOf sp.lanes, wait := none, arrived := none }

/-- A new split of these lanes at the start of a region at `pc` that was opened just now. -/
def Warp.newSplit (w : Warp) (lanes : Lanes) (pc now : Nat) : Split :=
  { id := w.nextSplit, lanes := lanes, pc := pc, wait := none, readyAt := now, aged := false, entry := pc,
    counter := w.regions, counts := w.countsOf lanes, arrived := none }

/-- Adds a split of these lanes that starts a region at `pc`. -/
def Warp.addSplit (w : Warp) (lanes : Lanes) (pc now : Nat) : Warp :=
  let w := w.openRegion
  { w with splits := w.splits ++ [w.newSplit lanes pc now], nextSplit := w.nextSplit + 1 }

/-- Splits without some lanes; a split left empty ends. -/
def dropLanes (lanes : Lanes) (l : List Split) : List Split :=
  (l.map fun sp => { sp with lanes := sp.lanes &&& ~~~lanes }).filter fun sp => sp.lanes != 0

/-- Takes lanes that end out of every split. -/
def Warp.takeLanes (w : Warp) (lanes : Lanes) : Warp :=
  { w with splits := dropLanes lanes w.splits,
           handler := w.handler.map fun h => { h with splits := dropLanes lanes h.splits } }

/-- Takes lanes out of the splits that run. -/
def Warp.leaveSplits (w : Warp) (lanes : Lanes) : Warp := { w with splits := dropLanes lanes w.splits }

/-- Whether a producer is cancelled by a replay: an `atom` or `cas` that has issued is not (R186, R314). -/
def Producer.cancels (p : Producer) : Bool :=
  match p.work with
  | .atomic .. => false
  | _ => true

/-- Cancels what producers are to write in registers of a kind: these are full again with their old values, and a
producer with nothing left to write ends (R186). -/
def Warp.cancel (w : Warp) (gone : Producer → RegKey → Bool) : Warp :=
  let out (p : Producer) (k : RegKey) : Bool := p.cancels && gone p k
  let w := w.markFull (w.producers.flatMap fun p => p.dests.filter (out p))
  { w with producers := (w.producers.filter fun p => !(p.cancels && p.dests.all (gone p))).map fun p =>
      { p with dests := p.dests.filter fun k => !out p k } }

/-- The registers that a replay of a split gets back: those of its lanes, and scalars that it has a producer for. -/
def Split.owns (sp : Split) (p : Producer) (k : RegKey) : Bool :=
  if k < 32768 then sp.lanes.getLsbD (k / 256) else p.split == sp.id

/-- Lanes of the atomics and `red`s of a warp that have issued and are not yet performed, in its store queue or in flight
(R314). -/
def Warp.unfinished (w : Warp) : Lanes :=
  (w.producers.foldl (fun m p => match p.work with
    | .atomic .. => p.dests.foldl (fun m k => m ||| (if k < 32768 then laneBit (k / 256) else BitVec.allOnes 128)) m
    | _ => m) 0) |||
  maskOf (w.storeQ.flatMap fun e => match e.op with
    | .red _ g => g.lanes.map (·.lane)
    | _ => [])

/-- The same with the `red`s that are on their way from the core (R126, R314). -/
def State.unfinished (s : State) (u i : Nat) : Lanes :=
  match s.wgs.look u, s.warp? u i with
  | some g, some w => w.unfinished ||| maskOf ((s.core g.core).outbound.flatMap fun e =>
      match e.op with
      | .red _ a => if e.wg = u ∧ e.warp = i then a.lanes.map (·.lane) else []
      | _ => [])
  | _, _ => 0

/-- Restarts a split at its region entry with the counts recorded there (R405); while atomics of its lanes are in flight
the replay waits (R314). -/
def Warp.replay (w : Warp) (busy : Lanes) (id now : Nat) : Warp :=
  match w.split? id with
  | none => w
  | some sp =>
    if (sp.lanes &&& busy) != 0 then w.setSplit { sp with wait := some .replay, arrived := none }
    else
      let w := w.cancel sp.owns
      let counts := (lanesOf sp.lanes).map fun l => (l, Sparse.get (0 : Word) sp.counts l)
      let w := { w with seq := w.seq.setMany (0 : Word) counts }
      w.setSplit { sp with pc := sp.entry, wait := none, arrived := none, readyAt := now, aged := false }

/-- The replay record (type 0x13). -/
def State.noteReplay (s : State) (g : WorkGroup) (w : Warp) (sp : Split) : State :=
  s.varveWarp g w 0x13 (field 48 54 (sp.entry / 8) + field 102 26 sp.counter.toNat)

/-- Replays a split of a warp (R405), once its atomics are performed (R314); it frees the split's monitor (R163). -/
def State.replay (s : State) (u i id : Nat) : State :=
  match s.wgs.look u with
  | none => s
  | some g =>
    match g.warps[i]?, (g.warps[i]?).bind (·.split? id) with
    | some w, some sp =>
      let s := s.setWarp u i (w.replay (s.unfinished u i) id (s.now g.core))
      if (sp.lanes &&& s.unfinished u i) != 0 then s else s.noteReplay g w sp
    | _, _ => s

/-! ### Transaction aborts (R164 to R172) -/

/-- The status word (Table 6.4). -/
def txStatus (code user reads writes : Nat) : Word :=
  BitVec.ofNat 32 (code + user % 256 * 2 ^ 8 + reads % 16 * 2 ^ 16 + writes % 8 * 2 ^ 20 +
    (if code = 2 ∨ code = 3 ∨ code = 4 ∨ code = 11 then 2 ^ 24 else 0))

/-- Ends a lane's transaction with a code, or with the one that its commit has failed with; its registers stay (R171). -/
def Warp.endTx (w : Warp) (l code user : Nat) : Warp :=
  match w.txns.look l with
  | none => w
  | some t =>
    { w with txns := w.txns.del l,
             txst := w.txst.set (0 : Word) l
               (txStatus (t.verdict.getD code) user t.readLines.length t.writeLines.length) }

/-- Records of aborts (type 0x22): lanes with their codes. -/
def State.noteAborts (s : State) (g : WorkGroup) (w : Warp) : (codes : List (Nat × Nat)) → State
  | [] => s
  | (l, code) :: r => (s.varveWarp g w 0x22 (field 48 8 code + field 56 7 l)).noteAborts g w r

/-- The split that a lane runs in; in handler mode, of a lane that has left the handler, its saved split. -/
def Warp.splitOf (w : Warp) (l : Nat) : Option Nat :=
  ((w.splits ++ (w.handler.map (·.splits)).getD []).find? fun sp => sp.lanes.getLsbD l).map (·.id)

/-- Moves lanes of one split to a new one that starts a region at `pc`, among the splits that run or a handler saved, as
the old one was. -/
def Warp.moveLanes (w : Warp) (lanes : Lanes) (pc now : Nat) : Warp :=
  if (w.splits.any fun sp => (sp.lanes &&& lanes) != 0) then (w.leaveSplits lanes).addSplit lanes pc now
  else
    let w := w.openRegion
    { w with nextSplit := w.nextSplit + 1,
             handler := w.handler.map fun h =>
               { h with splits := dropLanes lanes h.splits ++ [w.newSplit lanes pc now] } }

/-- The lanes of aborts with an open transaction, grouped: split, fail target, lanes. -/
def abortGroups (w : Warp) (lanes : List Nat) : List ((Option Nat × Nat) × Lanes) :=
  let key (l : Nat) : Option (Option Nat × Nat) := (w.txns.look l).map fun t => (w.splitOf l, t.fail)
  ((lanes.filterMap key).eraseDups).map fun k => (k, maskOf (lanes.filter fun l => key l == some k))

/-- Aborts transactions of lanes, each with its code: each lane goes to its fail target, the lanes of one split and one
target in one new split (R171, R181; log 129). -/
def Warp.abort (w : Warp) (codes : List (Nat × Nat)) (user now : Nat) : Warp :=
  let groups := abortGroups w (codes.map (·.1))
  let w := codes.foldl (fun w x => w.endTx x.1 x.2 user) w
  groups.foldl (fun w p => w.moveLanes p.2 p.1.2 now) w

/-- Aborts lanes of a warp with their codes, with the records. -/
def State.abortCodes (s : State) (u i : Nat) (codes : List (Nat × Nat)) (user : Nat) : State :=
  if codes.isEmpty then s
  else
    match s.wgs.look u, s.warp? u i with
    | some g, some w =>
      (s.setWarp u i (w.abort codes user (s.now g.core))).noteAborts g w
        (codes.filter fun x => (w.txns.look x.1).isSome)
    | _, _ => s

/-- Aborts lanes of a warp with one code. -/
def State.abortLanes (s : State) (u i : Nat) (lanes : List Nat) (code user : Nat) : State :=
  s.abortCodes u i (lanes.map fun l => (l, code)) user

/-- The lanes of a warp with an open transaction. -/
def Warp.txLanes (w : Warp) : List Nat := (lanesOf w.live).filter fun l => (w.txns.look l).isSome

/-! ### Taking a trap (R397 to R401) -/

/-- Class of a kind (Table 19.1): 0 region-precise, 1 immediate, 2 asynchronous. -/
def trapClass (kind : Nat) : Nat :=
  if kind = 20 ∨ kind = 21 then 2 else if 16 ≤ kind then 0 else 1

/-- The trap record as a number (Table 19.3). -/
def trapRecord (t : Trap) (program : Bool) (seq : Word) : Nat :=
  t.kind % 32 + trapClass t.kind * 2 ^ 5 + (if program then 2 ^ 7 else 0) + t.cause % 256 * 2 ^ 8 +
    t.detail % 65536 * 2 ^ 16 + t.pc % 2 ^ 64 * 2 ^ 32 + t.entry % 2 ^ 64 * 2 ^ 96 +
    t.counter.toNat * 2 ^ 160 + t.lanes.toNat * 2 ^ 192 + t.address % 2 ^ 64 * 2 ^ 320 +
    t.reg % 256 * 2 ^ 384 + t.unit % 256 * 2 ^ 392 + seq.toNat * 2 ^ 416 + t.time % 2 ^ 64 * 2 ^ 448

/-- The record as the words `trapr` reads (R400). -/
def recordWords (x : Nat) : List Word := (List.range 16).map fun n => BitVec.ofNat 32 (x / 2 ^ (32 * n))

/-- Where a warp's resident place is, for events and records: die, core index, sub-core, slot. -/
def placeBits (core sub slot : Nat) : Nat :=
  core / 64 % 32 + core % 64 * 2 ^ 5 + sub % 4 * 2 ^ 11 + slot % 32 * 2 ^ 13

/-- The handler address (R385). -/
def Warp.handlerAddr (w : Warp) : Nat := w.hndLo.toNat + 2 ^ 32 * w.hndHi.toNat

/-- R398: whether the program handler takes a trap of kind k. -/
def handlerTakes (s : State) (g : WorkGroup) (w : Warp) (k : Nat) : Bool :=
  w.hmask.getLsbD k && k != 18 && w.hndLoSet && w.hndHiSet && w.handlerAddr != 0 &&
    w.handlerAddr % 8 == 0 && w.handler.isNone && w.handlerAddr < 2 ^ 57 &&
    s.translates g.core g.ctx w.handlerAddr .execute (s.ctx g.ctx).privileged

/-- Frees the monitors of some splits of a warp (R163). -/
def State.freeMonitors (s : State) (u i : Nat) (of : Nat → Bool) : State :=
  { s with dies := s.dies.map fun d =>
      (d.1, { d.2 with monitors := d.2.monitors.filter fun m => !(m.2.wg == u && m.2.warp == i && of m.2.split) }) }

/-- Ends the waits of a split that its trap ends: `sleep` is over, `monw` runs again (R163, R387). -/
def Split.wake (sp : Split) : Split :=
  match sp.wait with
  | some (.sleep _) => { sp with wait := none }
  | some .monw => { sp with wait := none }
  | _ => sp

/-- The records of waiting splits that kinds 4 to 6 write (R400, type 0x15). For a `bwait` the extended field goes on with its
object's offset and its token, which R158 has reported (log 143). -/
def State.noteWaiting (s : State) (g : WorkGroup) (w : Warp) (kind : Nat) : (l : List Split) → State
  | [] => s
  | sp :: r =>
    let m := match sp.wait with
      | some (.rwait m) => m
      | _ => 0
    let s := s.varveWarp g w 0x15 (field 48 54 (sp.pc / 8) + field 102 4 m +
      (if kind = 4 then field 106 1 1 else 0) + field 107 7 ((lowest sp.lanes).getD 0) +
      field 114 8 (countLanes sp.lanes))
    let parts := if g.desc.width = 128 then [0, 1] else [0]
    let s := s.varveParts g w sp.lanes.toNat parts
    let s := if kind = 4 then
      s.varveParts g w ((w.mask m).toNat * 2 ^ 128) (parts.map (· + 2)) else s
    let s := match sp.wait with
      | some (.bwait off token) => s.varveParts g w ((off + token.toNat * 2 ^ 32) * 2 ^ 128) [2]
      | _ => s
    s.noteWaiting g w kind r

/-! ### Returning (R402, R399) -/

/-- Puts the saved splits back, with the lanes that are still live. -/
def Warp.restore (w : Warp) (saved : Saved) : Warp :=
  let back := saved.splits.filterMap fun sp =>
    let lanes := sp.lanes &&& w.live
    if lanes = 0 then none else some { sp with lanes := lanes }
  { w with splits := back }

/-- The splits of a trap that is over go on at their resume points, or replay (R402). -/
def Warp.resume (w : Warp) (resumes : List (Nat × Option Nat)) (busy : Lanes) (now : Nat) : Warp :=
  resumes.foldl (fun w r =>
    match w.split? r.1, r.2 with
    | none, _ => w
    | some _, none => w.replay busy r.1 now
    | some sp, some pc =>
      if sp.pc = pc then w.setSplit { sp with readyAt := now }
      else w.setSplit { sp with pc := pc, wait := none, arrived := none, readyAt := now, aged := false }) w

/-- The records of the replays that a return makes (type 0x13); one that waits for its atomics is recorded later. -/
def State.noteReplays (s : State) (u i : Nat) (resumes : List (Nat × Option Nat)) : State :=
  resumes.foldl (fun s r =>
    match r.2, s.wgs.look u, (s.warp? u i).bind (·.split? r.1), s.warp? u i with
    | none, some g, some sp, some w => if sp.wait == some .replay then s else s.noteReplay g w sp
    | _, _, _, _ => s) s

/-- Leaves handler mode once no handler lane remains (R402). A replay of a saved split ends the transactions that the
handler's lanes left open (R170). -/
def State.leaveHandler (s : State) (u i : Nat) : State :=
  match s.wgs.look u, s.warp? u i with
  | some g, some w =>
    match w.handler with
    | some h =>
      if !w.splits.isEmpty then s
      else
        let w := { w with handler := none }.restore h
        let s := s.setWarp u i w
        let replays := h.resumes.any fun r => r.2.isNone && (w.split? r.1).isSome
        let s := if replays then s.abortLanes u i w.txLanes 11 0 else s
        (s.modWarp u i fun w => w.resume h.resumes (s.unfinished u i) (s.now g.core)).noteReplays u i h.resumes
    | none => s
  | _, _ => s

/-- The splits that hold lanes of an instruction that a split has issued: those that run, or, of a split from before a
handler's entry, those it saved (R180, R401). -/
def Warp.splitsOf (w : Warp) (id : Nat) (lanes : Lanes) : List Split :=
  let l := match w.handler with
    | some h => if h.splits.any fun sp => sp.id == id then h.splits else w.splits
    | none => w.splits
  l.filter fun sp => (sp.lanes &&& lanes) != 0

/-- The splits that hold the live threads of a warp, one for each thread (R180): those that run, and of a handler's
saved ones those with lanes that the handler does not run. -/
def Warp.liveSplits (w : Warp) : List Split :=
  let running := w.splits.foldl (fun m sp => m ||| sp.lanes) 0
  w.splits ++ ((w.handler.map (·.splits)).getD []).filter fun sp => (sp.lanes &&& ~~~running) != 0

/-- The uncorrectable-ECC trap of an access that is not performed: the splits of its lanes replay (R67, R394). -/
def Warp.eccTrap (w : Warp) (id : Nat) (lanes : Lanes) (cause address time : Nat) : Trap :=
  let sps := w.splitsOf id lanes
  let first := (lowest lanes).bind fun l => (sps.find? fun sp => sp.lanes.getLsbD l).or sps.head?
  { kind := 20, cause := cause, detail := 0, lanes := lanes, pc := (first.map (·.pc)).getD 0,
    entry := (first.map (·.entry)).getD 0, counter := (first.map (·.counter)).getD 0, address := address, reg := 0,
    unit := 0, time := time, splits := sps.map fun sp => (sp.id, none) }

/-- Whether a trap concerns a split. -/
def Trap.concerns (t : Trap) (id : Nat) : Bool := t.splits.any fun r => r.1 == id

/-- The splits of a warp as a trap leaves those that it concerns (R163, R387). -/
def Trap.wakes (t : Trap) (l : List Split) : List Split := l.map fun sp => if t.concerns sp.id then sp.wake else sp

/-- Delivers a trap to a warp that handles none (R398 to R401): the record is written; the program
handler starts as one split of the affected live lanes, a region of its own, or firmware holds the warp
and posts the record. -/
def State.deliver (s : State) (u i : Nat) (t : Trap) : State :=
  match s.wgs.look u, s.warp? u i with
  | some g, some w =>
    let program := handlerTakes s g w t.kind
    let seq := w.trapSeq + 1
    let record := trapRecord t program seq
    let s := s.freeMonitors u i t.concerns
    let w := { w with trapSeq := seq, splits := t.wakes w.splits }
    let saved : Saved := { splits := w.splits, resumes := t.splits, record := recordWords record }
    let lanes := t.lanes &&& w.live
    let w' := if program then
        let w := { w with splits := [], handler := some saved }
        if lanes = 0 then w else w.addSplit lanes w.handlerAddr (s.now g.core)
      else { w with fw := some saved }
    let s := s.setWarp u i w'
    let s := if program && lanes = 0 then s.leaveHandler u i else s
    let s := s.varveWarp g w 0x12 (field 48 54 (t.pc / 8) + field 102 5 t.kind + field 107 8 t.cause +
      (if program then field 115 1 1 else 0) + field 116 7 ((lowest t.lanes).getD 0))
    let s := if 4 ≤ t.kind ∧ t.kind ≤ 6 then
        s.noteWaiting g w t.kind (w.splits.filter fun sp => t.concerns sp.id) else s
    if program then s else s.event g.ctx 2 (record + placeBits g.core w.sub w.slot * 2 ^ 512)
  | _, _ => s

/-- Whether a warp takes no further trap now: a handler runs or firmware holds it (R397). -/
def Warp.busyTrap (w : Warp) (t : Trap) : Bool :=
  w.fw.isSome || (w.handler.isSome && !(w.splits.any fun sp => t.concerns sp.id))

/-- The lanes of the splits that a trap concerns. -/
def Warp.trapLanes (w : Warp) (t : Trap) : Lanes :=
  w.splits.foldl (fun m sp => if t.concerns sp.id then m ||| sp.lanes else m) 0

/-- Whether a trap of a warp is held for now: the warp takes none, an earlier one waits, or atomics of the splits that it
concerns are in flight (R314, R397). -/
def Warp.waitsFor (w : Warp) (busy : Lanes) (t : Trap) : Bool :=
  w.busyTrap t || w.held.any (fun x => !w.busyTrap x) || (w.trapLanes t &&& busy) != 0

/-- Holds a trap behind those found before it; of the traps of one cycle the lower kind stands first (R397; log 60). -/
def Warp.hold (w : Warp) (cycle : Nat) (t : Trap) : Warp :=
  let before := w.held.takeWhile fun x => x.cycle != cycle || x.kind ≤ t.kind
  { w with held := before ++ { t with cycle := cycle } :: w.held.drop before.length }

/-- A trap that waits for an instruction boundary: delivered by TRAP_DELIVERY (R394, R397). -/
def State.holdTrap (s : State) (u i : Nat) (t : Trap) : State :=
  s.modWarp u i fun w => w.hold (((s.wgs.look u).map fun g => s.now g.core).getD 0) t

/-- A warp takes a trap: its open transactions abort (R170), then the trap is delivered, or held while
it waits. A trap of the handler split itself goes to
firmware at once. -/
def State.takeTrap (s : State) (u i : Nat) (t : Trap) : State :=
  match s.warp? u i with
  | none => s
  | some w =>
    let s := s.abortLanes u i w.txLanes 11 0
    if w.waitsFor (s.unfinished u i) t then s.holdTrap u i t else s.deliver u i t

/-- Firmware lets a held warp go on, as `eret` would (R399). -/
def Warp.firmwareResume (w : Warp) (busy : Lanes) (now : Nat) : Warp :=
  match w.fw with
  | some f => ({ w with fw := none }.restore { f with splits := w.splits }).resume f.resumes busy now
  | none => w

/-- The held trap that is delivered next: the first that the mode of the warp lets through (R397), once no atomic of its
splits is in flight (R314). -/
def Warp.nextHeld (w : Warp) (busy : Lanes) : Option Trap :=
  (w.held.find? fun t => !w.busyTrap t).filter fun t => (w.trapLanes t &&& busy) == 0

/-- Whether a trap of a split is held: the split issues nothing (R397). -/
def Warp.heldFor (w : Warp) (id : Nat) : Bool := w.held.any fun t => t.concerns id

/-! ### Uncorrectable errors (R67) -/

/-- The record and the log of an uncorrectable error (Table 22.2, type 0x21; R67): a register's or pool word's at the
core's die under its structure, a line's of HBM at its home die (log 43). An access to a peer that no live route reaches
damages no memory of the module and is not logged. -/
def State.noteEcc (s : State) (g : WorkGroup) (w : Warp) (at_ cause : Nat) (pool : Option Cell) : State :=
  let s := s.varveWarp g w 0x21 (field 48 52 at_ + field 100 3 cause)
  match pool with
  | some cell => s.logEcc (g.core / 64) cell at_
  | none => if isHbm at_ then s.logLine at_ else s

end Sys2Proof.Machine
end

