-- ==== Sys2Proof/Machine/Operands.lean ====
section
/-! DEFINITION. How each instruction uses its fields (Tables 9.4, 9.6, 9.7, 9.9 to 9.11), and the checks
of Table 9.13 that decoding makes before any effect (R241). -/

namespace Sys2Proof.Machine

/-- What the checks read besides the instruction: W, n_reg, the sampled records, the declared features,
whether the code is privileged, and whether the warp is in handler mode (R43, R380, R391, R455). -/
structure Env where
  width : Nat
  nReg : Nat
  slots : List Dword
  feat1 : Word
  priv : Bool
  handler : Bool
  deriving DecidableEq, Repr

/-- A register operand: field, registers named, alignment, and what it must be. -/
structure Opnd where
  f : BitVec 8
  n : Nat
  align : Nat
  needScalar : Bool
  needVector : Bool
  reads : Bool
  writes : Bool
  /-- empty-action bit (R185) -/
  ea : Bool
  /-- the wait for it is made by the instruction's own rule (R258, R268) -/
  late : Bool
  deriving DecidableEq, Repr

/-- How an instruction uses its word: a reserved bit or value, a kind error of a non-register field, its
registers, whether a guard is allowed, further causes of its own. -/
structure Use where
  reserved : Bool
  kind : Bool
  ops : List Opnd
  guarded : Bool
  order : Bool
  /-- registers that must all be scalar, else cause uniformity (R318, R390) -/
  uniform : Bool
  case_ : Bool
  privileged : Bool
  deriving DecidableEq, Repr

/-- A source of n registers, aligned to n. -/
def srcOp (f : BitVec 8) (n : Nat) (ea : Bool) : Opnd := ⟨f, n, n, false, false, true, false, ea, false⟩

def dstOp (f : BitVec 8) (n : Nat) : Opnd := ⟨f, n, n, false, false, false, true, false, false⟩

/-- A destination that is read as well. -/
def bothOp (f : BitVec 8) (n : Nat) (ea : Bool) : Opnd := ⟨f, n, n, false, false, true, true, ea, false⟩

def Opnd.scalar (o : Opnd) : Opnd := { o with needScalar := true }
def Opnd.vector (o : Opnd) : Opnd := { o with needVector := true }
def Opnd.lateWait (o : Opnd) : Opnd := { o with late := true }
def Opnd.unaligned (o : Opnd) : Opnd := { o with align := 1 }

/-- Bits [7:4] of a mask, slot, window or convergence field must be zero (R229). -/
def badField (f : BitVec 8) (bits : Nat) : Bool := 2 ^ bits ≤ f.toNat

/-- Registers of an integer type: pairs for i64 and n64 (R233). -/
def typeRegs (t : BitVec 4) : Nat := if t = 6 ∨ t = 7 then 2 else 1

/-- Registers of an element of a slot's record: a pair above 32 bits (R89). -/
def slotRegs (env : Env) (f : Nat) : Nat :=
  let r := env.slots.getD f 0
  if Rec.check r = 0 ∧ 32 < Rec.w r then 2 else 1

/-! ### Format R -/

/-- A field of a format R instruction. -/
inductive Role where
  /-- must be zero -/
  | zero
  | src (n : Nat)
  | dst (n : Nat)
  | both (n : Nat)
  | srcScalar (n : Nat)
  | dstScalar (n : Nat)
  /-- mask register -/
  | mask
  /-- mask register and a condition below the limit -/
  | maskCond (limit : Nat)
  /-- a source whose wait is the instruction's own -/
  | srcLate (n : Nat)
  | srcLateScalar (n : Nat)
  | bothLate (n : Nat)
  /-- a destination whose wait comes after such a source's (R186) -/
  | dstLate (n : Nat)
  /-- selector with its own check: reserved, kind -/
  | sel (bad kind : Bool)
  deriving DecidableEq, Repr

def Role.isSrc : Role → Bool
  | .src _ => true
  | .both _ => true
  | .srcScalar _ => true
  | .srcLate _ => true
  | .srcLateScalar _ => true
  | .bothLate _ => true
  | _ => false

def Role.opnd (r : Role) (f : BitVec 8) (ea : Bool) : List Opnd :=
  match r with
  | .src n => [srcOp f n ea]
  | .dst n => [dstOp f n]
  | .both n => [bothOp f n ea]
  | .srcScalar n => [(srcOp f n ea).scalar]
  | .dstScalar n => [(dstOp f n).scalar]
  | .srcLate n => [(srcOp f n ea).lateWait]
  | .srcLateScalar n => [(srcOp f n ea).scalar.lateWait]
  | .bothLate n => [(bothOp f n ea).lateWait]
  | .dstLate n => [(dstOp f n).lateWait]
  | _ => []

def Role.reservedIn (r : Role) (f : BitVec 8) : Bool :=
  match r with
  | .zero => f != 0
  | .maskCond limit => limit ≤ (f.extractLsb' 4 4).toNat
  | .sel bad _ => bad
  | _ => false

def Role.kindIn (r : Role) (f : BitVec 8) : Bool :=
  match r with
  | .mask => badField f 4
  | .sel _ kind => kind
  | _ => false

/-- Format R: roles of D, A, B and C; whether F is allowed; whether modifiers, and clamp and scale, apply
(R231); a guard allowed. -/
def useR (f : FmtR) (d a b c : Role) (okF mods fin guarded : Bool) (unsignedType : Bool := false) : Use :=
  let m (i : Nat) : Bool := f.mod.getLsbD i
  { reserved := d.reservedIn f.d || a.reservedIn f.a || b.reservedIn f.b || c.reservedIn f.c || !okF ||
      ((m 0 || m 1) && !(mods && a.isSrc)) || ((m 2 || m 3) && !(mods && b.isSrc)) ||
      ((m 4 || m 5) && !(mods && c.isSrc)) ||
      (unsignedType && (m 1 || m 3 || m 5)) ||
      (f.ea.getLsbD 0 && !a.isSrc) || (f.ea.getLsbD 1 && !b.isSrc) || (f.ea.getLsbD 2 && !c.isSrc) ||
      (!fin && (f.clamp != 0 || f.sc != 0))
    kind := d.kindIn f.d || a.kindIn f.a || b.kindIn f.b || c.kindIn f.c
    ops := d.opnd f.d false ++ a.opnd f.a (f.ea.getLsbD 0) ++ b.opnd f.b (f.ea.getLsbD 1) ++
      c.opnd f.c (f.ea.getLsbD 2)
    guarded := guarded, order := false, uniform := false, case_ := false, privileged := false }

def typeBelow (f : FmtR) (n : Nat) : Bool := f.f.toNat < n

def isUnsignedType (t : BitVec 4) : Bool := t.toNat % 2 = 1

/-- Integer arithmetic with `k` sources (Table 10.1). -/
def useInt (f : FmtR) (sources : Nat) (mods : Bool) : Use :=
  let n := typeRegs f.f
  useR f (.dst n) (.src n) (if 2 ≤ sources then .src n else .zero) (if sources = 3 then .src n else .zero)
    (typeBelow f 8) mods false true (mods && isUnsignedType f.f)

/-- Bit operations (Table 10.3). -/
def useBit (f : FmtR) (sources : Nat) : Use :=
  let n := typeRegs f.f
  useR f (.dst n) (.src n) (if 2 ≤ sources then .src n else .zero) .zero (typeBelow f 9) false false true

/-- `bfx`, `bfi`: types 4 to 8 (R255). -/
def useField (f : FmtR) (insert : Bool) : Use :=
  let n := typeRegs f.f
  useR f (if insert then .both n else .dst n) (.src n) (.src n) (.src n)
    (typeBelow f 9 && 4 ≤ f.f.toNat) false false true

def useLea (f : FmtR) : Use :=
  useR f (.dst 2) (.src 2) (.src (typeRegs f.f)) .zero (typeBelow f 9) false false true

def useCmp (f : FmtR) : Use :=
  let n := typeRegs f.f
  useR f (.maskCond 6) (.src n) (.src n) .zero (typeBelow f 8 && 4 ≤ f.f.toNat) false false true

/-- Floating arithmetic with `k` sources, clamp and scale (Tables 11.1, 11.3). -/
def useFloat (env : Env) (f : FmtR) (sources : Nat) : Use :=
  let n := slotRegs env f.f.toNat
  useR f (.dst n) (.src n) (if 2 ≤ sources then .src n else .zero) (if sources = 3 then .src n else .zero)
    true true true true

/-- Mask operations (Table 10.7). -/
def useMask (f : FmtR) (d a b : Role) : Use := useR f d a b .zero (f.f == 0) false false true

/-- Exchanges (Table 10.8): A is read in other lanes, with a wait of its own (R268). -/
def useExchange (f : FmtR) (d a c : Role) : Use := useR f d a (.src 1) c (f.f == 0) false false true

/-- `wred` and `wscan` (R270): the operation in C[3:0], exclusive in C[4]. -/
def useReduce (env : Env) (f : FmtR) (scan : Bool) : Use :=
  let op := (f.c.extractLsb' 0 4).toNat
  let n := if 6 ≤ op then slotRegs env f.f.toNat else typeRegs f.f
  useR f (.dst n) (.src n) .zero
    (.sel (9 ≤ op || f.c.extractLsb' 5 3 != 0 || (!scan && f.c.getLsbD 4)) false)
    (6 ≤ op || typeBelow f 9) false false true

/-! ### Format I -/

/-- X = 1 leaves imm24 zero, and every opcode but `movw` the upper half of its word (R234). -/
def badImm (f : FmtI) (wide : Bool) : Bool :=
  match f.ext with
  | none => false
  | some e => f.imm != 0 || (!wide && e.extractLsb' 32 32 != 0)

/-- Format I: roles of D and A, F allowed, floating modifiers allowed. -/
def useI (f : FmtI) (d a : Role) (okF float wide : Bool) : Use :=
  { reserved := d.reservedIn f.d || a.reservedIn f.a || !okF || badImm f wide || (f.ea && !a.isSrc) ||
      (!float && (f.neg || f.abs || f.clamp != 0))
    kind := d.kindIn f.d || a.kindIn f.a
    ops := d.opnd f.d false ++ a.opnd f.a f.ea
    guarded := true, order := false, uniform := false, case_ := false, privileged := false }

def useImm (f : FmtI) (limit : Nat) : Use :=
  let n := typeRegs f.f
  useI f (.dst n) (.src n) (f.f.toNat < limit) false false

/-! ### Format M -/

/-- Registers a size moves, aligned (R301). -/
def sizeRegs (size : BitVec 4) : Nat := if size = 5 then 2 else if size = 6 then 4 else 1

/-- The offset word holds 32 bits (R235). -/
def badOffset (f : FmtM) : Bool :=
  match f.ext with
  | none => false
  | some e => e.extractLsb' 32 32 != 0

/-- Base and index of format M: a pair base in global space. -/
def addrOps (f : FmtM) : List Opnd :=
  srcOp f.base (if f.space = 0 then 2 else 1) f.ea ::
    if f.indexEnable then [srcOp f.index 1 f.ea] else []

/-- The bits every format M instruction with an address checks: space, index fields, scale, offset. -/
def badAddr (f : FmtM) (packed : Bool) : Bool :=
  3 ≤ f.space.toNat || (!f.indexEnable && (f.index != 0 || f.scale != 0)) || badOffset f ||
    (f.scale == 3 && !packed)

/-- R121: the orders allowed, and no scope with a plain or invariant order. -/
def badOrder (f : FmtM) (allowed : List Nat) : Bool :=
  !allowed.contains f.order.toNat || (f.scope != 0 && (f.order == 0 || f.order == 4))

def useM (f : FmtM) (bad : Bool) (orders : List Nat) (ops : List Opnd) : Use :=
  { reserved := bad, kind := false, ops := ops, guarded := true, order := badOrder f orders,
    uniform := false, case_ := false, privileged := false }

/-- `ld` and `st` (R301). -/
def useLdSt (f : FmtM) (load : Bool) : Use :=
  let n := sizeRegs f.size
  useM f (badAddr f false || 7 ≤ f.size.toNat || f.f != 0 || f.count != 0)
    (if load then [0, 1, 4] else [0, 2])
    ((if load then dstOp f.data n else srcOp f.data n f.ea) :: addrOps f)

/-- `ldf` and `stf` (R303): count + 1 registers, or pairs of a record above 32 bits. -/
def usePacked (env : Env) (f : FmtM) (load : Bool) : Use :=
  let k := slotRegs env f.f.toNat
  let n := k * (f.count.toNat + 1)
  let o := if load then dstOp f.data n else srcOp f.data n f.ea
  useM f (badAddr f true || f.size != 7) (if load then [0, 1, 4] else [0, 2])
    ({ o with align := k } :: addrOps f)

/-- `pref` and `ipref` (R305): global only. -/
def usePref (f : FmtM) (code : Bool) : Use :=
  useM f (badAddr f false || f.space != 0 || f.size != 4 || f.f != 0 || f.count != 0 || f.data != 0 ||
    (code && f.hint != 0)) [0] (addrOps f)

/-- `fence` (R306): every field but order and scope is zero. -/
def useFence (f : FmtM) : Use :=
  useM f (f.data != 0 || f.base != 0 || f.index != 0 || f.indexEnable || f.scale != 0 || f.space != 0 ||
    f.size != 0 || f.f != 0 || f.hint != 0 || f.ea || f.count != 0 || f.ext.isSome) [1, 2, 3] []

/-- `amxadv` and `sclget` (R313). -/
def useScale (f : FmtM) (advance : Bool) : Use :=
  useM f (badAddr f false || f.hint != 0 || f.space != 0 || f.size != 4 || f.f != 0 || f.count != 0 ||
    (advance && f.data != 0)) [0] ((if advance then [] else [dstOp f.data 1]) ++ addrOps f)

namespace Oper

/-! The operand word (Table 9.8). -/

def op1 (f : FmtMO) : BitVec 8 := f.operand.extractLsb' 0 8
def op2 (f : FmtMO) : BitVec 8 := f.operand.extractLsb' 8 8
def operation (f : FmtMO) : Nat := (f.operand.extractLsb' 16 5).toNat
def float (f : FmtMO) : Bool := f.operand.getLsbD 21
def counts (f : FmtMO) : Bool := f.operand.getLsbD 22
def tag (f : FmtMO) : Nat := (f.operand.extractLsb' 23 2).toNat

end Oper

/-- `atom`, `red` and `cas` (R307 to R309). -/
def useAtom (f : FmtMO) (returns cas : Bool) : Use :=
  let m := f.m
  let n := if Oper.float f then 1 else typeRegs m.f
  let op := Oper.operation f
  let badType := if Oper.float f then m.size != 4 || 3 ≤ op
    else if cas then m.f.toNat < 4 || 8 < m.f.toNat || m.size.toNat != 3 + n
    else m.f.toNat < 4 || 8 < m.f.toNat || m.size.toNat != 3 + n || (op ≤ 2 && m.f == 8) ||
      (if returns then 7 ≤ op else 6 ≤ op)
  useM m (badAddr m false || m.hint != 0 || m.count != 0 || badType || f.operand.extractLsb' 22 42 != 0 ||
      (cas && (op != 0 || Oper.float f)) || (!cas && Oper.op2 f != 0) || (!returns && m.data != 0))
    (if returns then [0, 1, 2, 3] else [0, 2])
    ((if returns then [dstOp m.data n] else []) ++ addrOps m ++ [srcOp (Oper.op1 f) n m.ea] ++
      (if cas then [srcOp (Oper.op2 f) n m.ea] else []))

/-- `cpa` (R315). -/
def useCpa (f : FmtMO) : Use :=
  let m := f.m
  useM m (badAddr m false || m.space != 0 || m.size != 0 || m.f != 0 || m.count != 0 ||
      f.operand.extractLsb' 25 39 != 0 || Oper.operation f != 0 || Oper.float f ||
      (!Oper.counts f && Oper.op2 f != 0))
    [0]
    ([srcOp m.data 1 m.ea] ++ addrOps m ++ [srcOp (Oper.op1 f) 1 m.ea] ++
      (if Oper.counts f then [srcOp (Oper.op2 f) 1 m.ea] else []))

/-! ### Format C -/

/-- Format C: which of its fields may be nonzero. -/
def useC (f : FmtC) (offset mask site : Bool) (low : Nat) (guarded : Bool) (ops : List Opnd := []) : Use :=
  { reserved := (!offset && f.offset != 0) || (!mask && f.mask != 0) || (!site && f.site != 0) ||
      2 ^ low ≤ f.low.toNat
    kind := false, ops := ops, guarded := guarded, order := false, uniform := false, case_ := false,
    privileged := false }

/-- The register of [7:0]. -/
def lowReg (f : FmtC) : BitVec 8 := f.low.extractLsb' 0 8

/-- `switch` (R237, R260): the case count, and the unused half of an odd last word. -/
def useSwitch (f : FmtCS) : Use :=
  let n := f.c.site.toNat
  let u := useC f.c true false true 8 true [srcOp (lowReg f.c) 1 false]
  { u with reserved := u.reserved ||
             (n % 2 == 1 && n ≤ 8 && (f.cases.getD (n / 2) 0).extractLsb' 32 32 != 0)
           case_ := n == 0 || 8 < n }

/-- `cpwait` (R317): Site [11:10] tag, [12] oldest, [13] zero. -/
def useCpwait (f : FmtC) : Use :=
  let u := useC f false false true 10 true
  { u with reserved := u.reserved || f.site.getLsbD 3 || (f.site.getLsbD 2 && f.low != 0) }

/-! ### Format X (Table 9.10) -/

/-- Format X: which fields may be nonzero; bad per-opcode bits; registers. -/
def useX (f : FmtX) (z base bank slot planes k acc bad guarded : Bool) (ops : List Opnd) : Use :=
  { reserved := (!z && f.z != 0) || (!base && f.base != 0) || (!bank && f.bank != 0) ||
      (!slot && f.f != 0) || (!planes && f.planes != 0) || (!k && (f.k != 0 || f.useK)) ||
      (!f.useK && f.k != 0) || (if acc then f.acc == 3 else f.acc != 0) || bad
    kind := false
    ops := (if base then [(srcOp f.base 1 false).scalar] else []) ++ ops
    guarded := guarded, order := false, uniform := false, case_ := false, privileged := false }

def xReg (f : FmtX) (lo : Nat) : BitVec 8 := f.low.extractLsb' lo 8

/-! ### Format S (Table 9.11) -/

/-- Format S: D, A, B, C by role, bits of the selector, of the option; a guard allowed. -/
def useS (f : FmtS) (d a b c : Role) (sel opt : Nat) (guarded : Bool) : Use :=
  { reserved := d.reservedIn f.d || a.reservedIn f.a || b.reservedIn f.b || c.reservedIn f.c ||
      2 ^ sel ≤ f.sel.toNat || 2 ^ opt ≤ f.o.toNat
    kind := false
    ops := d.opnd f.d false ++ a.opnd f.a false ++ b.opnd f.b false ++ c.opnd f.c false
    guarded := guarded, order := false, uniform := false, case_ := false, privileged := false }

/-- Selectors that `sread` reads (Table 18.1). -/
def readable (sel : Nat) : Bool :=
  sel ≤ 0x1E || (0x100 ≤ sel && sel ≤ 0x107) || (0x200 ≤ sel && sel ≤ 0x207) ||
    (0x300 ≤ sel && sel ≤ 0x302) || sel == 0x380 || sel == 0x381

/-- Selectors that `swrite` writes. -/
def writable (sel : Nat) : Bool := (0x300 ≤ sel && sel ≤ 0x302) || sel == 0x380 || sel == 0x381

def privilegedSel (sel : Nat) : Bool := sel == 0x380 || sel == 0x381

def Use.alsoReserved (u : Use) (b : Bool) : Use := { u with reserved := u.reserved || b }
def Use.alsoKind (u : Use) (b : Bool) : Use := { u with kind := u.kind || b }
def Use.needsPriv (u : Use) (b : Bool) : Use := { u with privileged := b }
/-- Above 32 bits every register field of a floating instruction names a pair (R274). -/
def Use.paired (u : Use) (n : Nat) : Use := { u with ops := u.ops.map fun o => { o with align := max o.align n } }
def Use.scalarOnly (u : Use) : Use := { u with uniform := true }

/-- Registers of a warp's lane mask (`mtos`, `stom`). -/
def maskRegs (env : Env) : Nat := env.width / 32

end Sys2Proof.Machine
end

