-- ==== Sys2Proof/Machine/Legal.lean ====
section
/-! DEFINITION. The legality of an instruction (R241, Table 9.13), and its sources and destinations. -/

namespace Sys2Proof.Machine

/-- `mst` (Table 9.10): [8:2] needs scale 1 or 2, [18:11] needs amax or scale 3. -/
def badMst (f : FmtX) : Bool :=
  let scale := f.low.extractLsb' 9 2
  f.sparse || ((scale == 0 || scale == 3) && f.low.extractLsb' 2 7 != 0) ||
    (!f.low.getLsbD 1 && scale != 3 && xReg f 11 != 0)

/-- `trec` and `tget` (R368, R371): O + 1 consecutive registers, of scalars those there are. -/
def useTapeRun (f : FmtS) (get : Bool) : Use :=
  let n (r : BitVec 8) : Nat := if isScalar r then min (f.o.toNat + 1) (256 - r.toNat) else f.o.toNat + 1
  let u := if get then useS f (.dst 1) .zero .zero .zero 4 2 true
    else useS f .zero (.src 1) .zero .zero 4 2 true
  { u with ops := if get then [(dstOp f.d (f.o.toNat + 1)).unaligned.vector]
                  else [(srcOp f.a (n f.a) false).unaligned] }

/-- How each instruction uses its word; none for the other steps of the device. -/
def useOf (env : Env) : Instr → Option Use
  | .nop f => some (useC f false false false 0 true)
  | .bra f => some (useC f true false false 0 true)
  | .brx f => some (useC f true false false 8 true [srcOp (lowReg f) 1 false])
  | .call f => some (useC f true false false 8 true [(dstOp (lowReg f) 2).vector])
  | .ret f => some (useC f false false false 8 true [(srcOp (lowReg f) 2 false).vector])
  | .switch f => some (useSwitch f)
  | .rset f => some (useC f false true false 0 false)
  | .rwait f => some (useC f false true false 0 false)
  | .rleave f => some (useC f false true false 0 false)
  | .yield f => some (useC f false false false 0 true)
  | .exit f => some (useC f false false false 4 true)
  | .region f => some (useC f false false false 0 false)
  | .launch f => some (useS f (.dst 1) (.src 2) .zero .zero 6 0 true)
  | .trap f => some (useC f false false false 10 true)
  | .bkpt f => some (useC f false false false 10 true)
  | .iadd f => some (useInt f 2 true)
  | .isub f => some (useInt f 2 true)
  | .imul f => some (useInt f 2 true)
  | .imulh f => some (useInt f 2 true)
  | .imad f => some (useInt f 3 true)
  | .idiv f => some (useInt f 2 true)
  | .irem f => some (useInt f 2 true)
  | .imin f => some (useInt f 2 true)
  | .imax f => some (useInt f 2 true)
  | .iabs f => some ((useInt f 1 true).alsoReserved (isUnsignedType f.f))
  | .ineg f => some (useInt f 1 true)
  | .isat f => some (useInt f 1 false)
  | .iadds f => some (useInt f 2 false)
  | .isubs f => some (useInt f 2 false)
  | .icmp f => some (useCmp f)
  | .qadd f => some (useR f (.dst 4) (.src 4) (.src 4) .zero (f.f == 0) false false true)
  | .and f => some (useBit f 2)
  | .or f => some (useBit f 2)
  | .xor f => some (useBit f 2)
  | .andn f => some (useBit f 2)
  | .not f => some (useBit f 1)
  | .shl f => some (useBit f 2)
  | .shr f => some (useBit f 2)
  | .sar f => some (useBit f 2)
  | .rol f => some (useBit f 2)
  | .bfx f => some (useField f false)
  | .bfi f => some (useField f true)
  | .popc f => some (useBit f 1)
  | .clz f => some (useBit f 1)
  | .ctz f => some (useBit f 1)
  | .brev f => some (useBit f 1)
  | .lea f => some (useLea f)
  | .iaddi f => some (useImm f 8)
  | .imuli f => some (useImm f 8)
  | .andi f => some (useImm f 9)
  | .ori f => some (useImm f 9)
  | .xori f => some (useImm f 9)
  | .shli f => some (useImm f 9)
  | .shri f => some (useImm f 9)
  | .sari f => some (useImm f 9)
  | .icmpi f => some (useI f (.maskCond 6) (.src (typeRegs f.f)) (4 ≤ f.f.toNat && f.f.toNat < 8) false false)
  | .imadi f => some (useI f (.both (typeRegs f.f)) (.src (typeRegs f.f)) (f.f.toNat < 8) false false)
  | .movi f => some (useI f (.dst 1) .zero (f.f == 0) false false)
  | .movw f => some (useI f (.dst 2) .zero (f.f == 0) false true)
  | .mov f => some (useBit f 1)
  | .sel f => some (useR f (.dst 1) (.src 1) (.src 1) (.sel false (badField f.c 4)) (f.f == 0) false false true)
  | .movs f => some (useR f (.dstLate 1) (.srcLateScalar 1) (.src 1) .zero (f.f == 0) false false true)
  | .prmt f => some (useR f (.dst 1) (.src 1) (.src 1) (.src 1) (f.f == 8) false false true)
  | .fadd f => some (useFloat env f 2)
  | .fsub f => some (useFloat env f 2)
  | .fmul f => some (useFloat env f 2)
  | .ffma f => some (useFloat env f 3)
  | .fmin f => some (useFloat env f 2)
  | .fmax f => some (useFloat env f 2)
  | .fminn f => some (useFloat env f 2)
  | .fmaxn f => some (useFloat env f 2)
  | .fcmp f => some (useR f (.maskCond 8) (.src (slotRegs env f.f.toNat)) (.src (slotRegs env f.f.toNat)) .zero true true false true)
  | .fclass f => some ((useR f (.dst 1) (.src (slotRegs env f.f.toNat)) .zero .zero true true false true).paired (slotRegs env f.f.toNat))
  | .fdiv f => some (useFloat env f 2)
  | .fsqrt f => some (useFloat env f 1)
  | .frcp f => some (useFloat env f 1)
  | .frsq f => some (useFloat env f 1)
  | .fexp2 f => some (useFloat env f 1)
  | .flog2 f => some (useFloat env f 1)
  | .fsin f => some (useFloat env f 1)
  | .fcos f => some (useFloat env f 1)
  | .ftanh f => some (useFloat env f 1)
  | .frnd f => some (useFloat env f 1)
  | .fscale f => some (useFloat env f 2)
  | .fcvt f => some (useR f (.dst (slotRegs env f.f.toNat)) (.src (slotRegs env (f.c.toNat % 16))) .zero (.sel false (badField f.c 4)) true true false true)
  | .ftoi f => some (useR f (.dst (typeRegs (f.c.extractLsb' 0 4))) (.src (slotRegs env f.f.toNat)) .zero (.sel (8 ≤ f.c.toNat) false) true true false true)
  | .itof f => some (useR f (.dst (slotRegs env f.f.toNat)) (.src (typeRegs (f.c.extractLsb' 0 4))) .zero (.sel (8 ≤ f.c.toNat) false) true true false true)
  | .faddi f => some (useI f (.dst (slotRegs env f.f.toNat)) (.src (slotRegs env f.f.toNat)) true true false)
  | .fmuli f => some (useI f (.dst (slotRegs env f.f.toNat)) (.src (slotRegs env f.f.toNat)) true true false)
  | .ffmai f => some (useI f (.both (slotRegs env f.f.toNat)) (.src (slotRegs env f.f.toNat)) true true false)
  | .exte f => some ((useR f (.dst (slotRegs env f.f.toNat)) (.src (slotRegs env f.f.toNat)) (.src 1) .zero true false false true).paired (slotRegs env f.f.toNat))
  | .inse f => some ((useR f (.both (slotRegs env f.f.toNat)) (.src (slotRegs env f.f.toNat)) (.src 1) .zero true false false true).paired (slotRegs env f.f.toNat))
  | .srseed f => some (useR f .zero (.srcScalar 4) .zero .zero (f.f == 0) false false false)
  | .fmtset f => some (useR f .zero (.srcScalar 2) .zero .zero true false false false)
  | .fmtget f => some (useR f (.dstScalar 2) .zero .zero .zero true false false true)
  | .fmtchk f => some (useR f (.dst 1) (.src 2) .zero .zero (f.f == 0) false false true)
  | .rand f => some (useR f (.dst 4) (.src 4) (.src 4) .zero (f.f == 0) false false true)
  | .wrng f => some (useR f (.dst 1) .zero .zero .zero (f.f == 0) false false true)
  | .mand f => some (useMask f .mask .mask .mask)
  | .mor f => some (useMask f .mask .mask .mask)
  | .mxor f => some (useMask f .mask .mask .mask)
  | .mnot f => some (useMask f .mask .mask .zero)
  | .mpopc f => some (useMask f (.dst 1) .mask .zero)
  | .mfirst f => some (useMask f (.dst 1) .mask .zero)
  | .ballot f => some (useMask f .mask (.src 1) .zero)
  | .mtos f => some (useMask f (.dst (maskRegs env)) .mask .zero)
  | .stom f => some (useMask f .mask (.srcScalar (maskRegs env)) .zero)
  | .vote f => some (useR f .mask (.src 1) .zero (.sel (3 ≤ f.c.toNat) false) (f.f == 0) false false true)
  | .shfl f => some (useExchange f (.dstLate 1) (.srcLate 1) .zero)
  | .shflb f => some (useExchange f (.dstLate 1) (.srcLate 1) (.src 1))
  | .bfly f => some (useExchange f (.bothLate 1) (.bothLate 1) .zero)
  | .qswp f => some (useExchange f (.dstLate 1) (.srcLate 1) .zero)
  | .qbcst f => some (useExchange f (.dstLate 1) (.srcLate 1) .zero)
  | .wred f => some (useReduce env f false)
  | .wscan f => some (useReduce env f true)
  | .ld f => some (useLdSt f true)
  | .st f => some (useLdSt f false)
  | .ldf f => some (usePacked env f true)
  | .stf f => some (usePacked env f false)
  | .pref f => some (usePref f false)
  | .ipref f => some (usePref f true)
  | .fence f => some (useFence f)
  | .atom f => some (useAtom f true false)
  | .red f => some (useAtom f false false)
  | .cas f => some (useAtom f true true)
  | .txb f => some (useC f true false false 0 true)
  | .txe f => some (useC f false false false 0 true)
  | .txa f => some (useC f false false false 8 true)
  | .txst f => some (useR f (.dst 1) .zero .zero .zero (f.f == 0) false false true)
  | .amxadv f => some (useScale f true)
  | .sclget f => some (useScale f false)
  | .cpa f => some (useCpa f)
  | .cpwait f => some (useCpwait f)
  | .cpcnt f => some (useS f (.dst 1) .zero .zero .zero 2 0 true)
  | .kick f => some ((useS f (.dst 1) (.src 1) (.src 1) (.src 1) 0 1 true).scalarOnly)
  | .binit f => some (useR f .zero (.src 1) (.src 1) .zero (f.f == 0) false false true)
  | .barr f => some (useR f (.dst 1) (.src 1) (.src 1) (.src 1) (f.f == 0) false false true)
  | .bwait f => some (useR f .zero (.src 1) (.src 1) .zero (f.f == 0) false false true)
  | .btest f => some (useR f (.dst 1) (.src 1) (.src 1) .zero (f.f == 0) false false true)
  | .bar f => some (useC f false false false 0 false)
  | .gsync f => some (useC f false false false 0 false)
  | .monw f => some (useR f (.dst 2) (.srcScalar 2) (.srcScalar 1) (.srcScalar 1) (f.f == 0) false false true)
  | .monx f => some (useR f (.dst 1) (.srcScalar 2) (.srcScalar 1) .zero (f.f == 0) false false true)
  | .mldb f => some (useX f false true true true true true false (f.low.extractLsb' 0 11 != 0) true [(srcOp (xReg f 11) 1 false).scalar])
  | .mldbs f => some (useX f false true true true true true false (f.low.extractLsb' 0 11 != 0) true [(srcOp (xReg f 11) 1 false).scalar])
  | .mldt f => some (useX f false false true true false true false (f.sparse || f.low.extractLsb' 0 8 != 0) true [(srcOp (xReg f 8) 1 false).scalar])
  | .mma f => some (useX f true true true true true true true (f.sparse || f.low.extractLsb' 0 17 != 0) true [])
  | .mmas f => some (useX f true true true true true true true (!f.sparse || f.low.extractLsb' 0 14 != 0 || f.low.extractLsb' 14 3 == 7) true [])
  | .msig f => some (useX f false false true false false true false (f.sparse || f.low != 0) true [])
  | .mkset f => some (useX f false false false false false true false (f.sparse || !f.useK || f.low.extractLsb' 0 7 != 0) false [])
  | .mzero f => some (useX f true false false false false true false (f.sparse || f.low != 0) true [])
  | .mst f => some (useX f true true false true false true false (badMst f) true (if f.low.getLsbD 1 || f.low.extractLsb' 9 2 == 3 then [(srcOp (xReg f 11) 2 false).scalar] else []))
  | .mrd f => some (useX f true false false false false false false (f.sparse || f.low.extractLsb' 0 3 != 0) true [dstOp (xReg f 11) 1, srcOp (xReg f 3) 1 false])
  | .mwr f => some (useX f true false false false false false false (f.sparse || f.low.extractLsb' 0 3 != 0) true [srcOp (xReg f 11) 1 false, srcOp (xReg f 3) 1 false])
  | .mscl f => some (useX f false true false false false true false (f.sparse || f.low.extractLsb' 0 10 != 0) true [])
  | .mwait f => some (useX f false false false false false false false (f.sparse || f.low.extractLsb' 0 10 != 0 || (f.low.getLsbD 10 && xReg f 11 != 0)) true (if f.low.getLsbD 10 then [] else [(srcOp (xReg f 11) 1 false).scalar]))
  | .mstat f => some (useX f false false false false false false false (f.sparse || f.low.extractLsb' 0 7 != 0 || 4 ≤ (f.low.extractLsb' 7 4).toNat) true [dstOp (xReg f 11) 1])
  | .wset f => some (useS f .zero (.srcScalar 4) .zero .zero 3 0 true)
  | .wget f => some (useS f (.dst 1) .zero .zero .zero 5 0 true)
  | .trdec f => some ((useR f (.dst (slotRegs env f.f.toNat)) (.src 1) .zero (.sel false (badField f.c 3)) true false false true))
  | .trdecn f => some (useS f .zero (.srcScalar 1) (.srcScalar 1) (.srcScalar 1) 7 0 true)
  | .trenc f => some (useS f .zero (.srcScalar 2) (.srcScalar 1) (.srcScalar 1) 3 0 true)
  | .trwait f => some (useC f false false false 0 true)
  | .topen f => some (useS f .zero (.srcScalar 2) (.srcScalar 2) (.srcScalar 1) 0 1 true)
  | .trec f => some (useTapeRun f false)
  | .tbr f => some (useS f .zero (.src 1) .zero .zero 4 1 true)
  | .tmark f => some (useS f .zero (.srcScalar 1) .zero .zero 4 0 true)
  | .tclose f => some (useS f .zero .zero .zero .zero 0 0 true)
  | .trev f => some (useS f .zero .zero .zero .zero 0 0 true)
  | .tget f => some (useTapeRun f true)
  | .tbrp f => some (useS f (.dst 1) .zero .zero .zero 4 1 true)
  | .tstat f => some (useS f (.dst 1) .zero .zero .zero 3 0 true)
  | .tgrant f => some (useS f .zero (.srcScalar 2) (.srcScalar 1) .zero 0 0 true)
  | .sread f => some (((useS f (.dst 1) .zero .zero .zero 16 0 true).alsoReserved (!readable f.sel.toNat)).needsPriv (privilegedSel f.sel.toNat))
  | .swrite f => some (((useS f .zero (.src 1) .zero .zero 16 0 true).alsoReserved (!writable f.sel.toNat)).needsPriv (privilegedSel f.sel.toNat))
  | .evmark f => some (useS f .zero (.src 1) .zero .zero 16 0 true)
  | .sleep f => some (useS f .zero (.src 1) .zero .zero 0 0 false)
  | .caprd f => some (((useS f (.dst 1) (.src 2) (.src 1) (.src 1) 0 0 true).scalarOnly).needsPriv true)
  | .eret f => some ((useS f .zero .zero .zero .zero 0 0 false).alsoReserved (!env.handler))
  | .trapr f => some ((useS f (.dst 1) .zero .zero .zero 4 0 false))
  | .energy f => some (useS f .zero .zero .zero .zero 3 0 true)
  | .perfsel f => some (useS f .zero (.src 1) .zero .zero 3 0 true)
  | .perfrd f => some (useS f (.dst 2) .zero .zero .zero 3 0 true)
  | _ => none

/-- The feature bit of an instruction that is declared feature by feature (Table 18.2). -/
def featureOf : Instr → Option Nat
  | .mmas _ => some 0
  | .mldb f => if f.sparse then some 0 else none
  | .mldbs f => if f.sparse then some 0 else none
  | .mldt _ => some 1
  | .wset _ => some 1
  | .wget _ => some 1
  | .trdec _ => some 1
  | .trdecn _ => some 1
  | .trenc _ => some 1
  | .trwait _ => some 1
  | .topen _ => some 2
  | .trec _ => some 2
  | .tbr _ => some 2
  | .tmark _ => some 2
  | .tclose _ => some 2
  | .trev _ => some 2
  | .tget _ => some 2
  | .tbrp _ => some 2
  | .tstat _ => some 2
  | .tgrant _ => some 2
  | .txb _ => some 3
  | .txe _ => some 3
  | .txa _ => some 3
  | .txst _ => some 3
  | _ => none

/-- The guard of an instruction word. -/
def guardOf : Instr → Guard
  | .nop f => f.guard
  | .bra f => f.guard
  | .brx f => f.guard
  | .call f => f.guard
  | .ret f => f.guard
  | .switch f => f.c.guard
  | .rset f => f.guard
  | .rwait f => f.guard
  | .rleave f => f.guard
  | .yield f => f.guard
  | .exit f => f.guard
  | .region f => f.guard
  | .launch f => f.guard
  | .trap f => f.guard
  | .bkpt f => f.guard
  | .iadd f => f.guard
  | .isub f => f.guard
  | .imul f => f.guard
  | .imulh f => f.guard
  | .imad f => f.guard
  | .idiv f => f.guard
  | .irem f => f.guard
  | .imin f => f.guard
  | .imax f => f.guard
  | .iabs f => f.guard
  | .ineg f => f.guard
  | .isat f => f.guard
  | .iadds f => f.guard
  | .isubs f => f.guard
  | .icmp f => f.guard
  | .qadd f => f.guard
  | .and f => f.guard
  | .or f => f.guard
  | .xor f => f.guard
  | .andn f => f.guard
  | .not f => f.guard
  | .shl f => f.guard
  | .shr f => f.guard
  | .sar f => f.guard
  | .rol f => f.guard
  | .bfx f => f.guard
  | .bfi f => f.guard
  | .popc f => f.guard
  | .clz f => f.guard
  | .ctz f => f.guard
  | .brev f => f.guard
  | .lea f => f.guard
  | .iaddi f => f.guard
  | .imuli f => f.guard
  | .andi f => f.guard
  | .ori f => f.guard
  | .xori f => f.guard
  | .shli f => f.guard
  | .shri f => f.guard
  | .sari f => f.guard
  | .icmpi f => f.guard
  | .imadi f => f.guard
  | .movi f => f.guard
  | .movw f => f.guard
  | .mov f => f.guard
  | .sel f => f.guard
  | .movs f => f.guard
  | .prmt f => f.guard
  | .fadd f => f.guard
  | .fsub f => f.guard
  | .fmul f => f.guard
  | .ffma f => f.guard
  | .fmin f => f.guard
  | .fmax f => f.guard
  | .fminn f => f.guard
  | .fmaxn f => f.guard
  | .fcmp f => f.guard
  | .fclass f => f.guard
  | .fdiv f => f.guard
  | .fsqrt f => f.guard
  | .frcp f => f.guard
  | .frsq f => f.guard
  | .fexp2 f => f.guard
  | .flog2 f => f.guard
  | .fsin f => f.guard
  | .fcos f => f.guard
  | .ftanh f => f.guard
  | .frnd f => f.guard
  | .fscale f => f.guard
  | .fcvt f => f.guard
  | .ftoi f => f.guard
  | .itof f => f.guard
  | .faddi f => f.guard
  | .fmuli f => f.guard
  | .ffmai f => f.guard
  | .exte f => f.guard
  | .inse f => f.guard
  | .srseed f => f.guard
  | .fmtset f => f.guard
  | .fmtget f => f.guard
  | .fmtchk f => f.guard
  | .rand f => f.guard
  | .wrng f => f.guard
  | .mand f => f.guard
  | .mor f => f.guard
  | .mxor f => f.guard
  | .mnot f => f.guard
  | .mpopc f => f.guard
  | .mfirst f => f.guard
  | .ballot f => f.guard
  | .mtos f => f.guard
  | .stom f => f.guard
  | .vote f => f.guard
  | .shfl f => f.guard
  | .shflb f => f.guard
  | .bfly f => f.guard
  | .qswp f => f.guard
  | .qbcst f => f.guard
  | .wred f => f.guard
  | .wscan f => f.guard
  | .ld f => f.guard
  | .st f => f.guard
  | .ldf f => f.guard
  | .stf f => f.guard
  | .pref f => f.guard
  | .ipref f => f.guard
  | .fence f => f.guard
  | .atom f => f.m.guard
  | .red f => f.m.guard
  | .cas f => f.m.guard
  | .txb f => f.guard
  | .txe f => f.guard
  | .txa f => f.guard
  | .txst f => f.guard
  | .amxadv f => f.guard
  | .sclget f => f.guard
  | .cpa f => f.m.guard
  | .cpwait f => f.guard
  | .cpcnt f => f.guard
  | .kick f => f.guard
  | .binit f => f.guard
  | .barr f => f.guard
  | .bwait f => f.guard
  | .btest f => f.guard
  | .bar f => f.guard
  | .gsync f => f.guard
  | .monw f => f.guard
  | .monx f => f.guard
  | .mldb f => f.guard
  | .mldbs f => f.guard
  | .mldt f => f.guard
  | .mma f => f.guard
  | .mmas f => f.guard
  | .msig f => f.guard
  | .mkset f => f.guard
  | .mzero f => f.guard
  | .mst f => f.guard
  | .mrd f => f.guard
  | .mwr f => f.guard
  | .mscl f => f.guard
  | .mwait f => f.guard
  | .mstat f => f.guard
  | .wset f => f.guard
  | .wget f => f.guard
  | .trdec f => f.guard
  | .trdecn f => f.guard
  | .trenc f => f.guard
  | .trwait f => f.guard
  | .topen f => f.guard
  | .trec f => f.guard
  | .tbr f => f.guard
  | .tmark f => f.guard
  | .tclose f => f.guard
  | .trev f => f.guard
  | .tget f => f.guard
  | .tbrp f => f.guard
  | .tstat f => f.guard
  | .tgrant f => f.guard
  | .sread f => f.guard
  | .swrite f => f.guard
  | .evmark f => f.guard
  | .sleep f => f.guard
  | .caprd f => f.guard
  | .eret f => f.guard
  | .trapr f => f.guard
  | .energy f => f.guard
  | .perfsel f => f.guard
  | .perfrd f => f.guard
  | _ => ⟨false, false, 0⟩

/-- Whether a register operand names a register at or above n_reg, past the last vector register or past the last
scalar (R43, R229). -/
def outOfRange (env : Env) (o : Opnd) : Bool :=
  if isScalar o.f then 256 < o.f.toNat + o.n else min env.nReg 224 < o.f.toNat + o.n

/-- The lowest cause of Table 9.13, 0 to 9, that an instruction raises; none when it is legal (R241). -/
def causeOf (env : Env) (i : Instr) : Option Nat :=
  match i with
  | .unassignedOpcode _ => some 0
  | i =>
    match useOf env i with
    | none => none
    | some u =>
      let g := guardOf i
      let writesScalar := u.ops.any fun o => o.writes && isScalar o.f
      let readsVector := u.ops.any fun o => o.reads && !isScalar o.f
      if ((featureOf i).map fun b => !env.feat1.getLsbD b) == some true then some 0
      else if u.reserved then some 1
      else if u.kind || u.ops.any (fun o => (o.needScalar && !isScalar o.f) || (o.needVector && isScalar o.f))
        then some 2
      else if u.ops.any fun o => o.f.toNat % o.align != 0 then some 3
      else if u.ops.any (outOfRange env) then some 4
      else if (!g.enable && (g.negate || g.mask != 0)) || (g.enable && !u.guarded) then some 5
      else if u.order then some 6
      else if (writesScalar && readsVector) || (u.uniform && u.ops.any fun o => !isScalar o.f) then some 7
      else if u.case_ then some 8
      else if u.privileged && !env.priv then some 9
      else none

/-- The registers of an operand, for the lanes of a split. -/
def Opnd.keys (o : Opnd) (lanes : List Nat) : List RegKey :=
  (List.range o.n).flatMap fun i =>
    if isScalar o.f then [keyOf (plusReg o.f i) 0] else lanes.map fun l => keyOf (plusReg o.f i) l

end Sys2Proof.Machine
end

