-- ==== Sys2Proof/Machine/Issue.lean ====
section
/-! DEFINITION. Issuing an instruction: the checks, waits, samples and traps that come before its own
meaning, shared by every instruction (R184 to R186, R228, R241, R88), and how a meaning ends. -/

namespace Sys2Proof.Machine

/-- What an instruction executes on: the state, and the work-group, warp and split it is issued for. -/
structure Ctx where
  s : State
  uid : Nat
  wi : Nat
  g : WorkGroup
  w : Warp
  sp : Split
  /-- the records sampled at issue (R88) -/
  slots : List Dword
  /-- the lanes that execute, sampled at issue, when firmware completes the instruction (R74, R228) -/
  emul : Option Lanes

/-- The split that the state points to. -/
def ctxOf (s : State) : Option Ctx :=
  match s.cur with
  | none => none
  | some cur =>
    match s.wgs.look cur.wg, s.warp? cur.wg cur.warp with
    | some g, some w =>
      (w.split? cur.split).map fun sp =>
        { s := s, uid := cur.wg, wi := cur.warp, g := g, w := w, sp := sp,
          slots := (cur.slots.map (·.1)).getD w.slots, emul := cur.slots.map (·.2) }
    | _, _ => none

namespace Ctx

/-- W of the launch. -/
def width (c : Ctx) : Nat := c.g.desc.width

/-- The cycle of the die's clock. -/
def now (c : Ctx) : Nat := c.s.now c.g.core

/-- The context of the launch. -/
def context (c : Ctx) : Context := c.s.ctx c.g.ctx

/-- Privilege of the instruction at the split's pc: a privileged context, a P = 1 page (R380). -/
def privileged (c : Ctx) : Bool :=
  c.context.privileged &&
    match (c.s.translate c.g.core c.g.ctx c.sp.pc .execute true).1 with
    | .ok p => p.priv
    | .error _ => false

def env (c : Ctx) : Env :=
  { width := c.width, nReg := c.g.desc.regs, slots := c.slots, feat1 := c.context.feat1,
    priv := c.privileged, handler := c.w.handler.isSome }

/-- Lanes that a guard selects (R228). -/
def guarded (c : Ctx) (g : Guard) : Lanes :=
  if g.enable then
    let m := c.w.mask g.mask.toNat
    c.sp.lanes &&& (if g.negate then ~~~m else m)
  else c.sp.lanes

/-- The lanes that execute an instruction: execs of Table 9.14. -/
def execs (c : Ctx) (i : Instr) : Lanes :=
  match c.emul with
  | some lanes => c.sp.lanes &&& lanes
  | none => c.guarded (guardOf i)

/-- rec of Table 9.14: the sampled record of a slot. -/
def record (c : Ctx) (f : Nat) : Dword := c.slots.getD f 0

def helper (c : Ctx) (l : Nat) : Bool := c.w.helpers.getLsbD l

end Ctx

/-- Bytes of an instruction: 8 for each of its words (R226). -/
def sizeOf (i : Instr) : Nat := 8 * (encode i).length

/-- The split after its instruction: at the next one, ready anew (R211). -/
def Split.next (sp : Split) (size now : Nat) : Split :=
  { sp with pc := (sp.pc + size) % 2 ^ 57, wait := none, arrived := none, readyAt := now, aged := false }

/-- A meaning's usual end: the state `s` with the warp `w`, the split at the next instruction. -/
def Ctx.done (c : Ctx) (i : Instr) (s : State) (w : Warp) : Res :=
  .next (s.setWarp c.uid c.wi (w.modSplit c.sp.id fun sp => sp.next (sizeOf i) c.now))

/-- The end of an instruction that closes its split's region (R263, R314): a new one opens at the next
instruction. -/
def Ctx.doneRegion (c : Ctx) (i : Instr) (s : State) (w : Warp) : Res :=
  let w := w.openRegion
  .next (s.setWarp c.uid c.wi (w.modSplit c.sp.id fun sp =>
    { w.atRegion sp ((sp.pc + sizeOf i) % 2 ^ 57) with readyAt := c.now, aged := false }))

/-- The warp of the instruction as it stands in a state that the instruction's own writes have left: they may have ended
a `monw` of another of its splits (R162). -/
def Ctx.warpIn (c : Ctx) (s : State) : Warp := (s.warp? c.uid c.wi).getD c.w

/-- The split waits and its instruction is tried again (R185, R187). -/
def Ctx.block (c : Ctx) : Res :=
  .next (c.s.setWarp c.uid c.wi (c.w.modSplit c.sp.id fun sp => { sp with wait := some .retry }))

/-- The split waits in its instruction, under a wait of its own. -/
def Ctx.park (c : Ctx) (s : State) (w : Warp) (wait : Wait) : Res :=
  .next (s.setWarp c.uid c.wi (w.modSplit c.sp.id fun sp => { sp with wait := some wait }))

/-- A trap of the issuing split: resume none replays its region (Table 19.1). -/
def Ctx.mkTrap (c : Ctx) (kind cause : Nat) (lanes : Lanes) (resume : Option Nat) : Trap :=
  { kind := kind, cause := cause, detail := 0, lanes := lanes, pc := c.sp.pc, entry := c.sp.entry,
    counter := c.sp.counter, address := 0, reg := 0, unit := 0, time := c.s.time,
    splits := [(c.sp.id, resume)] }

/-- The instruction takes a trap and has no other effect. -/
def Ctx.takes (c : Ctx) (t : Trap) : Res :=
  .next ((c.s.modWarp c.uid c.wi fun w =>
    w.modSplit c.sp.id fun sp => { sp with wait := none, arrived := none }).takeTrap c.uid c.wi t)

/-- An immediate trap that resumes at the instruction itself. -/
def Ctx.fault (c : Ctx) (kind cause : Nat) (lanes : Lanes) (unit : Nat := 0) : Res :=
  c.takes { c.mkTrap kind cause lanes (some c.sp.pc) with unit := unit }

/-- A region-precise access fault (kind 17) with its cause and the lowest faulting lane's address. -/
def Ctx.access (c : Ctx) (cause : Nat) (lanes : Lanes) (address : Nat) : Res :=
  c.takes { c.mkTrap 17 cause lanes none with address := address }

/-- A meaning's end without a change but the pc. -/
def Ctx.skip (c : Ctx) (i : Instr) : Res := c.done i c.s c.w

/-! ### Lists of instructions -/

/-- Instructions that issue only when no register of their split is empty (R263, R287, R314, R330, R358,
R363, R390, R403). -/
def drains : Instr → Bool
  | .region _ | .fmtset _ | .srseed _ | .launch _ | .monx _ => true
  | .atom _ | .red _ | .cas _ | .amxadv _ | .cpa _ | .kick _ | .binit _ | .barr _ => true
  | .mldb _ | .mldbs _ | .mldt _ | .mma _ | .mmas _ | .msig _ | .mkset _ | .mzero _ | .mst _ => true
  | .mscl _ => true
  | .trdecn _ | .trenc _ | .caprd _ => true
  | .topen _ | .trec _ | .tbr _ | .tmark _ | .tclose _ | .trev _ | .tget _ | .tbrp _ | .tgrant _ => true
  | _ => false

/-- Instructions that abort a transaction with code disallowed (R164). -/
def disallowed : Instr → Bool
  | .region _ | .launch _ | .exit _ | .yield _ | .sleep _ | .energy _ => true
  | .fmtset _ | .srseed _ => true
  | .pref _ | .ipref _ | .fence _ | .atom _ | .red _ | .cas _ | .amxadv _ | .sclget _ => true
  | .cpa _ | .cpwait _ | .cpcnt _ | .kick _ | .binit _ | .barr _ | .bwait _ | .btest _ => true
  | .bar _ | .gsync _ | .monw _ | .monx _ | .caprd _ => true
  | .mldb _ | .mldbs _ | .mldt _ | .mma _ | .mmas _ | .msig _ | .mkset _ | .mzero _ | .mst _ => true
  | .mrd _ | .mwr _ | .mscl _ | .mwait _ | .mstat _ => true
  | .wset _ | .trdec _ | .trdecn _ | .trenc _ | .trwait _ => true
  | .topen _ | .trec _ | .tbr _ | .tmark _ | .tclose _ | .trev _ | .tget _ | .tbrp _ | .tstat _ => true
  | .tgrant _ => true
  | .ld f | .st f | .ldf f | .stf f => f.space != 0
  | _ => false

/-- The format slots an instruction samples and checks (R73, R274). When both records of an `fcvt` are malformed, the
format fault names the destination's slot F (DESIGN CHOICE, log 30). -/
def slotsOf : Instr → List Nat
  | .fadd f | .fsub f | .fmul f | .ffma f | .fmin f | .fmax f | .fminn f | .fmaxn f | .fcmp f => [f.f.toNat]
  | .fclass f | .fdiv f | .fsqrt f | .frcp f | .frsq f | .fexp2 f | .flog2 f | .fsin f | .fcos f => [f.f.toNat]
  | .ftanh f | .frnd f | .fscale f | .ftoi f | .itof f | .exte f | .inse f | .trdec f => [f.f.toNat]
  | .fcvt f => [f.f.toNat, f.c.toNat % 16]
  | .faddi f | .fmuli f | .ffmai f => [f.f.toNat]
  | .wred f | .wscan f => if 6 ≤ f.c.toNat % 16 then [f.f.toNat] else []
  | .ldf f | .stf f => [f.f.toNat]
  | .atom f | .red f => if Oper.float f then [f.m.f.toNat] else []
  | .mldb f | .mldbs f | .mldt f | .mma f | .mmas f | .mst f => [f.f.toNat]
  | .trdecn f => [(f.sel.extractLsb' 3 4).toNat]
  | _ => []

/-- The lowest slot check that fails: slot and code (R73). -/
def badSlot (slots : List Dword) (named : List Nat) : Option (Nat × Nat) :=
  (named.map fun n => (n, Rec.check (slots.getD n 0))).find? fun p => p.2 != 0

/-! ### Operand waits (R185, R186) -/

/-- What the full and empty bits decide. -/
inductive Gate where
  | go
  | block
  | trap (field : BitVec 8) (lanes : Lanes)
  deriving DecidableEq, Repr

/-- The lanes of a split in which an operand is empty; a scalar counts for every lane. -/
def emptyLanes (w : Warp) (lanes : Lanes) (o : Opnd) : Lanes :=
  maskOf ((lanesOf lanes).filter fun l =>
    (List.range o.n).any fun i => w.isEmpty (keyOf (plusReg o.f i) l))

/-- R263: an empty vector register of the split's lanes, or an empty scalar of the warp. -/
def anyEmpty (w : Warp) (lanes : Lanes) : Bool :=
  w.empty.any fun p => p.2 && (32768 ≤ p.1 || lanes.getLsbD (p.1 / 256))

/-- R185 and R186 for the operands of an instruction. -/
def gate (w : Warp) (lanes : Lanes) (ops : List Opnd) : Gate :=
  match ops.find? fun o => o.reads && o.ea && !o.late && emptyLanes w lanes o != 0 with
  | some o => .trap o.f (emptyLanes w lanes o)
  | none =>
    if ops.any fun o => !o.late && emptyLanes w lanes o != 0 then .block else .go

/-! ### Issue -/

/-- The register operands of an instruction under the format records in force. -/
def Ctx.operands (c : Ctx) (i : Instr) : List Opnd :=
  match useOf c.env i with
  | some u => u.ops
  | none => []

/-- The environment's context after the lanes in a transaction have aborted for an instruction that none
allows (R164); none when no lane is left. -/
def Ctx.dropTx (c : Ctx) (i : Instr) : Option Ctx × State :=
  let lanes := if disallowed i then (lanesOf (c.execs i)).filter fun l => (c.w.txns.look l).isSome else []
  if lanes.isEmpty then (some c, c.s)
  else
    let s := c.s.abortLanes c.uid c.wi lanes 7 0
    (ctxOf s, s)

/-- Parks the split for firmware to complete the instruction under the sampled records (R74): the trap
of kind 18 goes to firmware, is counted and recorded, and ends the warp's transactions. -/
def Ctx.emulate (c : Ctx) (i : Instr) : Res :=
  let s := c.s.abortLanes c.uid c.wi c.w.txLanes 11 0
  match ctxOf s with
  | none => .next s
  | some k =>
    let s := s.varveWarp k.g k.w 0x12 (field 48 54 (k.sp.pc / 8) + field 102 5 18 +
      field 116 7 ((lowest k.sp.lanes).getD 0))
    let w := { k.w with trapSeq := k.w.trapSeq + 1 }
    .next (s.setWarp k.uid k.wi (w.modSplit k.sp.id fun sp =>
      { sp with wait := some (.emul i k.slots (k.execs i)), arrived := none }))

/-- Whether a floating instruction, `ldf` or `stf` names a record above 32 bits, or a conversion a type above 32 bits, and
so is emulated (Table 3.3, R274, R283, R303). -/
def wide (slots : List Dword) (i : Instr) : Bool :=
  let above := (slotsOf i).any fun n => 32 < Rec.w (slots.getD n 0)
  match i with
  | .mldb _ | .mldbs _ | .mldt _ | .mma _ | .mmas _ | .mst _ | .atom _ | .red _ | .trdecn _ => false
  | .ftoi f | .itof f => above || typeRegs (f.c.extractLsb' 0 4) == 2
  | _ => above

/-- The registers an operand names for a lane. -/
def Opnd.laneKeys (o : Opnd) (l : Nat) : List RegKey := (List.range o.n).map fun j => keyOf (plusReg o.f j) l

/-- The uncorrectable registers that an instruction reads in the lanes that execute it (R67). -/
def Ctx.damaged (c : Ctx) (i : Instr) : List RegKey :=
  (c.w.damaged.map (·.1)).filter fun k =>
    !c.w.isEmpty k && (c.operands i).any fun o =>
      o.reads && !o.late && (lanesOf (c.execs i)).any fun l => (o.laneKeys l).contains k

/-- The trap of an instruction that reads uncorrectable registers, in place of its effect: it names the lanes whose
registers they are, every executing lane for a scalar (R67). -/
def Ctx.registerTrap (c : Ctx) (i : Instr) (ks : List RegKey) : Res :=
  let lanes := maskOf ((lanesOf (c.execs i)).filter fun l => ks.any fun k => 32768 ≤ k || k / 256 == l)
  let c := { c with s := c.s.noteEcc c.g c.w (ks.headD 0) 0 (some .registerFile) }
  c.takes (c.mkTrap 20 0 lanes none)

/-- Issues an instruction for the current split: legality, transactions, operand waits, samples,
emulation, the error codes of its registers, then its own meaning. -/
def issue (i : Instr) (s : State) (body : Ctx → Res) : Res :=
  match ctxOf s with
  | none => .fault .noSplit
  | some c =>
    match causeOf c.env i with
    | some cause => c.fault 2 cause (c.execs i)
    | none =>
      match c.dropTx i with
      | (none, s) => .next s
      | (some c, _) =>
        match gate c.w c.sp.lanes (c.operands i) with
        | .trap f lanes => c.takes { c.mkTrap 3 0 lanes (some c.sp.pc) with reg := f.toNat }
        | .block => c.block
        | .go =>
          if drains i && anyEmpty c.w c.sp.lanes then c.block
          else
            match badSlot c.slots (slotsOf i) with
            | some (n, code) => c.fault 10 code (c.execs i) n
            | none =>
              if wide c.slots i && c.emul.isNone then
                if (c.sp.lanes &&& c.s.unfinished c.uid c.wi) != 0 then c.block else c.emulate i
              else
                match c.damaged i with
                | [] => body c
                | ks => c.registerTrap i ks

/-! ### Running over lanes (R230) -/

/-- The lanes an instruction with destination field `d` computes for: each executing lane, or the lowest
one when the destination is scalar (R230). -/
def unitsOf (d : BitVec 8) (lanes : Lanes) : List Nat :=
  if isScalar d then (lanesOf lanes).take 1 else lanesOf lanes

/-- Writes n registers of `d` in each unit with a function of the lane. -/
def Ctx.writeEach (c : Ctx) (i : Instr) (d : BitVec 8) (n : Nat) (f : Nat → Nat) : Warp :=
  c.w.wrAll d n ((unitsOf d (c.execs i)).map fun l => (l, f l))

/-- The end of an instruction that writes n registers of `d` per lane and nothing else. -/
def Ctx.write (c : Ctx) (i : Instr) (d : BitVec 8) (n : Nat) (f : Nat → Nat) : Res :=
  c.done i c.s (c.writeEach i d n f)

/-- The destination registers of n registers from `d` up in some units. -/
def destKeys (d : BitVec 8) (n : Nat) (units : List Nat) : List RegKey :=
  units.flatMap fun l => (List.range n).map fun j => keyOf (plusReg d j) l

/-- Marks registers empty and leaves their values to a producer (R184). -/
def Ctx.produce (c : Ctx) (w : Warp) (dests : List RegKey) (work : Work) (order : Nat) : Warp :=
  let p : Producer :=
    { id := w.nextProducer, split := c.sp.id, dests := dests, work := work, order := order, arrived := none }
  let w := w.markEmpty dests
  { w with producers := w.producers ++ [p], nextProducer := w.nextProducer + 1 }

/-- The register writes of n registers of `d` per unit. -/
def regWrites (d : BitVec 8) (n : Nat) (xs : List (Nat × Nat)) : List (RegKey × Word) :=
  xs.flatMap fun p => (List.range n).map fun j =>
    (keyOf (plusReg d j) p.1, BitVec.ofNat 32 (p.2 / 2 ^ (32 * j)))

/-- The end of a long-running instruction: its destination is empty until a producer writes the results,
which are fixed at issue (R184). -/
def Ctx.writeLater (c : Ctx) (i : Instr) (d : BitVec 8) (n : Nat) (f : Nat → Nat) (w : Warp) : Res :=
  let xs := (unitsOf d (c.execs i)).map fun l => (l, f l)
  if xs.isEmpty then c.done i c.s w
  else c.done i c.s (c.produce w (destKeys d n (xs.map (·.1))) (.values (regWrites d n xs)) c.s.order)

end Sys2Proof.Machine
end

