-- ==== Sys2Proof/Machine/Barriers.lean ====
section
/-! DEFINITION. What splits and warps wait for together: rejoin, work-group and gang barriers,
convergence rounds (R182, R190, R320, R160). -/

namespace Sys2Proof.Machine

/-! ### Rejoin (R182) -/

/-- A split that waits in `rwait` on m. -/
def Split.inRwait (sp : Split) (m : Nat) : Bool := sp.wait == some (.rwait m)

/-- Releases the waiting lanes that are no longer in m: they go on after their `rwait` as a split of their
own (R182 step 3). -/
def Warp.releaseOut (w : Warp) (m now : Nat) : Warp :=
  let inside := w.mask m
  w.splits.foldl (fun (w : Warp) sp =>
    let out := sp.lanes &&& ~~~inside
    if !sp.inRwait m || out = 0 then w
    else
      let gone : Split :=
        { sp with lanes := out, pc := (sp.pc + 8) % 2 ^ 57, wait := none, readyAt := now, aged := false }
      if out = sp.lanes then w.setSplit gone
      else
        { w with nextSplit := w.nextSplit + 1 }.replace sp.id
          [{ sp with lanes := sp.lanes &&& inside }, { gone with id := w.nextSplit }]) w

/-- The pc of the release, when the test succeeds: every live lane of m waits in an `rwait` on m, all at
one pc. -/
def Warp.rejoinPc (w : Warp) (m : Nat) : Option Nat :=
  let inside := w.mask m &&& w.live
  let waiting := w.splits.filter fun sp => sp.inRwait m && sp.lanes &&& inside != 0
  let all := waiting.foldl (fun (x : Lanes) sp => x ||| (sp.lanes &&& inside)) 0
  match waiting.head? with
  | some first =>
    if inside != 0 && all == inside && waiting.all (fun sp => sp.pc == first.pc) then some first.pc else none
  | none => none

/-- Merges the live lanes of m into one split at the next instruction, which starts a region (R182 step 4,
R403). -/
def Warp.merge (w : Warp) (m pc now : Nat) : Warp :=
  let inside := w.mask m &&& w.live
  (w.leaveSplits inside).addSplit inside ((pc + 8) % 2 ^ 57) now

/-- One test of the `rwait`s on m (R182 step 3): of the splits that run; those that a handler has saved are tested when the
warp leaves handler mode (R401). -/
def State.rejoin (s : State) (u i m : Nat) : State :=
  match s.wgs.look u, s.warp? u i with
  | some g, some w =>
    if !(w.splits.any fun sp => sp.inRwait m) then s
    else
      let now := s.now g.core
      let w := w.releaseOut m now
      match w.rejoinPc m with
      | none => s.setWarp u i w
      | some pc =>
        (s.setWarp u i (w.merge m pc now)).varveSplit g w pc 1 (w.mask m &&& w.live)
  | _, _ => s

/-- Tests every mask that some split waits on. -/
def State.rejoinAll (s : State) (u i : Nat) : State := (List.range 16).foldl (fun s m => s.rejoin u i m) s

/-! ### Work-group and gang barriers -/

/-- Whether a warp counts as arrived: every live split waits so, outside handler mode and no firmware hold
(R320, R401). -/
def Warp.arrived (w : Warp) (wait : Wait) : Bool :=
  w.handler.isNone && w.fw.isNone && !w.splits.isEmpty && w.splits.all fun sp => sp.wait == some wait

/-- A warp with no live thread has exited (R194). -/
def Warp.ended (w : Warp) : Bool := w.threads == 0

/-- Lets the splits in a barrier's wait go on at the next instruction: an acquire-side event of their warp (R134, R135). -/
def Warp.releaseWait (w : Warp) (wait : Wait) (now order : Nat) : Warp :=
  { w.sync order with splits := w.splits.map fun sp => if sp.wait == some wait then sp.next 8 now else sp }

/-- Releases the work-group barrier when every warp has arrived or retired (R320). -/
def State.barTest (s : State) (u : Nat) : State :=
  match s.wgs.look u with
  | none => s
  | some g =>
    if g.warps.any (fun w => w.arrived .bar) && g.warps.all (fun w => w.ended || w.arrived .bar) then
      s.setWg u { g with warps := g.warps.map fun w => w.releaseWait .bar (s.now g.core) s.order }
    else s

/-- The members of a work-group's gang. -/
def State.gangOf (s : State) (g : WorkGroup) (u : Nat) : List Nat :=
  match g.gang with
  | some k =>
    match s.gangs.look k with
    | some x => x.members
    | none => [u]
  | none => [u]

/-- Whether the accesses of the warps of a work-group that have exited are performed at die scope: their exit counts as
an arrival at a gang barrier (R135, R160). -/
def State.exitsPerformed (s : State) (u : Nat) (g : WorkGroup) : Bool :=
  g.warps.zipIdx.all fun w => !w.1.ended || (w.1.storeQ.isEmpty && w.1.producers.all (fun p => match p.work with
      | .load .. => false
      | .atomic .. => false
      | _ => true) &&
    !((s.core g.core).outbound.any fun o => o.wg == u && o.warp == w.2))

/-- Releases the gang barrier when every warp of every member has arrived or exited (R160); its acquire
drops L1 lines (Table 5.6). -/
def State.gangTest (s : State) (k : Nat) : State :=
  match s.gangs.look k with
  | none => s
  | some gang =>
    let warps := gang.members.flatMap fun u =>
      match s.wgs.look u with
      | some g => g.warps
      | none => []
    let performed := gang.members.all fun u => ((s.wgs.look u).map (s.exitsPerformed u)).getD true
    if warps.any (fun w => w.arrived .gsync) && warps.all (fun w => w.ended || w.arrived .gsync) && performed then
      let s := { s with gangs := s.gangs.put k (some { gang with phase := gang.phase + 1 }) }
      gang.members.foldl (fun s u =>
        match s.wgs.look u with
        | some g =>
          (s.setWg u { g with warps := g.warps.map fun w => w.releaseWait .gsync (s.now g.core) s.order }).acquire
            g.core g.launch
        | none => s) s
    else s

/-- Tests both barriers of a work-group. -/
def State.barriers (s : State) (u : Nat) : State :=
  let s := s.barTest u
  match (s.wgs.look u).bind (·.gang) with
  | some k => s.gangTest k
  | none => s

/-! ### Convergence rounds (R190) -/

/-- Thread numbers of the live non-helper threads of a work-group. -/
def WorkGroup.threads (g : WorkGroup) : List Nat :=
  g.warps.zipIdx.flatMap fun p => (lanesOf p.1.threads).map fun l => p.2 * g.desc.width + l

/-- A signed round that needs more signatures than there are live threads that have not signed it. -/
def ConvReg.stuck (k : ConvReg) (threads : List Nat) : Bool :=
  k.abandoned.isNone && !k.signed.isEmpty &&
    (threads.filter fun t => !k.signed.contains t).length < k.n - k.signed.length

/-- The waiting splits' trap of a work-group-wide deadlock: each split resumes at its own pc. -/
def deadlockTrap (s : State) (kind cause unit : Nat) (splits : List Split) : Trap :=
  let lanes := splits.foldl (fun (x : Lanes) sp => x ||| sp.lanes) 0
  let first := ((lowest lanes).bind fun l => splits.find? fun sp => sp.lanes.getLsbD l).getD
    ⟨0, 0, 0, none, 0, false, 0, 0, [], none⟩
  { kind := kind, cause := cause, detail := splits.length, lanes := lanes, pc := first.pc,
    entry := first.entry, counter := first.counter, address := 0, reg := 0, unit := unit, time := s.time,
    splits := splits.map fun sp => (sp.id, some sp.pc) }

/-- The splits of a warp's own program: those a handler has saved, while it runs (R401). -/
def Warp.ownSplits (w : Warp) : List Split :=
  match w.handler with
  | some h => h.splits
  | none => w.splits

/-- The convergence-deadlock fault on every live warp of a work-group (R190). -/
def State.convDeadlock (s : State) (u k : Nat) : State :=
  match s.wgs.look u with
  | none => s
  | some g =>
    (List.range g.warps.length).foldl (fun s i =>
      match s.warp? u i with
      | some w => if w.ended then s else s.takeTrap u i (deadlockTrap s 6 0 k w.ownSplits)
      | none => s) s

/-- Tests the registers of a work-group (R190): of those stuck at once the lowest-numbered one's fault is taken (DESIGN
CHOICE, log 130). -/
def State.convTest (s : State) (u : Nat) : State :=
  match s.wgs.look u with
  | none => s
  | some g =>
    match g.conv.find? fun p => p.2.stuck g.threads with
    | some p => s.convDeadlock u p.1
    | none => s

end Sys2Proof.Machine
end

