-- ==== Sys2Proof/Machine/Flags.lean ====
section
/-! DEFINITION. Conditions, and the bits that comparisons write to mask registers (R179, R252, R278). -/

namespace Sys2Proof.Machine

/-- A condition of R232 between integers. -/
def intCond (cond : Nat) (a b : Int) : Bool :=
  match cond with
  | 0 => a == b
  | 1 => a != b
  | 2 => a < b
  | 3 => a ≤ b
  | 4 => b < a
  | _ => b ≤ a

/-- A condition of R278 between two values: a NaN makes `ne` and `un` true and the others false. -/
def valCond (cond : Nat) (a b : Val) : Bool :=
  let nan := a.isNan || b.isNan
  match cond with
  | 0 => !nan && a.same b
  | 1 => nan || !a.same b
  | 2 => !nan && a.less b
  | 3 => !nan && (a.less b || a.same b)
  | 4 => !nan && b.less a
  | 5 => !nan && (b.less a || a.same b)
  | 6 => nan
  | _ => !nan

/-- A mask with bit l set when a lane of `lanes` meets the test. -/
def maskWhere (lanes : Lanes) (p : Nat → Bool) : Lanes := maskOf ((lanesOf lanes).filter p)

/-- The end of an instruction that has written mask register m: the waiting `rwait`s on it are tested
(R182). -/
def Ctx.doneMask (c : Ctx) (i : Instr) (m : Nat) (w : Warp) : Res :=
  match c.done i c.s w with
  | .next s => .next (s.rejoin c.uid c.wi m)
  | r => r

/-- The end of an instruction that writes the executing lanes' bits of a mask register and nothing else
(R179). -/
def Ctx.writeMask (c : Ctx) (i : Instr) (m : Nat) (p : Nat → Bool) : Res :=
  let lanes := c.execs i &&& widthMask c.width
  c.doneMask i m (c.w.wrMask m lanes (maskWhere lanes p))

/-- The mask register of a field whose upper bits may hold a condition. -/
def maskField (f : BitVec 8) : Nat := f.toNat % 16

/-- The condition of a comparison's D field. -/
def condField (f : BitVec 8) : Nat := f.toNat / 16

end Sys2Proof.Machine
end

