-- ==== Sys2Proof/Machine/Integer.lean ====
section
/-! DEFINITION. Integer arithmetic, bit operations, immediates and moves (file 10, R248 to R258). -/

namespace Sys2Proof.Machine

/-! ### Typed operands (R248, R249) -/

/-- Element width n of a type code. -/
def typeBits (t : BitVec 4) : Nat :=
  match t.toNat with
  | 0 => 8
  | 1 => 8
  | 2 => 16
  | 3 => 16
  | 6 => 64
  | 7 => 64
  | _ => 32

/-- Whether a type is signed. -/
def typeSigned (t : BitVec 4) : Bool := t.toNat ≤ 6 && t.toNat % 2 = 0

/-- Elements of an operand. -/
def typeCount (t : BitVec 4) : Nat := 32 * typeRegs t / typeBits t

/-- A number modulo 2^n read as a type reads it. -/
def asType (t : BitVec 4) (x : Int) : Int :=
  let n := typeBits t
  let u := x % 2 ^ n
  if typeSigned t && 2 ^ (n - 1) ≤ u then u - 2 ^ n else u

/-- Element j of an operand as an integer. -/
def elemInt (t : BitVec 4) (x j : Nat) : Int := asType t (elemOf x (typeBits t) j)

/-- Modifiers of R249: abs, then neg, modulo 2^n. -/
def modInt (t : BitVec 4) (neg abs : Bool) (x : Int) : Int :=
  let y := if abs && x < 0 then asType t (-x) else x
  if neg then asType t (-y) else y

/-- Integer results packed as elements, each modulo 2^n. -/
def packInts (t : BitVec 4) (es : List Int) : Nat :=
  packElems (typeBits t) (es.map fun e => (e % 2 ^ typeBits t).toNat)

/-- Smallest and largest value of a type. -/
def typeMin (t : BitVec 4) : Int := if typeSigned t then -(2 ^ (typeBits t - 1)) else 0

def typeMax (t : BitVec 4) : Int := 2 ^ (if typeSigned t then typeBits t - 1 else typeBits t) - 1

/-- Clamps to the range of a type. -/
def clampType (t : BitVec 4) (x : Int) : Int := max (typeMin t) (min (typeMax t) x)

/-- A source operand of a lane under a type. -/
def Ctx.typed (c : Ctx) (t : BitVec 4) (f : BitVec 8) (l : Nat) : Nat := c.w.rdN f l (typeRegs t)

/-- Element j of source k (0 A, 1 B, 2 C) of a format R word, after its modifiers. -/
def Ctx.smod (c : Ctx) (f : FmtR) (k : Nat) (l j : Nat) : Int :=
  let r := match k with
    | 0 => f.a
    | 1 => f.b
    | _ => f.c
  modInt f.f (f.mod.getLsbD (2 * k)) (f.mod.getLsbD (2 * k + 1)) (elemInt f.f (c.typed f.f r l) j)

/-- The pseudocode of R249: every element of every executing lane, from the elements of A, B and C. -/
def Ctx.intMap (c : Ctx) (f : FmtR) (op : Int → Int → Int → Int) (l : Nat) : Nat :=
  packInts f.f ((List.range (typeCount f.f)).map fun j =>
    op (c.smod f 0 l j) (c.smod f 1 l j) (c.smod f 2 l j))

/-- A typed instruction of format R that writes D (R249). -/
def Ctx.typedOp (c : Ctx) (i : Instr) (f : FmtR) (op : Int → Int → Int → Int) : Res :=
  c.write i f.d (typeRegs f.f) (c.intMap f op)

/-- Quotient rounded toward zero, with Table 10.2. -/
def divInt (t : BitVec 4) (a b : Int) : Int :=
  if b = 0 then (if typeSigned t then -1 else 2 ^ typeBits t - 1) else a.tdiv b

/-- Remainder with the sign of a, with Table 10.2. -/
def remInt (a b : Int) : Int := if b = 0 then a else a.tmod b

/-- isat of Table 10.1. -/
def satInt (t : BitVec 4) (a : Int) : Int :=
  let n := typeBits t
  if typeSigned t then min (2 ^ (n - 1) - 1) (a % 2 ^ n)
  else if 2 ^ (n - 1) ≤ a then 0 else a

/-! ### Bits (R254, R255) -/

/-- Shift counts of B: the element, read unsigned; of types 6 and 7 bits [31:0]. -/
def shiftCount (t : BitVec 4) (b : Nat) (j : Nat) : Nat :=
  if typeRegs t = 2 then b % 2 ^ 32 else elemOf b (typeBits t) j

/-- Shifts and rotates of Table 10.3 on an n-bit element: 0 left, 1 logical right, 2 arithmetic right,
3 rotate left. -/
def shiftElem (n kind a s : Nat) : Nat :=
  match kind with
  | 0 => if n ≤ s then 0 else a * 2 ^ s % 2 ^ n
  | 1 => if n ≤ s then 0 else a / 2 ^ s
  | 2 =>
    let top := 2 ^ (n - 1) ≤ a
    let k := min s n
    a / 2 ^ k + if top then 2 ^ n - 2 ^ (n - k) else 0
  | _ => let k := s % n; (a * 2 ^ k + a / 2 ^ (n - k)) % 2 ^ n

/-- A shift of each element of a by the counts of b. -/
def shiftAll (t : BitVec 4) (kind a b : Nat) : Nat :=
  packElems (typeBits t) ((List.range (typeCount t)).map fun j =>
    shiftElem (typeBits t) kind (elemOf a (typeBits t) j) (shiftCount t b j))

/-- Number of 1 bits of an n-bit element. -/
def popCount (n a : Nat) : Nat := ((List.range n).filter fun i => a.testBit i).length

/-- Leading zero bits of an n-bit element. -/
def leadZeros (n a : Nat) : Nat := if a = 0 then n else n - 1 - Nat.log2 a

/-- Trailing zero bits of an n-bit element. -/
def trailZeros (n a : Nat) : Nat := ((List.range n).find? fun i => a.testBit i).getD n

/-- The n bits in reverse order. -/
def reverseBits (n a : Nat) : Nat :=
  (List.range n).foldl (fun acc i => if a.testBit i then acc + 2 ^ (n - 1 - i) else acc) 0

/-- A count or permutation of each element of A. -/
def Ctx.unary (c : Ctx) (i : Instr) (f : FmtR) (op : (n a : Nat) → Nat) : Res :=
  c.write i f.d (typeRegs f.f) fun l =>
    packElems (typeBits f.f) ((List.range (typeCount f.f)).map fun j =>
      op (typeBits f.f) (elemOf (c.typed f.f f.a l) (typeBits f.f) j))

/-- A bitwise operation on 32 or 64 bits. -/
def Ctx.bitwise (c : Ctx) (i : Instr) (f : FmtR) (op : Nat → Nat → Nat) : Res :=
  c.write i f.d (typeRegs f.f) fun l => op (c.typed f.f f.a l) (c.typed f.f f.b l)

/-- All ones of an operand of a type. -/
def onesOf (t : BitVec 4) : Nat := 2 ^ (32 * typeRegs t) - 1

/-- The length of a field after the cut at bit n − 1 (R255). -/
def cutField (n p q : Nat) : Nat := if n ≤ p then 0 else min q (n - p)

/-- bfx of R255. -/
def extractField (t : BitVec 4) (a p q : Nat) : Nat :=
  let n := typeBits t
  let k := cutField n p q
  let x := a / 2 ^ p % 2 ^ k
  if typeSigned t && k != 0 && 2 ^ (k - 1) ≤ x then x + (2 ^ n - 2 ^ k) else x

/-- bfi of R255. -/
def insertField (n d a p q : Nat) : Nat :=
  let k := cutField n p q
  if k = 0 then d else d - d / 2 ^ p % 2 ^ k * 2 ^ p + a % 2 ^ k * 2 ^ p

/-- Scale of `lea` (Table 10.4). -/
def leaScale (t : BitVec 4) : Nat :=
  match t.toNat with
  | 0 => 1
  | 1 => 1
  | 2 => 2
  | 3 => 2
  | 6 => 8
  | 7 => 8
  | _ => 4

/-! ### Immediates (Table 9.6) -/

/-- The 64-bit immediate: sext(imm24), or the extension word, whose low half is sign-extended unless the
opcode is `movw`. -/
def immOf (f : FmtI) (wide : Bool) : Dword :=
  match f.ext with
  | none => f.imm.signExtend 64
  | some e => if wide then e else (e.extractLsb' 0 32).signExtend 64

/-- Element-wise operation of A with the immediate, and D as addend (R257). -/
def Ctx.immOp (c : Ctx) (i : Instr) (f : FmtI) (op : Int → Int → Int → Int) : Res :=
  c.write i f.d (typeRegs f.f) fun l =>
    packInts f.f ((List.range (typeCount f.f)).map fun j =>
      op (elemInt f.f (c.typed f.f f.a l) j) (elemInt f.f (immOf f false).toNat j)
        (elemInt f.f (c.typed f.f f.d l) j))

/-- Bitwise operation with the immediate. -/
def Ctx.immBits (c : Ctx) (i : Instr) (f : FmtI) (op : Nat → Nat → Nat) : Res :=
  c.write i f.d (typeRegs f.f) fun l =>
    op (c.typed f.f f.a l) ((immOf f false).toNat % 2 ^ (32 * typeRegs f.f))

def Ctx.immShift (c : Ctx) (i : Instr) (f : FmtI) (kind : Nat) : Res :=
  c.write i f.d (typeRegs f.f) fun l =>
    shiftAll f.f kind (c.typed f.f f.a l) ((immOf f false).toNat % 2 ^ (32 * typeRegs f.f))

/-! ### Moves (R258) -/

/-- prmt of R258: result byte k from nibble k of C. -/
def permute (a b c : Nat) : Nat :=
  packElems 8 ((List.range 4).map fun k =>
    let n := elemOf c 4 k
    let x := elemOf (a + b * 2 ^ 32) 8 (n % 8)
    if 8 ≤ n then (if 128 ≤ x then 255 else 0) else x)

/-- The scalar that `movs` selects for a lane: s((a + rd(B, l)) mod 32). -/
def Ctx.movsField (c : Ctx) (f : FmtR) (l : Nat) : BitVec 8 :=
  BitVec.ofNat 8 (0xE0 + (f.a.toNat - 0xE0 + (c.w.rd f.b l).toNat) % 32)

/-- iadd: a + b, wrapped (Table 10.1). -/
def execIadd (f : FmtR) (s : State) : Res :=
  issue (.iadd f) s fun c => c.typedOp (.iadd f) f fun a b _ => a + b

/-- isub: a − b, wrapped (Table 10.1). -/
def execIsub (f : FmtR) (s : State) : Res :=
  issue (.isub f) s fun c => c.typedOp (.isub f) f fun a b _ => a - b

/-- imul: low n bits of a × b (Table 10.1). -/
def execImul (f : FmtR) (s : State) : Res :=
  issue (.imul f) s fun c => c.typedOp (.imul f) f fun a b _ => a * b

/-- imulh: ⌊a × b / 2^n⌋ (Table 10.1). -/
def execImulh (f : FmtR) (s : State) : Res :=
  issue (.imulh f) s fun c => c.typedOp (.imulh f) f fun a b _ => Int.fdiv (a * b) (2 ^ typeBits f.f)

/-- imad: low n bits of a × b + c (Table 10.1). -/
def execImad (f : FmtR) (s : State) : Res :=
  issue (.imad f) s fun c => c.typedOp (.imad f) f fun a b c => a * b + c

/-- idiv: the quotient toward zero; D is empty until written (R251). -/
def execIdiv (f : FmtR) (s : State) : Res :=
  issue (.idiv f) s fun c => c.writeLater (.idiv f) f.d (typeRegs f.f) (c.intMap f fun a b _ => divInt f.f a b) c.w

/-- irem: the remainder with the sign of a; D is empty until written (R251). -/
def execIrem (f : FmtR) (s : State) : Res :=
  issue (.irem f) s fun c => c.writeLater (.irem f) f.d (typeRegs f.f) (c.intMap f fun a b _ => remInt a b) c.w

/-- imin: the lesser, compared as T (Table 10.1). -/
def execImin (f : FmtR) (s : State) : Res :=
  issue (.imin f) s fun c => c.typedOp (.imin f) f fun a b _ => min a b

/-- imax: the greater, compared as T (Table 10.1). -/
def execImax (f : FmtR) (s : State) : Res :=
  issue (.imax f) s fun c => c.typedOp (.imax f) f fun a b _ => max a b

/-- iabs: |a|, wrapped (Table 10.1). -/
def execIabs (f : FmtR) (s : State) : Res :=
  issue (.iabs f) s fun c => c.typedOp (.iabs f) f fun a _ _ => if a < 0 then -a else a

/-- ineg: −a, wrapped (Table 10.1). -/
def execIneg (f : FmtR) (s : State) : Res :=
  issue (.ineg f) s fun c => c.typedOp (.ineg f) f fun a _ _ => -a

/-- isat: the element with the opposite signedness, clamped to T (Table 10.1). -/
def execIsat (f : FmtR) (s : State) : Res :=
  issue (.isat f) s fun c => c.typedOp (.isat f) f fun a _ _ => satInt f.f a

/-- iadds: a + b, clamped to the range of T (Table 10.1). -/
def execIadds (f : FmtR) (s : State) : Res :=
  issue (.iadds f) s fun c => c.typedOp (.iadds f) f fun a b _ => clampType f.f (a + b)

/-- isubs: a − b, clamped to the range of T (Table 10.1). -/
def execIsubs (f : FmtR) (s : State) : Res :=
  issue (.isubs f) s fun c => c.typedOp (.isubs f) f fun a b _ => clampType f.f (a - b)

/-- icmp: the mask bit of each executing lane is the condition, compared as T (R252). -/
def execIcmp (f : FmtR) (s : State) : Res :=
  issue (.icmp f) s fun c => c.writeMask (.icmp f) (maskField f.d) fun l =>
    intCond (condField f.d) (elemInt f.f (c.typed f.f f.a l) 0) (elemInt f.f (c.typed f.f f.b l) 0)

/-- qadd: 128-bit addition modulo 2^128 (R253). -/
def execQadd (f : FmtR) (s : State) : Res :=
  issue (.qadd f) s fun c => c.write (.qadd f) f.d 4 fun l => c.w.rdN f.a l 4 + c.w.rdN f.b l 4

/-- and: a AND b (Table 10.3). -/
def execAnd (f : FmtR) (s : State) : Res :=
  issue (.and f) s fun c => c.bitwise (.and f) f fun a b => a &&& b

/-- or: a OR b (Table 10.3). -/
def execOr (f : FmtR) (s : State) : Res :=
  issue (.or f) s fun c => c.bitwise (.or f) f fun a b => a ||| b

/-- xor: a XOR b (Table 10.3). -/
def execXor (f : FmtR) (s : State) : Res :=
  issue (.xor f) s fun c => c.bitwise (.xor f) f fun a b => a ^^^ b

/-- andn: a AND NOT b (Table 10.3). -/
def execAndn (f : FmtR) (s : State) : Res :=
  issue (.andn f) s fun c => c.bitwise (.andn f) f fun a b => a &&& (onesOf f.f - b)

/-- not: NOT a (Table 10.3). -/
def execNot (f : FmtR) (s : State) : Res :=
  issue (.not f) s fun c => c.bitwise (.not f) f fun a _ => onesOf f.f - a

/-- shl: left; 0 when s ≥ n (Table 10.3). -/
def execShl (f : FmtR) (s : State) : Res :=
  issue (.shl f) s fun c => c.bitwise (.shl f) f fun a b => shiftAll f.f 0 a b

/-- shr: right, zeros entering (Table 10.3). -/
def execShr (f : FmtR) (s : State) : Res :=
  issue (.shr f) s fun c => c.bitwise (.shr f) f fun a b => shiftAll f.f 1 a b

/-- sar: right, copies of the top bit entering (Table 10.3). -/
def execSar (f : FmtR) (s : State) : Res :=
  issue (.sar f) s fun c => c.bitwise (.sar f) f fun a b => shiftAll f.f 2 a b

/-- rol: rotated left by s mod n (Table 10.3). -/
def execRol (f : FmtR) (s : State) : Res :=
  issue (.rol f) s fun c => c.bitwise (.rol f) f fun a b => shiftAll f.f 3 a b

/-- bfx: a bit field of A, extended by T (R255). -/
def execBfx (f : FmtR) (s : State) : Res :=
  issue (.bfx f) s fun c => c.write (.bfx f) f.d (typeRegs f.f) fun l =>
    extractField f.f (c.typed f.f f.a l) ((c.w.rd f.b l).toNat % 256) ((c.w.rd f.c l).toNat % 256)

/-- bfi: the low bits of A into a field of D (R255). -/
def execBfi (f : FmtR) (s : State) : Res :=
  issue (.bfi f) s fun c => c.write (.bfi f) f.d (typeRegs f.f) fun l =>
    insertField (typeBits f.f) (c.typed f.f f.d l) (c.typed f.f f.a l) ((c.w.rd f.b l).toNat % 256)
      ((c.w.rd f.c l).toNat % 256)

/-- popc: number of 1 bits of each element (Table 10.3). -/
def execPopc (f : FmtR) (s : State) : Res :=
  issue (.popc f) s fun c => c.unary (.popc f) f popCount

/-- clz: leading zero bits of each element (Table 10.3). -/
def execClz (f : FmtR) (s : State) : Res :=
  issue (.clz f) s fun c => c.unary (.clz f) f leadZeros

/-- ctz: trailing zero bits of each element (Table 10.3). -/
def execCtz (f : FmtR) (s : State) : Res :=
  issue (.ctz f) s fun c => c.unary (.ctz f) f trailZeros

/-- brev: bit order reversed of each element (Table 10.3). -/
def execBrev (f : FmtR) (s : State) : Res :=
  issue (.brev f) s fun c => c.unary (.brev f) f reverseBits

/-- lea: a global address from a base pair and a scaled signed index (R256). -/
def execLea (f : FmtR) (s : State) : Res :=
  issue (.lea f) s fun c => c.write (.lea f) f.d 2 fun l =>
    (((c.w.rd64 f.a l : Nat) : Int) + toSigned (c.w.rd f.b l) * leaScale f.f) % 2 ^ 64 |>.toNat

/-- iaddi (Table 10.5). -/
def execIaddi (f : FmtI) (s : State) : Res :=
  issue (.iaddi f) s fun c => c.immOp (.iaddi f) f fun a b _ => a + b

/-- imuli (Table 10.5). -/
def execImuli (f : FmtI) (s : State) : Res :=
  issue (.imuli f) s fun c => c.immOp (.imuli f) f fun a b _ => a * b

/-- andi (Table 10.5). -/
def execAndi (f : FmtI) (s : State) : Res :=
  issue (.andi f) s fun c => c.immBits (.andi f) f fun a b => a &&& b

/-- ori (Table 10.5). -/
def execOri (f : FmtI) (s : State) : Res :=
  issue (.ori f) s fun c => c.immBits (.ori f) f fun a b => a ||| b

/-- xori (Table 10.5). -/
def execXori (f : FmtI) (s : State) : Res :=
  issue (.xori f) s fun c => c.immBits (.xori f) f fun a b => a ^^^ b

/-- shli (Table 10.5). -/
def execShli (f : FmtI) (s : State) : Res :=
  issue (.shli f) s fun c => c.immShift (.shli f) f 0

/-- shri (Table 10.5). -/
def execShri (f : FmtI) (s : State) : Res :=
  issue (.shri f) s fun c => c.immShift (.shri f) f 1

/-- sari (Table 10.5). -/
def execSari (f : FmtI) (s : State) : Res :=
  issue (.sari f) s fun c => c.immShift (.sari f) f 2

/-- icmpi (Table 10.5). -/
def execIcmpi (f : FmtI) (s : State) : Res :=
  issue (.icmpi f) s fun c => c.writeMask (.icmpi f) (maskField f.d) fun l =>
    intCond (condField f.d) (elemInt f.f (c.typed f.f f.a l) 0) (elemInt f.f (immOf f false).toNat 0)

/-- imadi: D is the addend (Table 10.5). -/
def execImadi (f : FmtI) (s : State) : Res :=
  issue (.imadi f) s fun c => c.immOp (.imadi f) f fun a b d => a * b + d

/-- movi: the 32-bit immediate (R258). -/
def execMovi (f : FmtI) (s : State) : Res :=
  issue (.movi f) s fun c => c.write (.movi f) f.d 1 fun _ => (immOf f false).toNat

/-- movw: the 64-bit immediate (R258). -/
def execMovw (f : FmtI) (s : State) : Res :=
  issue (.movw f) s fun c => c.write (.movw f) f.d 2 fun _ => (immOf f true).toNat

/-- mov: A, a pair for types 6 and 7 (R258). -/
def execMov (f : FmtR) (s : State) : Res :=
  issue (.mov f) s fun c => c.write (.mov f) f.d (typeRegs f.f) fun l => c.typed f.f f.a l

/-- sel: A or B by the lane's bit of a mask (R258). -/
def execSel (f : FmtR) (s : State) : Res :=
  issue (.sel f) s fun c => c.write (.sel f) f.d 1 fun l =>
    (if (c.w.mask f.c.toNat).getLsbD l then c.w.rd f.a l else c.w.rd f.b l).toNat

/-- movs: the scalar a lane's index selects, after that scalar's own wait, which comes before the wait for an empty D
(R258, R186). -/
def execMovs (f : FmtR) (s : State) : Res :=
  issue (.movs f) s fun c => 
    let lanes := unitsOf f.d (c.execs (.movs f))
    let empties := lanes.filter fun l => c.w.isEmpty (keyOf (c.movsField f l) 0)
    match empties with
    | l :: _ =>
      if f.ea.getLsbD 0 then
        c.takes { c.mkTrap 3 0 c.sp.lanes (some c.sp.pc) with reg := (c.movsField f l).toNat }
      else c.block
    | [] =>
      if emptyLanes c.w c.sp.lanes (dstOp f.d 1) != 0 then c.block
      else
        match (lanes.map fun l => keyOf (c.movsField f l) 0).filter c.w.isDamaged with
        | [] => c.write (.movs f) f.d 1 fun l => (c.w.rd (c.movsField f l) 0).toNat
        | ks => c.registerTrap (.movs f) ks

/-- prmt: bytes chosen by the nibbles of C (R258). -/
def execPrmt (f : FmtR) (s : State) : Res :=
  issue (.prmt f) s fun c => c.write (.prmt f) f.d 1 fun l =>
    permute (c.w.rd f.a l).toNat (c.w.rd f.b l).toNat (c.w.rd f.c l).toNat

end Sys2Proof.Machine
end

