-- ==== Sys2Proof/Machine/Lane.lean ====
section
/-! DEFINITION. Mask instructions, lane exchanges, reductions and scans (file 10, R266 to R271). -/

namespace Sys2Proof.Machine

/-- Bits 0 to W − 1 of a mask register. -/
def Ctx.maskBits (c : Ctx) (f : BitVec 8) : Lanes := c.w.mask (maskField f) &&& widthMask c.width

/-- A mask operation on the executing lanes' bits. -/
def Ctx.maskOp (c : Ctx) (i : Instr) (f : FmtR) (op : Bool → Bool → Bool) : Res :=
  c.writeMask i (maskField f.d) fun l =>
    op ((c.w.mask (maskField f.a)).getLsbD l) ((c.w.mask (maskField f.b)).getLsbD l)

/-- vote of R267 over the executing non-helper lanes. -/
def Ctx.voteResult (c : Ctx) (f : FmtR) (lanes : List Nat) : Bool :=
  match f.c.toNat with
  | 0 => lanes.all fun l => c.w.rd f.a l != 0
  | 1 => lanes.any fun l => c.w.rd f.a l != 0
  | _ => lanes.all fun l => c.w.rd f.a l == c.w.rd f.a (lanes.headD 0)

/-! ### Exchanges (R268, Table 10.8) -/

/-- The largest power of two not above min(s, W), and 1 for 0. -/
def segment (s w : Nat) : Nat := if s = 0 then 1 else 2 ^ Nat.log2 (min s w)

/-- Source lane of `shflb`. -/
def segmentLane (l : Nat) (b : Int) (s : Nat) : Nat :=
  let t : Int := l + b
  let g := l - l % s
  if (g : Int) ≤ t ∧ t < g + s then t.toNat else l

/-- Lane of l's quad at position p. -/
def quadLane (l p : Nat) : Nat := 4 * (l / 4) + p % 4

/-- R268: waits for the sources in every lane read, or, when the field's empty-action bit is 1, traps naming the lanes
read; the wait for an empty destination comes after it (R186). -/
def Ctx.exchange (c : Ctx) (i : Instr) (reads : List (BitVec 8 × Bool × Nat)) (dests : List (BitVec 8)) (go : Res) :
    Res :=
  let bad := reads.filter fun r => c.w.isEmpty (keyOf r.1 r.2.2)
  match bad.find? fun r => r.2.1 with
  | some r =>
    c.takes { c.mkTrap 3 0 (maskOf ((reads.filter fun x => x.1 == r.1).map fun x => x.2.2)) (some c.sp.pc) with
      reg := r.1.toNat }
  | none =>
    if !bad.isEmpty || dests.any (fun d => emptyLanes c.w c.sp.lanes (dstOp d 1) != 0) then c.block
    else
      match (reads.map fun r => keyOf r.1 r.2.2).filter c.w.isDamaged with
      | [] => go
      | ks => c.registerTrap i ks

/-- An exchange that writes D with A of the lane `t l`. -/
def Ctx.shuffle (c : Ctx) (i : Instr) (f : FmtR) (t : Nat → Nat) : Res :=
  let lanes := unitsOf f.d (c.execs i)
  c.exchange i (lanes.map fun l => (f.a, f.ea.getLsbD 0, t l)) [f.d]
    (c.write i f.d 1 fun l => (c.w.rd f.a (t l)).toNat)

/-! ### Reductions (R270, R271) -/

/-- The identity of an operation (Table 10.10). -/
def identOf (op : Nat) (t : BitVec 4) (r : Dword) : Nat :=
  let int (x : Int) : Nat := packInts t (List.replicate (typeCount t) x)
  let floats (e : Nat) : Nat := packElems (Rec.w r) (List.replicate (Rec.ne r) e)
  match op with
  | 0 => 0
  | 1 => int (typeMax t)
  | 2 => int (typeMin t)
  | 3 => int (-1)
  | 4 => 0
  | 5 => 0
  | 6 => if Rec.isInt r then 0 else floats (Rec.zeroCode r true)
  | 7 =>
    if Rec.isInt r then floats ((Rec.intMax r % 2 ^ Rec.w r).toNat)
    else if Rec.infCode r = 1 then floats (Rec.infRow r)
    else if Rec.infCode r = 2 then floats (Rec.magTop r) else floats (Rec.maxMag r)
  | _ =>
    if Rec.isInt r then floats ((Rec.intMin r % 2 ^ Rec.w r).toNat)
    else if Rec.s r = 0 then 0
    else if Rec.infCode r = 1 then floats (Rec.signBit r true + Rec.infRow r)
    else if Rec.infCode r = 2 then floats (Rec.signBit r true + Rec.magTop r)
    else floats (Rec.signBit r true + Rec.maxMag r)

/-- One combination of two contributions, element by element. -/
def combine (op : Nat) (t : BitVec 4) (r : Dword) (x y : Nat) : Nat :=
  if op < 6 then
    packInts t ((List.range (typeCount t)).map fun j =>
      let a := elemInt t x j
      let b := elemInt t y j
      match op with
      | 0 => a + b
      | 1 => min a b
      | 2 => max a b
      | 3 => ((elemOf x (typeBits t) j &&& elemOf y (typeBits t) j : Nat) : Int)
      | 4 => ((elemOf x (typeBits t) j ||| elemOf y (typeBits t) j : Nat) : Int)
      | _ => ((elemOf x (typeBits t) j ^^^ elemOf y (typeBits t) j : Nat) : Int))
  else
    packElems (Rec.w r) ((List.range (Rec.ne r)).map fun j =>
      let a := decodeCode r (elemOf x (Rec.w r) j)
      let b := decodeCode r (elemOf y (Rec.w r) j)
      encodeVal r (match op with
        | 6 => a.add (Rec.round r == 3) b
        | 7 => a.min b
        | _ => a.max b) 0)

/-- What a lane contributes: its register, of which a floating operation takes the elements only (R89). -/
def contribution (op : Nat) (r : Dword) (x : Nat) : Nat := if op < 6 then x else x % 2 ^ (Rec.ne r * Rec.w r)

/-- Combines two contributions that may be absent. -/
def joinPart (comb : Nat → Nat → Nat) : Option Nat → Option Nat → Option Nat
  | none, y => y
  | x, none => x
  | some x, some y => some (comb x y)

/-- node(a, 2^k) of R270. -/
def treeNode (comb : Nat → Nat → Nat) (part : Nat → Option Nat) (a : Nat) : (k : Nat) → Option Nat
  | 0 => part a
  | k + 1 => joinPart comb (treeNode comb part a k) (treeNode comb part (a + 2 ^ k) k)

/-- prefix(e) of R270: the aligned blocks of the 1 bits of e, largest first. -/
def treePrefix (comb : Nat → Nat → Nat) (part : Nat → Option Nat) (e : Nat) : Option Nat :=
  ((List.range 8).reverse.foldl (fun (acc : Option Nat × Nat) k =>
    if e.testBit k then (joinPart comb acc.1 (treeNode comb part acc.2 k), acc.2 + 2 ^ k) else acc)
    (none, 0)).1

/-- Registers of a reduction's operand. -/
def reduceRegs (c : Ctx) (f : FmtR) : Nat :=
  if 6 ≤ f.c.toNat % 16 then slotRegs c.env f.f.toNat else typeRegs f.f

/-- `wred` and `wscan`: `result l` combines the contributions for lane l. -/
def Ctx.reduce (c : Ctx) (i : Instr) (f : FmtR)
    (result : (Nat → Nat → Nat) → (Nat → Option Nat) → Nat → Option Nat) : Res :=
  let op := f.c.toNat % 16
  let r := c.record f.f.toNat
  let n := reduceRegs c f
  if 6 ≤ op ∧ Rec.round r = 5 then c.fault 10 9 (c.execs i) f.f.toNat
  else
    let lanes := c.execs i
    let part (l : Nat) : Option Nat :=
      if lanes.getLsbD l && !c.helper l then some (contribution op r (c.w.rdN f.a l n)) else none
    c.write i f.d n fun l => (result (combine op f.f r) part l).getD (identOf op f.f r)

/-- mand (Table 10.7). -/
def execMand (f : FmtR) (s : State) : Res :=
  issue (.mand f) s fun c => c.maskOp (.mand f) f fun a b => a && b

/-- mor (Table 10.7). -/
def execMor (f : FmtR) (s : State) : Res :=
  issue (.mor f) s fun c => c.maskOp (.mor f) f fun a b => a || b

/-- mxor (Table 10.7). -/
def execMxor (f : FmtR) (s : State) : Res :=
  issue (.mxor f) s fun c => c.maskOp (.mxor f) f fun a b => a != b

/-- mnot (Table 10.7). -/
def execMnot (f : FmtR) (s : State) : Res :=
  issue (.mnot f) s fun c => c.maskOp (.mnot f) f fun a _ => !a

/-- mpopc: how many bits 0 to W − 1 are 1 (Table 10.7). -/
def execMpopc (f : FmtR) (s : State) : Res :=
  issue (.mpopc f) s fun c => c.write (.mpopc f) f.d 1 fun _ => countLanes (c.maskBits f.a)

/-- mfirst: the lowest 1 bit, all ones when none (Table 10.7). -/
def execMfirst (f : FmtR) (s : State) : Res :=
  issue (.mfirst f) s fun c => c.write (.mfirst f) f.d 1 fun _ => (lowest (c.maskBits f.a)).getD 0xFFFFFFFF

/-- ballot: which non-helper lanes hold a nonzero A; helper lanes write 0 (Table 10.7). -/
def execBallot (f : FmtR) (s : State) : Res :=
  issue (.ballot f) s fun c => c.writeMask (.ballot f) (maskField f.d) fun l => !c.helper l && c.w.rd f.a l != 0

/-- mtos: the W bits of a mask to registers (Table 10.7). -/
def execMtos (f : FmtR) (s : State) : Res :=
  issue (.mtos f) s fun c => c.write (.mtos f) f.d (maskRegs c.env) fun _ => (c.maskBits f.a).toNat

/-- stom: the whole mask register from the W bits of A (Table 10.7). -/
def execStom (f : FmtR) (s : State) : Res :=
  issue (.stom f) s fun c => 
    if (lanesOf (c.execs (.stom f))).isEmpty then c.skip (.stom f)
    else
      let v := BitVec.ofNat 128 (c.w.rdN f.a 0 (maskRegs c.env))
      c.doneMask (.stom f) (maskField f.d) (c.w.wrMask (maskField f.d) (widthMask c.width) v)

/-- vote: all, any or uniform over the executing non-helper lanes (R267). -/
def execVote (f : FmtR) (s : State) : Res :=
  issue (.vote f) s fun c => 
    let lanes := (lanesOf (c.execs (.vote f))).filter fun l => !c.helper l
    c.writeMask (.vote f) (maskField f.d) fun l => !c.helper l && c.voteResult f lanes

/-- shfl: A of lane rd(B) mod W (Table 10.8). -/
def execShfl (f : FmtR) (s : State) : Res :=
  issue (.shfl f) s fun c => c.shuffle (.shfl f) f fun l => (c.w.rd f.b l).toNat % c.width

/-- shflb: A of lane l + rd(B) inside its segment, else A of l (Table 10.8). -/
def execShflb (f : FmtR) (s : State) : Res :=
  issue (.shflb f) s fun c => c.shuffle (.shflb f) f fun l =>
    segmentLane l (toSigned (c.w.rd f.b l)) (segment (c.w.rd f.c l).toNat c.width)

/-- bfly: exchanges a register pair with the partner lane (R269). -/
def execBfly (f : FmtR) (s : State) : Res :=
  issue (.bfly f) s fun c => 
    let lanes := unitsOf f.d (c.execs (.bfly f))
    let p (l : Nat) : Nat := l ^^^ ((c.w.rd f.b l).toNat % c.width)
    let upper (l : Nat) : Bool := l &&& ((c.w.rd f.b l).toNat % c.width) == 0
    let reads := lanes.map fun l =>
      if upper l then (f.d, false, p l) else (f.a, f.ea.getLsbD 0, p l)
    let w := lanes.foldl (fun (w : Warp) l =>
      if upper l then w.wr f.a l (c.w.rd f.d (p l)) else w.wr f.d l (c.w.rd f.a (p l))) c.w
    c.exchange (.bfly f) reads [f.d, f.a] (c.done (.bfly f) c.s w)

/-- qswp: A of the quad lane at l xor rd(B) (Table 10.8). -/
def execQswp (f : FmtR) (s : State) : Res :=
  issue (.qswp f) s fun c => c.shuffle (.qswp f) f fun l => quadLane l (l % 4 ^^^ (c.w.rd f.b l).toNat % 4)

/-- qbcst: A of the quad lane rd(B) mod 4 (Table 10.8). -/
def execQbcst (f : FmtR) (s : State) : Res :=
  issue (.qbcst f) s fun c => c.shuffle (.qbcst f) f fun l => quadLane l (c.w.rd f.b l).toNat

/-- wred: the tree over lanes 0 to W − 1, for every executing lane (R270). -/
def execWred (f : FmtR) (s : State) : Res :=
  issue (.wred f) s fun c => c.reduce (.wred f) f fun comb part _ => treeNode comb part 0 (Nat.log2 c.width)

/-- wscan: the tree prefix up to the lane (R270). -/
def execWscan (f : FmtR) (s : State) : Res :=
  issue (.wscan f) s fun c => c.reduce (.wscan f) f fun comb part l => treePrefix comb part (if f.c.getLsbD 4 then l else l + 1)

end Sys2Proof.Machine
end

