-- ==== Sys2Proof/Machine/Control.lean ====
section
/-! DEFINITION. Branches, rejoin, regions, exit, barriers of threads' control (file 10, R259 to R264;
file 18, R392). -/

namespace Sys2Proof.Machine

/-! ### Dividing a split (R180) -/

/-- The lanes that share a target, by the order of their lowest lane. -/
def groups (targets : List (Nat × Nat)) : List (Nat × Lanes) :=
  ((targets.map (·.2)).eraseDups).map fun t => (t, maskOf ((targets.filter fun p => p.2 == t).map (·.1)))

/-- Moves every lane of the split to its target: one split per distinct target, the lanes keeping their
region; without lanes there is no split (R180). -/
def Warp.divide (w : Warp) (sp : Split) (targets : List (Nat × Nat)) (now : Nat) : Warp :=
  let moved (pc : Nat) (lanes : Lanes) : Split :=
    { sp with pc := pc, lanes := lanes, wait := none, arrived := none, readyAt := now, aged := false }
  match groups targets with
  | [] => w.replace sp.id []
  | (pc, lanes) :: rest =>
    let new := rest.zipIdx.map fun p => { moved p.1.1 p.1.2 with id := w.nextSplit + p.2 }
    { w with nextSplit := w.nextSplit + rest.length }.replace sp.id (moved pc lanes :: new)

/-- The address of the split's next instruction. -/
def Ctx.nextPc (c : Ctx) (i : Instr) : Nat := (c.sp.pc + sizeOf i) % 2 ^ 57

/-- The target of a format C offset (R237). -/
def Ctx.offsetPc (c : Ctx) (offset : BitVec 32) (extra : Int) : Nat :=
  wrapPc (c.sp.pc + 8 * (offset.toInt + extra))

/-- The end of a branch: executing lanes go to `target l`, the others fall through (R228, R259). -/
def Ctx.branch (c : Ctx) (i : Instr) (w : Warp) (target : Nat → Nat) : Res :=
  let lanes := c.execs i
  let targets := (lanesOf c.sp.lanes).map fun l => (l, if lanes.getLsbD l then target l else c.nextPc i)
  let s := c.s.setWarp c.uid c.wi (w.divide c.sp targets c.now)
  match groups targets with
  | _ :: _ :: _ =>
    .next (s.varveSplit c.g c.w c.sp.pc 0 c.sp.lanes)
  | _ => .next s

/-- Targets that R237 refuses: cause target, before any lane moves. -/
def Ctx.branchChecked (c : Ctx) (i : Instr) (target : Nat → Nat) : Res :=
  let bad := (lanesOf (c.execs i)).filter fun l => target l % 8 != 0 || 2 ^ 57 ≤ target l
  if bad.isEmpty then c.branch i c.w target else c.fault 2 10 (maskOf bad)

/-- nop (R259). -/
def execNop (f : FmtC) (s : State) : Res := issue (.nop f) s fun c => c.skip (.nop f)

/-- bra (R259). -/
def execBra (f : FmtC) (s : State) : Res :=
  issue (.bra f) s fun c => c.branch (.bra f) c.w fun _ => c.offsetPc f.offset 0

/-- brx: the offset plus a register (R237, R259). -/
def execBrx (f : FmtC) (s : State) : Res :=
  issue (.brx f) s fun c =>
    c.branchChecked (.brx f) fun l => c.offsetPc f.offset (toSigned (c.w.rd (lowReg f) l))

/-- call: writes pc + 8 to the pair of each executing lane (R259). -/
def execCall (f : FmtC) (s : State) : Res :=
  issue (.call f) s fun c =>
    c.branch (.call f)
      (c.w.wrAll (lowReg f) 2 ((lanesOf (c.execs (.call f))).map fun l => (l, c.nextPc (.call f))))
      fun _ => c.offsetPc f.offset 0

/-- ret: to the pair's address, after the target checks (R237, R259). -/
def execRet (f : FmtC) (s : State) : Res :=
  issue (.ret f) s fun c => c.branchChecked (.ret f) fun l => c.w.rd64 (lowReg f) l

/-- Case k of a `switch`: its value and its word offset (R237). -/
def switchCase (f : FmtCS) (k : Nat) : Nat × Int :=
  let w := (f.cases.getD (k / 2) 0).extractLsb' (32 * (k % 2)) 32
  ((w.extractLsb' 0 8).toNat, (w.extractLsb' 8 24).toInt)

/-- switch: the lowest matching case, or the default (R260). -/
def execSwitch (f : FmtCS) (s : State) : Res :=
  issue (.switch f) s fun c =>
    c.branch (.switch f) c.w fun l =>
      let v := (c.w.rd (lowReg f.c) l).toNat
      match (List.range f.c.site.toNat).find? fun k => (switchCase f k).1 == v with
      | some k => wrapPc (c.sp.pc + 8 * (switchCase f k).2)
      | none => c.offsetPc f.c.offset 0

/-- rset: the active mask becomes the whole register (R182, R261). -/
def execRset (f : FmtC) (s : State) : Res :=
  issue (.rset f) s fun c =>
    c.doneMask (.rset f) f.mask.toNat (c.w.wrMask f.mask.toNat (widthMask 128) c.sp.lanes)

/-- rleave: the active lanes leave the register (R182, R261). -/
def execRleave (f : FmtC) (s : State) : Res :=
  issue (.rleave f) s fun c =>
    c.doneMask (.rleave f) f.mask.toNat (c.w.wrMask f.mask.toNat c.sp.lanes 0)

/-- rwait: the split's lanes in m wait, the others go on, and the test of R182 is made. -/
def execRwait (f : FmtC) (s : State) : Res :=
  issue (.rwait f) s fun c =>
    let m := f.mask.toNat
    let inside := c.sp.lanes &&& c.w.mask m
    if inside = 0 then c.skip (.rwait f)
    else
      let stay : Split := { c.sp with lanes := inside, wait := some (.rwait m), arrived := none }
      let out := c.sp.lanes &&& ~~~inside
      let w := if out = 0 then c.w.setSplit stay
        else
          { c.w with nextSplit := c.w.nextSplit + 1 }.replace c.sp.id
            [stay, { (c.sp.next 8 c.now) with id := c.w.nextSplit, lanes := out }]
      .next ((c.s.setWarp c.uid c.wi w).rejoin c.uid c.wi m)

/-- yield: only the split's ready time restarts (R262). -/
def execYield (f : FmtC) (s : State) : Res := issue (.yield f) s fun c => c.skip (.yield f)

/-- The helper lanes of quads whose other lanes have all ended (R177). -/
def endingHelpers (w : Warp) (live : Lanes) : Lanes :=
  maskOf ((lanesOf (live &&& w.helpers)).filter fun l =>
    !((List.range 4).any fun k => (live &&& ~~~w.helpers).getLsbD (quadLane l k)))

/-- exit: the executing lanes end, and the helper lanes of quads that end with them; a warp 0 names the
successor (R195, R264). Rejoins, barriers and convergence rounds are tested again (R182, R160, R190). -/
def execExit (f : FmtC) (s : State) : Res :=
  issue (.exit f) s fun c =>
    let lanes := c.execs (.exit f)
    if lanes = 0 then c.skip (.exit f)
    else
      let live := c.w.live &&& ~~~lanes
      let gone := lanes ||| endingHelpers c.w live
      let w := c.w.modSplit c.sp.id fun sp => sp.next 8 c.now
      let w := { w.takeLanes gone with live := c.w.live &&& ~~~gone }
      let s := (c.s.setWarp c.uid c.wi w).leaveHandler c.uid c.wi
      let s := if c.wi = 0 then s.modWg c.uid fun g => { g with succ := f.low.toNat } else s
      let s := s.varveSplit c.g c.w c.sp.pc 2 gone
      .next (((s.rejoinAll c.uid c.wi).barriers c.uid).convTest c.uid)

/-- region: a new region at the next instruction (R263). -/
def execRegion (f : FmtC) (s : State) : Res := issue (.region f) s fun c => c.doneRegion (.region f) c.s c.w

/-- The trap of R392: kind 0 `trap`, 1 `bkpt`, with the code; the return goes to pc + 8. -/
def Ctx.softRecord (c : Ctx) (i : Instr) (kind code : Nat) : Trap :=
  { c.mkTrap kind 0 (c.execs i) (some (c.nextPc i)) with detail := code }

/-- The software traps of R392. -/
def Ctx.softTrap (c : Ctx) (i : Instr) (kind code : Nat) : Res :=
  if c.execs i = 0 then c.skip i else c.takes (c.softRecord i kind code)

/-- The report of a breakpoint over the management link, when a debugger is attached there (R392). -/
def Ctx.reported (c : Ctx) (t : Trap) : Ctx :=
  if c.s.debugger && t.lanes != 0 then { c with s := { c.s with debugOut := c.s.debugOut ++ [t] } } else c

/-- trap (R392). -/
def execTrap (f : FmtC) (s : State) : Res :=
  issue (.trap f) s fun c => c.softTrap (.trap f) 0 f.low.toNat

/-- bkpt (R392). -/
def execBkpt (f : FmtC) (s : State) : Res :=
  issue (.bkpt f) s fun c =>
    (c.reported (c.softRecord (.bkpt f) 1 f.low.toNat)).softTrap (.bkpt f) 1 f.low.toNat

/-- An arrival's fence at core scope: every earlier access of the warp has its value or has left the store
queue (R135, Table 5.6). -/
def Warp.settled (w : Warp) : Bool :=
  w.storeQ.isEmpty && w.producers.all fun p =>
    match p.work with
    | .values _ => true
    | .queued _ => true
    | _ => false

/-- bar (R320). -/
def execBar (f : FmtC) (s : State) : Res :=
  issue (.bar f) s fun c =>
    if !c.w.settled then c.block
    else
      match c.park c.s c.w .bar with
      | .next s => .next (s.barTest c.uid)
      | r => r

end Sys2Proof.Machine
end

