-- ==== Sys2Proof/Machine/Functions.lean ====
section
/-! DEFINITION. The functions of Table 11.3 (R280): exact values where they are rational, enclosures of
any wanted width where they are irrational. A fixed-point number of p bits stands for n / 2^p. -/

namespace Sys2Proof.Machine

/-- Newton steps towards ⌊√n⌋ from above. -/
def isqrtFrom (n : Nat) : (fuel y : Nat) → Nat
  | 0, y => y
  | fuel + 1, y => let z := (y + n / y) / 2; if z < y then isqrtFrom n fuel z else y

/-- ⌊√n⌋. -/
def isqrt (n : Nat) : Nat :=
  if n = 0 then 0 else isqrtFrom n (Nat.log2 n + 2) (2 ^ (Nat.log2 n / 2 + 1))

/-- √q of q > 0: rational exactly when num × den is a square. -/
def sqrtExact (q : Q) : Exact :=
  let k := q.num.toNat * q.den
  if isqrt k * isqrt k = k then .val (.ofQ ⟨isqrt k, q.den⟩)
  else .real fun p => let r := isqrt (k * 4 ^ p); (⟨r, q.den * 2 ^ p⟩, ⟨r + 1, q.den * 2 ^ p⟩)

/-- Σ z^(2i+1) / (2i+1) × (−1)^i (or all positive), from the power `zp` on, with p fractional bits; each
term loses less than two units. -/
def oddSeries (p : Nat) (z2 : Nat) (alternate : Bool) : (fuel i zp : Nat) → Int
  | 0, _, _ => 0
  | fuel + 1, i, zp =>
    if zp = 0 then 0
    else
      let t : Int := zp / (2 * i + 1)
      (if alternate && i % 2 == 1 then -t else t) +
        oddSeries p z2 alternate fuel (i + 1) (zp * z2 / 2 ^ p)

/-- ln 2 = 2 artanh(1/3) with p fractional bits; the error is below p + 8 units. -/
def ln2Fix (p : Nat) : Nat :=
  (2 * oddSeries p (2 ^ p / 9) false (p + 2) 0 (2 ^ p / 3)).toNat

/-- π = 16 arctan(1/5) − 4 arctan(1/239) with p fractional bits; the error is below 64 (p + 4) units. -/
def piFix (p : Nat) : Nat :=
  (16 * oddSeries p (2 ^ p / 25) true (p + 2) 0 (2 ^ p / 5) -
    4 * oddSeries p (2 ^ p / 57121) true (p + 2) 0 (2 ^ p / 239)).toNat

/-- Σ of the Taylor terms t × x / i, t × x² / (i (i + 1)) … of e^x for 0 ≤ x < 2. -/
def expSeries (p x : Nat) : (fuel i t : Nat) → Nat
  | 0, _, _ => 0
  | fuel + 1, i, t => if t = 0 then 0 else t + expSeries p x fuel (i + 1) (t * x / (i * 2 ^ p))

/-- e^x for 0 ≤ x < 2 in p fractional bits; low by less than 8 p + 64 units. -/
def expFix (p x : Nat) : Nat := expSeries p x (2 * p + 8) 1 (2 ^ p)

/-- 2^(f / 2^p) of 0 ≤ f < 2^p: an enclosure in units of 2^(−p). -/
def exp2Frac (p f : Nat) : Nat × Nat :=
  let l := ln2Fix p
  (expFix p (f * (l - min l (p + 8)) / 2 ^ p), expFix p ((f + 1) * (l + p + 8) / 2 ^ p + 1) + 8 * p + 64)

/-- 2^q. An integer exponent gives a power of two; one past every record's range, 2^(±20000), which each
record rounds as it rounds the exact result. Only an integer record that wraps tells large results
apart. -/
def exp2Exact (wraps : Bool) (q : Q) : Exact :=
  let k := q.floor
  if k < -20000 then .val (.ofQ (.pow2 (-20000)))
  else if q.eq (.ofInt k) || (20000 < k && !wraps) then .val (.ofQ (.pow2 (min k 20000)))
  else .real fun p =>
    let pp := p + 32
    let b := exp2Frac pp ((q.sub (.ofInt k)).scale pp).floor.toNat
    (.dyadic b.1 (k - pp), .dyadic b.2 (k - pp))

/-- ln m of 1 ≤ m < 2 in p fractional bits, by 2 artanh((m − 1)/(m + 1)); off by less than 4 p + 16. -/
def lnFix (p : Nat) (m : Q) : Nat :=
  let z := ((m.sub (.ofInt 1)).div (m.add (.ofInt 1))).scale p |>.floor.toNat
  (2 * oddSeries p (z * z / 2 ^ p) false (p + 2) 0 z).toNat

/-- log2 q of q > 0: rational exactly for a power of two. -/
def log2Exact (q : Q) : Exact :=
  let k := q.log2
  if q.eq (.pow2 k) then .val (.ofQ (.ofInt k))
  else .real fun p =>
    let pp := p + 32
    let n := lnFix pp (q.scale (-k))
    let l := ln2Fix pp
    let err := 8 * pp + 64
    ((Q.ofInt k).add ⟨n - min n err, l + err⟩, (Q.ofInt k).add ⟨n + err, l - min (l - 1) err⟩)

/-- Taylor terms of sin or cos from the term t on, for |x| ≤ 2 in p fractional bits. -/
def trigSeries (p : Nat) (x2 : Int) : (fuel i : Nat) → (t : Int) → Int
  | 0, _, _ => 0
  | fuel + 1, i, t =>
    t + trigSeries p x2 fuel (i + 2) (-((t * x2).tdiv (((i + 1) * (i + 2) : Nat) * 2 ^ p)))

/-- sin q or cos q of nonzero q: reduced by ⌊q / (π/2)⌋ against π (R280), the quadrant choosing the
series. Both are Lipschitz with constant 1, so an error of the reduced argument widens the enclosure by
no more than itself. -/
def trigExact (cosine : Bool) (q : Q) : Exact :=
  .real fun p =>
    let pp := p + 32
    let big := pp + (max 0 (q.abs.log2 + 2)).toNat
    let guardBits := Nat.log2 big + 12
    let h := piFix (big + guardBits)
    let k := ((q.scale 1).div ⟨h, 2 ^ (big + guardBits)⟩).floor
    let r := ((q.sub ((Q.ofInt k).mul ⟨h, 2 ^ (big + guardBits + 1)⟩)).scale pp).floor
    let quad := (k + if cosine then 1 else 0) % 4
    let r2 := r * r / 2 ^ pp
    let v := if quad % 2 = 0 then trigSeries pp r2 (pp + 4) 1 r else trigSeries pp r2 (pp + 4) 0 (2 ^ pp)
    let v := if quad ≥ 2 then -v else v
    let err : Int := 8 * pp + 256
    (.dyadic (v - err) (-pp), .dyadic (v + err) (-pp))

/-- tanh q of nonzero q by e^(−2|q|); past 20000 the result is 1 − 2^(−20000), which every record rounds
as it rounds the exact one. -/
def tanhExact (q : Q) : Exact :=
  let y := q.abs
  let signed (x : Q) : Q := if q.isNeg then x.neg else x
  if (Q.ofInt 20000).lt y then .val (.ofQ (signed ((Q.ofInt 1).sub (.pow2 (-20000)))))
  else .real fun p =>
    let pp := p + 64
    let l := ln2Fix (pp + 32)
    let k := ((y.scale 1).div ⟨l, 2 ^ (pp + 32)⟩).floor
    let r := (((y.scale 1).sub ((Q.ofInt k).mul ⟨l, 2 ^ (pp + 32)⟩)).scale pp).floor.toNat
    let lo := expFix pp (r - min r 4)
    let hi := expFix pp (r + 4) + 8 * pp + 64
    let t (e : Nat) : Q :=   -- (E − 1) / (E + 1), E = e × 2^(k − pp)
      let x := Q.dyadic e (k - pp)
      (x.sub (.ofInt 1)).div (x.add (.ofInt 1))
    if q.isNeg then ((t hi).neg, (t lo).neg) else (t lo, t hi)

/-- fdiv of Table 11.3. -/
def divVal (a b : Val) : Exact :=
  let neg := a.sign != b.sign
  .val <|
    if a.isNan || b.isNan then .nan
    else if (a.isInf && b.isInf) || (a.isZero && b.isZero) then .nan
    else if a.isInf || b.isZero then .inf neg
    else if b.isInf || a.isZero then .zero neg
    else .ofQ (a.toQ.div b.toQ)

/-- fsqrt of Table 11.3. -/
def sqrtVal : Val → Exact
  | .nan => .val .nan
  | .inf neg => .val (if neg then .nan else .inf false)
  | .zero s => .val (.zero s)
  | .fin q => if q.isNeg then .val .nan else sqrtExact q

/-- frcp of Table 11.3. -/
def rcpVal (a : Val) : Exact := divVal (.fin (.ofInt 1)) a

/-- frsq of Table 11.3. -/
def rsqVal : Val → Exact
  | .nan => .val .nan
  | .inf neg => .val (if neg then .nan else .zero false)
  | .zero s => .val (.inf s)
  | .fin q => if q.isNeg then .val .nan else sqrtExact ((Q.ofInt 1).div q)

/-- fexp2 of Table 11.3; `r` is the record the result is written under. -/
def exp2Val (r : Dword) : Val → Exact
  | .nan => .val .nan
  | .inf neg => .val (if neg then .zero false else .inf false)
  | .zero _ => .val (.fin (.ofInt 1))
  | .fin q => exp2Exact (Rec.isInt r && Rec.intOvf r == 0) q

/-- flog2 of Table 11.3. -/
def log2Val : Val → Exact
  | .nan => .val .nan
  | .inf neg => .val (if neg then .nan else .inf false)
  | .zero _ => .val (.inf true)
  | .fin q => if q.isNeg then .val .nan else log2Exact q

/-- fsin of Table 11.3. -/
def sinVal : Val → Exact
  | .nan => .val .nan
  | .inf _ => .val .nan
  | .zero s => .val (.zero s)
  | .fin q => trigExact false q

/-- fcos of Table 11.3. -/
def cosVal : Val → Exact
  | .nan => .val .nan
  | .inf _ => .val .nan
  | .zero _ => .val (.fin (.ofInt 1))
  | .fin q => trigExact true q

/-- ftanh of Table 11.3. -/
def tanhVal : Val → Exact
  | .nan => .val .nan
  | .inf neg => .val (.fin (.ofInt (if neg then -1 else 1)))
  | .zero s => .val (.zero s)
  | .fin q => tanhExact q

/-- a × b + c, exact (R276): a zero product and a zero addend of one sign keep that sign. -/
def fmaVal (rdn : Bool) (a b c : Val) : Val := (a.mul b).add rdn c

/-- fmin, fmax, fminn, fmaxn of Table 11.1: `num` ignores a single NaN. -/
def minMaxVal (greater num : Bool) (a b : Val) : Val :=
  if num && a.isNan then b else if num && b.isNan then a
  else if greater then a.max b else a.min b

/-- frnd of R281: an integer value, an infinity, a zero or a NaN passes. -/
def rndVal (r : Dword) (word : Nat) : Val → Val
  | .fin q =>
    let n := roundInt r q word
    if n = 0 then .zero q.isNeg else .fin (.ofInt n)
  | v => v

end Sys2Proof.Machine
end

