-- ==== Sys2Proof/Machine/Float.lean ====
section
/-! DEFINITION. Floating, conversion, packed-element, slot and generator instructions (file 11). -/

namespace Sys2Proof.Machine

/-! ### Fount (R82, R83, R294) -/

/-- One round of R294. -/
def fountRound (k : List Word) (x : Word × Word × Word × Word) (i : Nat) : Word × Word × Word × Word :=
  let x0 := x.1 + x.2.1
  let x3 := (x.2.2.2 ^^^ x0).rotateLeft 11
  let x2 := x.2.2.1 + x3
  let x1 := (x.2.1 ^^^ x2).rotateLeft 5
  let x0 := x0 + (x3 ^^^ k.getD (i % 4) 0)
  let x2 := (x2 ^^^ x1).rotateLeft 17
  (x1, x2, x3, x0)

/-- fount(ctr, key): the output words 0 to 3. -/
def fount (ctr key : List Word) : List Word :=
  let x := (List.range 12).foldl (fountRound key)
    (ctr.getD 0 0, ctr.getD 1 0, ctr.getD 2 0, ctr.getD 3 0)
  [x.1 + key.getD 0 0, x.2.1 + key.getD 1 0, x.2.2.1 + key.getD 2 0, x.2.2.2 + key.getD 3 0]

/-- The n words of a number, lowest first. -/
def wordsOfNat (n x : Nat) : List Word := (List.range n).map fun i => BitVec.ofNat 32 (x / 2 ^ (32 * i))

/-- The launch id of a work-group's launch. -/
def State.launchId (s : State) (g : WorkGroup) : Dword :=
  match s.launches.look g.launch with
  | some l => l.id
  | none => 0

/-- Global warp id (Table 7.2). -/
def globalWarp (g : WorkGroup) (wi : Nat) : Nat := (g.id * 16 + wi) % 2 ^ 32

/-- The word element j of a lane draws under R82. -/
def Ctx.draw (c : Ctx) (l j : Nat) : Nat :=
  let s := Sparse.get (0 : Word) c.w.seq l
  let ctr := [(c.s.launchId c.g).truncate 32, BitVec.ofNat 32 (globalWarp c.g c.wi), BitVec.ofNat 32 l,
    s + BitVec.ofNat 32 (j / 4)]
  ((fount ctr (wordsOfNat 4 c.w.key.toNat)).getD (j % 4) 0).toNat

/-- The warp after the units of an instruction with ne elements per lane have drawn, when the record
rounds stochastically (R83). -/
def Ctx.drawn (c : Ctx) (r : Dword) (ne : Nat) (lanes : List Nat) : Warp :=
  let next := lanes.map fun l => (l, Sparse.get (0 : Word) c.w.seq l + BitVec.ofNat 32 ((ne + 3) / 4))
  if Rec.round r = 5 then { c.w with seq := c.w.seq.setMany (0 : Word) next } else c.w

/-! ### Elements (R274, R275) -/

/-- Registers of an element of a record. -/
def recRegs (r : Dword) : Nat := if 32 < Rec.w r then 2 else 1

/-- |v| if abs, then −v if neg (Table 9.14). -/
def modVal (neg abs : Bool) (v : Val) : Val :=
  let v := if abs then v.abs else v
  if neg then v.neg else v

/-- The code of element j of a register for a lane. -/
def Ctx.code (c : Ctx) (r : Dword) (f : BitVec 8) (l j : Nat) : Nat :=
  elemOf (c.w.rdN f l (recRegs r)) (Rec.w r) j

/-- src of Table 9.14 for source k (0 A, 1 B, 2 C). -/
def Ctx.src (c : Ctx) (f : FmtR) (r : Dword) (k l j : Nat) : Val :=
  let reg := match k with
    | 0 => f.a
    | 1 => f.b
    | _ => f.c
  modVal (f.mod.getLsbD (2 * k)) (f.mod.getLsbD (2 * k + 1)) (decodeCode r (c.code r reg l j))

/-- The first n elements of a lane's result packed, element j under the draw word j. -/
def Ctx.elements (c : Ctx) (r : Dword) (n l : Nat) (e : (j word : Nat) → Nat) : Nat :=
  packElems (Rec.w r) ((List.range n).map fun j => e j (c.draw l j))

/-- The pseudocode of R275 for an operation on A, B and C; `later` marks D empty until written. -/
def Ctx.floatOp (c : Ctx) (i : Instr) (f : FmtR) (later : Bool)
    (op : (r : Dword) → (l word : Nat) → Val → Val → Val → Exact) : Res :=
  let r := c.record f.f.toNat
  let lanes := unitsOf f.d (c.execs i)
  let w := c.drawn r (Rec.ne r) lanes
  let value (l : Nat) : Nat := c.elements r (Rec.ne r) l fun j word =>
    finishExact r f.sc.toInt f.clamp.toNat
      (op r l word (c.src f r 0 l j) (c.src f r 1 l j) (c.src f r 2 l j)) word
  if later then c.writeLater i f.d (recRegs r) value w
  else c.done i c.s (w.wrAll f.d (recRegs r) (lanes.map fun l => (l, value l)))

/-- An operation whose exact value is a value. -/
def Ctx.valOp (c : Ctx) (i : Instr) (f : FmtR) (op : (r : Dword) → Val → Val → Val → Val) : Res :=
  c.floatOp i f false fun r _ _ x y z => .val (op r x y z)

/-- A function of Table 11.3. -/
def Ctx.funOp (c : Ctx) (i : Instr) (f : FmtR) (op : (r : Dword) → Val → Val → Exact) : Res :=
  c.floatOp i f true fun r _ _ x y _ => op r x y

/-- Round = 3 (RDN), the sign of an exact zero sum (R276). -/
def isRdn (r : Dword) : Bool := Rec.round r == 3

/-- R282: an immediate decoded as binary32 without flushing. -/
def immVal (f : FmtI) : Val :=
  decodeVal binary32 false (match f.ext with
    | none => f.imm.toNat * 256
    | some e => (e.extractLsb' 0 32).toNat)

/-- An immediate form (R282). -/
def Ctx.immFloat (c : Ctx) (i : Instr) (f : FmtI) (op : (rdn : Bool) → Val → Val → Val → Val) : Res :=
  let r := c.record f.f.toNat
  let lanes := unitsOf f.d (c.execs i)
  let value (l : Nat) : Nat := c.elements r (Rec.ne r) l fun j word =>
    finishVal r 0 f.clamp.toNat (op (isRdn r) (modVal f.neg f.abs (decodeCode r (c.code r f.a l j)))
      (immVal f) (decodeCode r (c.code r f.d l j))) word
  c.done i c.s ((c.drawn r (Rec.ne r) lanes).wrAll f.d (recRegs r) (lanes.map fun l => (l, value l)))

/-- The class code of Table 11.2, modifiers applied to the sign, FlushIn ignored (R279). -/
def classOf (r : Dword) (neg abs : Bool) (code : Nat) : Nat :=
  let v := decodeVal r false code
  let mag := code % 2 ^ (Rec.e r + Rec.m r)
  let minus := (modVal neg abs v).sign
  match v with
  | .nan => if Rec.nanCode r = 1 ∧ mag % 2 ^ Rec.m r < 2 ^ (Rec.m r - 1) then 0 else 1
  | .inf _ => if minus then 2 else 9
  | .zero _ => if minus && !Rec.isInt r then 5 else 6
  | .fin _ =>
    if !Rec.isInt r && mag < 2 ^ Rec.m r then (if minus then 4 else 7) else if minus then 3 else 8

/-! ### Conversions (R283) -/

/-- The integer a value saturates to under a type (Table 11.4, ftoi). -/
def toType (r : Dword) (t : BitVec 4) (word : Nat) : Val → Int
  | .nan => 0
  | .inf neg => if neg then typeMin t else typeMax t
  | .zero _ => 0
  | .fin q => clampType t (roundInt r q word)

/-- The end of a conversion that writes n registers per unit after the draws. -/
def Ctx.convert (c : Ctx) (i : Instr) (d : BitVec 8) (n : Nat) (draws : Dword) (ne : Nat)
    (value : Nat → Nat) : Res :=
  let lanes := unitsOf d (c.execs i)
  c.done i c.s ((c.drawn draws ne lanes).wrAll d n (lanes.map fun l => (l, value l)))

/-! ### Slots (R285 to R290) -/

/-- The split whose `fmtset` or `srseed` issues in a warp with other live splits exposes the order of a
deterministic launch (R288). -/
def Ctx.exposeSplit (c : Ctx) : State :=
  if c.context.deterministic && 2 ≤ c.w.liveSplits.length then
    c.s.modLaunch c.g.launch fun l => { l with orderExposed := true }
  else c.s

/-- Serial width of a record with all its planes (Table 15.3). -/
def serialWidth (r : Dword) : Nat := if Rec.isInt r then Rec.w r else Rec.m r + 4

/-- The word of Table 11.7. -/
def fmtchkWord (r : Dword) : Nat :=
  let k := Rec.check r
  k + (if k = 0 ∧ Rec.w r ≤ 32 then 2 ^ 8 else 0) +
    (if k = 0 ∧ serialWidth r ≤ 16 ∧ Rec.w r ≤ 16 then 2 ^ 9 else 0) + Rec.w r * 2 ^ 16

/-- fadd (Table 11.1). -/
def execFadd (f : FmtR) (s : State) : Res :=
  issue (.fadd f) s fun c => c.valOp (.fadd f) f fun r a b _ => a.add (isRdn r) b

/-- fsub (Table 11.1). -/
def execFsub (f : FmtR) (s : State) : Res :=
  issue (.fsub f) s fun c => c.valOp (.fsub f) f fun r a b _ => a.add (isRdn r) b.neg

/-- fmul (Table 11.1). -/
def execFmul (f : FmtR) (s : State) : Res :=
  issue (.fmul f) s fun c => c.valOp (.fmul f) f fun _ a b _ => a.mul b

/-- ffma (Table 11.1). -/
def execFfma (f : FmtR) (s : State) : Res :=
  issue (.ffma f) s fun c => c.valOp (.ffma f) f fun r a b c => fmaVal (isRdn r) a b c

/-- fmin (Table 11.1). -/
def execFmin (f : FmtR) (s : State) : Res :=
  issue (.fmin f) s fun c => c.valOp (.fmin f) f fun _ a b _ => minMaxVal false false a b

/-- fmax (Table 11.1). -/
def execFmax (f : FmtR) (s : State) : Res :=
  issue (.fmax f) s fun c => c.valOp (.fmax f) f fun _ a b _ => minMaxVal true false a b

/-- fminn (Table 11.1). -/
def execFminn (f : FmtR) (s : State) : Res :=
  issue (.fminn f) s fun c => c.valOp (.fminn f) f fun _ a b _ => minMaxVal false true a b

/-- fmaxn (Table 11.1). -/
def execFmaxn (f : FmtR) (s : State) : Res :=
  issue (.fmaxn f) s fun c => c.valOp (.fmaxn f) f fun _ a b _ => minMaxVal true true a b

/-- fcmp: the bit is set when the condition holds for every element pair (R278). -/
def execFcmp (f : FmtR) (s : State) : Res :=
  issue (.fcmp f) s fun c => 
    let r := c.record f.f.toNat
    c.writeMask (.fcmp f) (maskField f.d) fun l =>
      (List.range (Rec.ne r)).all fun j => valCond (condField f.d) (c.src f r 0 l j) (c.src f r 1 l j)

/-- fclass: class codes of up to eight elements (R279). -/
def execFclass (f : FmtR) (s : State) : Res :=
  issue (.fclass f) s fun c => 
    let r := c.record f.f.toNat
    c.write (.fclass f) f.d 1 fun l => packElems 4 ((List.range (min (Rec.ne r) 8)).map fun j =>
      classOf r (f.mod.getLsbD 0) (f.mod.getLsbD 1) (c.code r f.a l j))

/-- fdiv (Table 11.3). -/
def execFdiv (f : FmtR) (s : State) : Res :=
  issue (.fdiv f) s fun c => c.funOp (.fdiv f) f fun _ a b => divVal a b

/-- fsqrt (Table 11.3). -/
def execFsqrt (f : FmtR) (s : State) : Res :=
  issue (.fsqrt f) s fun c => c.funOp (.fsqrt f) f fun _ a _ => sqrtVal a

/-- frcp (Table 11.3). -/
def execFrcp (f : FmtR) (s : State) : Res :=
  issue (.frcp f) s fun c => c.funOp (.frcp f) f fun _ a _ => rcpVal a

/-- frsq (Table 11.3). -/
def execFrsq (f : FmtR) (s : State) : Res :=
  issue (.frsq f) s fun c => c.funOp (.frsq f) f fun _ a _ => rsqVal a

/-- fexp2 (Table 11.3). -/
def execFexp2 (f : FmtR) (s : State) : Res :=
  issue (.fexp2 f) s fun c => c.funOp (.fexp2 f) f fun r a _ => exp2Val r a

/-- flog2 (Table 11.3). -/
def execFlog2 (f : FmtR) (s : State) : Res :=
  issue (.flog2 f) s fun c => c.funOp (.flog2 f) f fun _ a _ => log2Val a

/-- fsin (Table 11.3). -/
def execFsin (f : FmtR) (s : State) : Res :=
  issue (.fsin f) s fun c => c.funOp (.fsin f) f fun _ a _ => sinVal a

/-- fcos (Table 11.3). -/
def execFcos (f : FmtR) (s : State) : Res :=
  issue (.fcos f) s fun c => c.funOp (.fcos f) f fun _ a _ => cosVal a

/-- ftanh (Table 11.3). -/
def execFtanh (f : FmtR) (s : State) : Res :=
  issue (.ftanh f) s fun c => c.funOp (.ftanh f) f fun _ a _ => tanhVal a

/-- frnd: rounded to an integer by the record's Round, then finish (R281). -/
def execFrnd (f : FmtR) (s : State) : Res :=
  issue (.frnd f) s fun c => c.floatOp (.frnd f) f false fun r _ word a _ _ => .val (rndVal r word a)

/-- fscale: a × 2^t, t from B as i32 under its modifiers (R281). -/
def execFscale (f : FmtR) (s : State) : Res :=
  issue (.fscale f) s fun c => c.floatOp (.fscale f) f false fun _ l _ a _ _ =>
    .val (a.scale (modInt 4 (f.mod.getLsbD 2) (f.mod.getLsbD 3) (toSigned (c.w.rd f.b l))))

/-- fcvt: from the source slot's record to the destination slot's (R283). -/
def execFcvt (f : FmtR) (s : State) : Res :=
  issue (.fcvt f) s fun c => 
    let rs := c.record (f.c.toNat % 16)
    let rd := c.record f.f.toNat
    c.convert (.fcvt f) f.d (recRegs rd) rd (Rec.ne rd) fun l =>
      c.elements rd (min (Rec.ne rs) (Rec.ne rd)) l fun j word => encodeVal rd (c.src f rs 0 l j) word

/-- ftoi: to integers of the type in C, saturating (R283). -/
def execFtoi (f : FmtR) (s : State) : Res :=
  issue (.ftoi f) s fun c => 
    let t := f.c.extractLsb' 0 4
    let rs := c.record f.f.toNat
    c.convert (.ftoi f) f.d (typeRegs t) rs (typeCount t) fun l =>
      packInts t ((List.range (min (Rec.ne rs) (typeCount t))).map fun j =>
        toType rs t (c.draw l j) (c.src f rs 0 l j))

/-- itof: integers of the type in C, modifiers exact, encoded once (R283). -/
def execItof (f : FmtR) (s : State) : Res :=
  issue (.itof f) s fun c => 
    let t := f.c.extractLsb' 0 4
    let rd := c.record f.f.toNat
    c.convert (.itof f) f.d (recRegs rd) rd (Rec.ne rd) fun l =>
      c.elements rd (min (typeCount t) (Rec.ne rd)) l fun j word =>
        let x := elemInt t (c.typed t f.a l) j
        let x := if f.mod.getLsbD 1 && x < 0 then -x else x
        encodeVal rd (.ofQ (.ofInt (if f.mod.getLsbD 0 then -x else x))) word

/-- faddi (R282). -/
def execFaddi (f : FmtI) (s : State) : Res :=
  issue (.faddi f) s fun c => c.immFloat (.faddi f) f fun rdn a i _ => a.add rdn i

/-- fmuli (R282). -/
def execFmuli (f : FmtI) (s : State) : Res :=
  issue (.fmuli f) s fun c => c.immFloat (.fmuli f) f fun _ a i _ => a.mul i

/-- ffmai: D is the addend (R282). -/
def execFfmai (f : FmtI) (s : State) : Res :=
  issue (.ffmai f) s fun c => c.immFloat (.ffmai f) f fun rdn a i d => fmaVal rdn a i d

/-- exte: element rd(B) of A as a raw code (R284). -/
def execExte (f : FmtR) (s : State) : Res :=
  issue (.exte f) s fun c => 
    let r := c.record f.f.toNat
    c.write (.exte f) f.d (recRegs r) fun l =>
      let i := (c.w.rd f.b l).toNat
      if i < Rec.ne r then c.code r f.a l i else 0

/-- inse: the low bits of A into element rd(B) of D (R284). -/
def execInse (f : FmtR) (s : State) : Res :=
  issue (.inse f) s fun c => 
    let r := c.record f.f.toNat
    c.write (.inse f) f.d (recRegs r) fun l =>
      let i := (c.w.rd f.b l).toNat
      if i < Rec.ne r then
        packElems (Rec.w r) ((List.range (Rec.ne r)).map fun j =>
          if j = i then c.code r f.a l 0 else c.code r f.d l j)
      else c.w.rdN f.d l (recRegs r)

/-- srseed: the warp's stochastic key; ends the region (R291). -/
def execSrseed (f : FmtR) (s : State) : Res :=
  issue (.srseed f) s fun c => 
    let key := BitVec.ofNat 128 (c.w.rdN f.a 0 4)
    c.doneRegion (.srseed f) c.exposeSplit { c.w with key := key }

/-- fmtset: checks a record and writes it to the slot; ends the region (R285 to R288). -/
def execFmtset (f : FmtR) (s : State) : Res :=
  issue (.fmtset f) s fun c => 
    let r := BitVec.ofNat 64 (c.w.rd64 f.a 0)
    if Rec.check r != 0 then c.fault 10 (Rec.check r) c.sp.lanes f.f.toNat
    else c.doneRegion (.fmtset f) c.exposeSplit { c.w with slots := c.w.slots.set f.f.toNat r }

/-- fmtget: the record the slot holds, unchecked (R289). -/
def execFmtget (f : FmtR) (s : State) : Res :=
  issue (.fmtget f) s fun c => c.write (.fmtget f) f.d 2 fun _ => (c.w.slotRec f.f.toNat).toNat

/-- fmtchk: what a record is good for (R290). -/
def execFmtchk (f : FmtR) (s : State) : Res :=
  issue (.fmtchk f) s fun c => c.write (.fmtchk f) f.d 1 fun l => fmtchkWord (BitVec.ofNat 64 (c.w.rd64 f.a l))

/-- rand: fount of the counter quad A under the key quad B (R293). -/
def execRand (f : FmtR) (s : State) : Res :=
  issue (.rand f) s fun c => c.write (.rand f) f.d 4 fun l =>
    ((fount (wordsOfNat 4 (c.w.rdN f.a l 4)) (wordsOfNat 4 (c.w.rdN f.b l 4))).foldr
      (fun x acc => x.toNat + 2 ^ 32 * acc) 0)

/-- wrng: the lane's stochastic count (R292). -/
def execWrng (f : FmtR) (s : State) : Res :=
  issue (.wrng f) s fun c => c.write (.wrng f) f.d 1 fun l => (Sparse.get (0 : Word) c.w.seq l).toNat

end Sys2Proof.Machine
end

