-- ==== Sys2Proof/Machine/Perform.lean ====
section
/-! DEFINITION. How accesses are performed: home slices and banks, the L1, store queues and the writes on
their way, claims, atomics and monitors (files 02, 05, 06). -/

namespace Sys2Proof.Machine

/-! ### Places -/

/-- The line or block an address lies in, which an engine may claim (R140). -/
def locOf : Addr → Loc
  | .phys pa => .line (pa / 128)
  | .scratch u off => .block u (off / 128)

/-- The 32-bit location of an address (R122). -/
def wordOf : Addr → Addr
  | .phys pa => .phys (pa / 4 * 4)
  | .scratch u off => .scratch u (off / 4 * 4)

/-- Peer module index of an address (Table 1.2). -/
def peerOf (pa : Nat) : Nat := pa / 2 ^ 42 % 256

/-- Where a write is performed: a home slice, the host link, a peer, a member's bank. Writes of one core
to one place are performed in the order they left (R60, R147, R148). -/
def placeOf : Addr → Nat
  | .phys pa =>
    if isHbm pa then homeDie pa * 64 + homeSlice pa
    else if isHost pa then 2048 else 2049 + peerOf pa
  | .scratch u _ => 4096 + u

/-- The scratchpad of a work-group as its bank holds it, the writes of other members that it does not yet show its own core
included (R138). -/
def WorkGroup.bank (g : WorkGroup) : Memory := g.show_.scratch

/-- The byte at an address, at its home slice or bank. -/
def State.byteAt (s : State) : Addr → Byte
  | .phys pa => s.mem.byte pa
  | .scratch u off =>
    match s.wgs.look u with
    | some g => g.bank.byte off
    | none => 0

/-- Writes the bits of `mask` of one byte at its home slice or bank. -/
def State.putByte (s : State) (a : Addr) (b mask : Byte) : State :=
  match a with
  | .phys pa => { s with mem := s.mem.setByte pa (mergeByte (s.mem.byte pa) b mask) }
  | .scratch u off => s.modWg u fun g => g.show_.putScratch off b mask

/-- The bytes of an address up, as a number. -/
def State.valueAt (s : State) : Addr → (n : Nat) → Nat
  | .phys pa, n => s.mem.value pa n
  | .scratch u off, n =>
    match s.wgs.look u with
    | some g => g.bank.value off n
    | none => 0

/-- The i-th byte above an address. -/
def Addr.plus : Addr → Nat → Addr
  | .phys pa, i => .phys (pa + i)
  | .scratch u off, i => .scratch u (off + i)

/-- Whether a word of a run of scratchpad bytes is uncorrectable. -/
def WorkGroup.badRange (g : WorkGroup) (off len : Nat) : Bool :=
  g.damaged.any fun x => match x with
    | .scratch n => 0 < len && off / 4 ≤ n && n ≤ (off + len - 1) / 4
    | .tile _ => false

/-- An address that a reader gets an uncorrectable error for: a bad byte, a peer with no live route, a damaged word of a
scratchpad (R67, R463). -/
def State.badAddr (s : State) : Addr → Bool
  | .phys pa => (isPeer pa && !s.routes.contains (peerOf pa)) || s.badByte pa
  | .scratch u off =>
    match s.wgs.look u with
    | some g => g.badRange off 1
    | none => false

/-- Cause of kind 20 and location for an address (Table 19.2; Table 22.2, type 0x21). -/
def eccCause : Addr → Nat × Nat
  | .phys pa => (1, pa)
  | .scratch _ off => (0, off)

/-- The structure of an address in a pool; of a line its home slice says which (R67). -/
def eccCell : Addr → Option Cell
  | .phys _ => none
  | .scratch _ _ => some .scratchpad

/-- The first address of some that cannot be read. -/
def State.firstBad (s : State) (as : List Addr) : Addr := (as.find? s.badAddr).getD (as.headD (.phys 0))

/-- The record and the log of an error at an address, under a cause of Table 19.2 (R67). -/
def State.noteBad (s : State) (g : WorkGroup) (w : Warp) (a : Addr) (cause : Nat) : State :=
  s.noteEcc g w (eccCause a).2 cause (eccCell a)

/-- Whether the bytes of a write leave part of a damaged scratchpad word as it was: the write would merge with it (R67). -/
def State.merges (s : State) (bs : List (Addr × Byte × Byte)) : Option Addr :=
  (bs.find? fun b => match b.1 with
    | .phys _ => false
    | .scratch _ _ => s.badAddr b.1 &&
        (bs.filter fun x => wordOf x.1 == wordOf b.1 && x.2.2 == 0xFF).length < 4).map (·.1)

/-- The address at which a write cannot be performed: a peer that no live route reaches, part of a damaged granule or of a
line that cannot be filled, part of a damaged word (R67, R68, R463). -/
def State.badWrite (s : State) (bs : List (Addr × Byte × Byte)) : Option Addr :=
  ((bs.map (·.1)).find? fun a => match a with
    | .phys pa => isPeer pa && s.badAddr a
    | .scratch _ _ => false).or (((s.partWrites bs).map .phys).or (s.merges bs))

/-! ### Monitors (R161 to R163) -/

/-- Sets OrderExposed in the record of a launch (R221, R223). -/
def State.expose (s : State) (g : WorkGroup) : State :=
  s.modLaunch g.launch fun l => { l with orderExposed := true }

/-- Drops the L1 copy of one line. -/
def State.dropLine (s : State) (core line : Nat) : State :=
  s.modCore core fun k => { k with l1 := k.l1.del line }

/-- Ends a `monw`: D receives the value and D + 1 the status, 0 changed, 1 timeout, 2 no-entry (R321). A
changed return is an acquire at module scope (Table 5.6). -/
def State.endMonitor (s : State) (m : Monitor) (status : Nat) (value : Word) : State :=
  match s.wgs.look m.wg, s.warp? m.wg m.warp with
  | some g, some w =>
    let w := w.wrAll m.d 2 ((unitsOf m.d m.lanes).map fun l => (l, value.toNat + status * 2 ^ 32))
    let w := w.modSplit m.split fun sp => sp.next 8 (s.now g.core)
    if status = 0 then (s.setWarp m.wg m.warp (w.sync s.order)).acquire g.core g.launch
    else (s.setWarp m.wg m.warp w).expose g
  | _, _ => s

/-- Tests the monitors of a line after a write to it (R162): the woken ones end. Answers how many. -/
def State.testMonitors (s : State) (line : Nat) : Nat × State :=
  let die := homeDie (line * 128)
  let value (m : Monitor) : Word := BitVec.ofNat 32 (s.mem.value m.word 4)
  let woken := (s.die die).monitors.filter fun p =>
    p.2.word / 128 == line && value p.2 != p.2.x && p.2.woken.isNone
  let s' := s.modDie die fun d =>
    { d with monitors := d.monitors.filter fun p => !(woken.any fun q => q.1 == p.1) }
  (woken.length, woken.foldl (fun t p => t.endMonitor p.2 0 (value p.2)) s')

/-- Tests the monitors of the lines of some addresses, each line once. -/
def State.testAll (s : State) (as : List Addr) : State :=
  ((as.filterMap fun a => match a with
    | .phys pa => some (pa / 128)
    | .scratch _ _ => none).eraseDups).foldl (fun s line => (s.testMonitors line).2) s

/-- Notes for every launch that runs what a location held before it is written (R145). -/
def Launch.remember (l : Launch) (word : Nat) (value : Word) : Launch :=
  if l.started.isSome then { l with past := l.past.put word (some (Sparse.get [] l.past word ++ [value])) } else l

/-- The same for the locations of some addresses, each once. -/
def State.remember (s : State) (as : List Addr) : State :=
  { s with launches := s.launches.map fun p => (p.1, ((as.filterMap fun a => match a with
      | .phys pa => some (pa / 4)
      | .scratch _ _ => none).eraseDups).foldl
        (fun l n => l.remember n (BitVec.ofNat 32 (s.mem.value (4 * n) 4))) p.2) }

/-- Performs a write of bytes at a home slice or bank, under a cache hint: its lines are dirty there, and the monitors of
its lines test it (R51, R53, R162). -/
def State.writeUnder (s : State) (hint : Nat) (bs : List (Addr × Byte × Byte)) : State :=
  (bs.foldl (fun s b => s.putByte b.1 b.2.1 b.2.2) ((s.remember (bs.map (·.1))).dirtyLines hint bs)).testAll
    (bs.map (·.1))

/-- Performs a write of bytes at a home slice or bank. -/
def State.writeBytes (s : State) (bs : List (Addr × Byte × Byte)) : State := s.writeUnder 0 bs

/-- The n low bytes of a value as a write. -/
def valueBytes (a : Addr) (n x : Nat) : List (Addr × Byte × Byte) :=
  (bytesOfNat n x).zipIdx.map fun p => (a.plus p.2, p.1, 0xFF)

/-! ### Claims and locks (R140, R141, R168) -/

/-- A line in an ascending list without repeats. -/
def insertLine (n : Nat) : List Nat → List Nat
  | [] => [n]
  | m :: r => if n < m then n :: m :: r else if n = m then m :: r else m :: insertLine n r

/-- The lines of a transaction, ascending: the order in which a commit locks them (R167). -/
def Txn.lines (t : Txn) : List Nat := (t.readLines ++ t.writeLines).foldl (fun l n => insertLine n l) []

/-- The commit that has locked a line: work-group, warp, lane (R167). -/
def State.lockHolder (s : State) (line : Nat) : Option (Nat × Nat × Nat) :=
  (s.wgs.flatMap fun g => g.2.warps.zipIdx.flatMap fun w => w.1.txns.filterMap fun t =>
    match t.2.locks with
    | some n => if (t.2.lines.take n).contains line then some (g.1, w.2, t.1) else none
    | none => none).head?

/-- Whether a line or block is locked by a commit. -/
def State.lockedLoc (s : State) : Loc → Bool
  | .line n => (s.lockHolder n).isSome
  | .block _ _ => false

/-- Whether an access of a warp with a running number waits at its lines: for the claims of jobs in flight that were
recorded before it reached them, and for the locks of commits. A job of the warp's own later instructions does not hold it
(R139, R141, R168). -/
def State.claimed (s : State) (u i order : Nat) (arrived : Option Nat) (locs : List Loc) : Bool :=
  (s.jobs.any fun p =>
    let j := p.2
    !j.done && locs.any (fun x => j.claims.any (·.has x)) &&
      (match arrived with
        | some t => j.order < t
        | none => true) &&
      !(j.wg == u && j.warp == i && order < j.order)) || locs.any s.lockedLoc

/-- Whether a job in flight claims a line or block. -/
def State.hasClaim (s : State) (x : Loc) : Bool := s.jobs.any fun p => !p.2.done && p.2.claims.any (·.has x)

/-! ### The L1 (R49 to R51) -/

/-- The line an L1 serves to a launch (R144). -/
def Core.serves (k : Core) (line launch : Nat) : Option L1Line :=
  match k.l1.look line with
  | some x => if x.inv.isNone || x.inv == some launch then some x else none
  | none => none

/-- The nodes of the tree of a set's pseudo-LRU bits on the way to a way, each with its side (R49; log 10). -/
def plruPath (way : Nat) : List (Nat × Bool) :=
  let a := way / 4 % 2
  let b := way / 2 % 2
  [(0, a == 1), (1 + a, b == 1), (3 + 2 * a + b, way % 2 == 1)]

/-- The bits after a way has been used, which point away from it; or, for `low`, to it. -/
def plruTouch (bits : BitVec 7) (way : Nat) (low : Bool) : BitVec 7 :=
  (plruPath way).foldl (fun b p =>
    if p.2 == low then b ||| (1#7 <<< p.1) else b &&& ~~~(1#7 <<< p.1)) bits

/-- The way that the bits point to. -/
def plruVictim (bits : BitVec 7) : Nat :=
  let a := (bits.getLsbD 0).toNat
  let b := (bits.getLsbD (1 + a)).toNat
  4 * a + 2 * b + (bits.getLsbD (3 + 2 * a + b)).toNat

/-- A use of an L1 line: its set's bits point away from it. -/
def Core.touch (k : Core) (line : Nat) (low : Bool) : Core :=
  match k.l1.look line with
  | some x => { k with plru := k.plru.set 0 (line % 256) (plruTouch (k.plru.get 0 (line % 256)) x.way low) }
  | none => k

/-- Puts a line in the L1: in a free way of its set of 8, or over the one that the set's bits name; under the hint stream it
is the next to go (R49, R51). -/
def Core.fill (k : Core) (line : Nat) (bytes : List Byte) (inv : Option Nat) (stream : Bool) : Core :=
  let rest := k.l1.del line
  let set_ := rest.filter fun p => p.1 % 256 == line % 256
  let way := ((List.range 8).find? fun n => set_.all fun p => p.2.way != n).getD
    (plruVictim (k.plru.get 0 (line % 256)))
  let rest := rest.filter fun p => !(p.1 % 256 == line % 256 && p.2.way == way)
  { k with l1 := Sparse.ins line ⟨bytes, inv, way⟩ rest }.touch line stream

/-- Fills a line from its home slice; a line that a job claims is not installed (R143). -/
def State.fillL1 (s : State) (core line : Nat) (inv : Option Nat) (stream : Bool) : State :=
  if s.hasClaim (.line line) then s
  else s.modCore core fun k => k.fill line (s.mem.bytes (line * 128) 128) inv stream

/-- Lines of an instruction cache: 256 sets of 4 ways of 128 bytes. A full set loses a way (log 10). -/
def Core.fillCode (k : Core) (tick ctx line : Nat) (bytes : List Byte) : Core :=
  let set_ := k.icache.filter fun p => p.1 % 256 == line % 256
  let cache := if set_.length < 4 then k.icache
    else match set_[Config.victim tick % set_.length]? with
      | some p => k.icache.del p.1
      | none => k.icache
  { k with icache := cache.put (ctx * 2 ^ 52 + line) (some bytes) }

/-- Class of an active mask, as Table 22.2 codes it: 0 full, 1 half, 2 sparse, 3 single (R212). -/
def maskClass (lanes : Lanes) (width : Nat) : Nat :=
  let p := countLanes lanes
  if p = 1 then 3 else if 4 * p ≤ width then 2 else if 2 * p ≤ width then 1 else 0

/-- The trace that a split follows or builds at its pc: of fewer than 16 words, with the same lanes (R212). -/
def Core.onTrace (k : Core) (u i : Nat) (sp : Split) : Option Tracing :=
  k.tracing.find? fun t => t.wg == u && t.warp == i && t.split == sp.id && t.pc == sp.pc && t.lanes == sp.lanes &&
    t.words.length < 16

/-- The words of the next instruction of a split where a trace of the cache holds them: of the trace that it follows, or of
one that begins at its pc with its mask's class (R212). -/
def Core.traced (k : Core) (ctx u i width : Nat) (sp : Split) : Option (List Dword) :=
  let from_ (pc skip : Nat) : Option (List Dword) :=
    ((k.traces.find? fun t => t.ctx == ctx && t.pc == pc && t.class_ == maskClass sp.lanes width).bind fun t =>
      match t.words.drop skip with
      | [] => none
      | w :: r => if extCount w ≤ r.length then some (w :: r.take (extCount w)) else none)
  match k.onTrace u i sp with
  | some t => if t.hit then from_ (t.pc - 8 * t.words.length) t.words.length else none
  | none => from_ sp.pc 0

/-- Installs an instruction line that a core does not hold yet: splits whose next instruction it is, and which no trace
serves, are ready from then (R211). -/
def State.installCode (s : State) (core ctx line : Nat) (bytes : List Byte) : State :=
  let k := s.core core
  let new := (k.icache.look (ctx * 2 ^ 52 + line)).isNone
  let waits (u i width : Nat) (sp : Split) : Bool :=
    new && sp.wait.isNone && (k.traced ctx u i width sp).isNone &&
      match (s.translate core ctx sp.pc .execute (s.ctx ctx).privileged).1 with
      | .ok p => p.pa / 128 == line
      | .error _ => false
  let s' := s.modCore core fun k => k.fillCode s.tick ctx line bytes
  { s' with wgs := s'.wgs.map fun p =>
      if p.2.core == core && p.2.ctx == ctx && p.2.resident then
        (p.1, { p.2 with warps := p.2.warps.zipIdx.map fun w =>
          { w.1 with splits := w.1.splits.map fun sp =>
              if waits p.1 w.2 p.2.desc.width sp then { sp with readyAt := s.now core } else sp } })
      else p }

/-- Updates an L1 line in place on a store hit (R49). -/
def Core.update (k : Core) (bs : List StoreByte) : Core :=
  bs.foldl (fun k b =>
    match b.addr with
    | .phys pa =>
      match k.l1.look (pa / 128) with
      | some x =>
        let y := mergeByte (x.bytes.getD (pa % 128) 0) b.byte b.mask
        { k with l1 := k.l1.put (pa / 128) (some { x with bytes := x.bytes.set (pa % 128) y }) }.touch (pa / 128) false
      | none => k
    | .scratch _ _ => k) k

/-! ### What is on its way -/

/-- The addresses a queued operation touches. -/
def StoreOp.addrs : StoreOp → List Addr
  | .bytes bs => bs.map (·.addr)
  | .red k g => (List.range k.bytes).map g.addr.plus
  | .fence => []

/-- Whether a write of a core on its way touches a line or block. -/
def Core.travels (k : Core) (loc : Loc) : Bool :=
  k.outbound.any fun o => o.op.addrs.any fun a => locOf a == loc

/-- Whether writes of a warp below a running number are on their way (Table 5.4, die and module). -/
def Core.travelsFor (k : Core) (u i order : Nat) : Bool :=
  k.outbound.any fun o => o.wg == u && o.warp == i && o.order < order

/-- Whether a write of a core that left before a running number is on its way to the place of some addresses: a message sent
to that place then comes after it (R60). -/
def Core.sentBefore (k : Core) (order : Nat) (as : List Addr) : Bool :=
  k.outbound.any fun o => o.left < order && as.any fun a => placeOf a == placeOf (o.op.addrs.headD (.phys 0))

/-- Whether a producer accesses memory. -/
def Producer.memory (p : Producer) : Bool :=
  match p.work with
  | .values _ => false
  | .queued _ => false
  | _ => true

/-- Whether writes that a warp has acquired, or that come before its acquire-side events on its core, have not been
performed at a scope of die or wider (R134): those on their way from its core; and at system scope those of any core to the
host or a peer. -/
def State.acquiredPending (s : State) (core scope : Nat) (w : Warp) : Bool :=
  ((s.core core).outbound.any fun o => o.order < w.synced) ||
    (scope == 3 && ((s.peerPending.any fun p => p.2.2.2 < w.synced) ||
      s.cores.any fun k => k.2.outbound.any fun o => o.order < w.synced && o.op.addrs.any fun a =>
        match a with
        | .phys pa => !isHbm pa
        | .scratch _ _ => false))

/-- Every access of a warp below a running number is performed at a scope: 0 core, 1 die, 2 module,
3 system (Table 5.4), and every access that came before an acquire-side event of the warp (R134). -/
def State.performedAt (s : State) (core u i order scope : Nat) (w : Warp) : Bool :=
  !(w.storeQ.any fun e => e.order < order) && !(w.producers.any fun p => p.memory && p.order < order) &&
    (scope == 0 || (!(s.core core).travelsFor u i order && !s.acquiredPending core scope w)) &&
    (scope != 3 || !(s.peerPending.any fun p => p.2.1 == u && p.2.2.1 == i && p.2.2.2 < order))

/-! ### Atomics (R136, R137, R308, R309) -/

/-- One integer step: the location's new value. -/
def atomValue (k : AtomKind) (old : Nat) (l : AtomLane) : Nat :=
  let n := 8 * k.bytes
  let signed := k.type = 4 ∨ k.type = 6
  let less (a b : Nat) : Bool :=
    if signed then decide ((BitVec.ofNat n a).toInt < (BitVec.ofNat n b).toInt) else decide (a < b)
  match k.op with
  | 0 => (old + l.v) % 2 ^ n
  | 1 => if less l.v old then l.v else old
  | 2 => if less old l.v then l.v else old
  | 3 => old &&& l.v
  | 4 => old ||| l.v
  | 5 => old ^^^ l.v
  | 6 => l.v
  | _ => if old = l.v then l.new else old

/-- An integer group: its lanes one at a time, each returning the value before its own step. -/
def atomInt (k : AtomKind) : (lanes : List AtomLane) → (old : Nat) → Nat × List (Nat × Nat)
  | [], old => (old, [])
  | l :: r, old =>
    let (last, rets) := atomInt k r (atomValue k old l)
    (last, (l.lane, old) :: rets)

/-- The floating operation of an atomic. -/
def atomVal (k : AtomKind) (r : Dword) (a b : Val) : Val :=
  match k.op with
  | 0 => a.add (isRdn r) b
  | 1 => a.min b
  | _ => a.max b

/-- The later lanes of one element of a floating group: p so far; the returned codes and the last p. -/
def atomChain (k : AtomKind) (r : Dword) (j : Nat) (old : Val) :
    (lanes : List AtomLane) → (p : Val) → List (Nat × Nat) × Val
  | [], p => ([], p)
  | l :: rest, p =>
    let word := l.words.getD j 0
    let v := decodeCode r (elemOf l.v (Rec.w r) j)
    let ret := encodeVal r (atomVal k r old p) word
    let (rets, last) := atomChain k r j old rest (decodeCode r (encodeVal r (atomVal k r p v) word))
    ((l.lane, ret) :: rets, last)

/-- One element of a floating group (R137): the location's element, and each lane's returned code. -/
def atomElem (k : AtomKind) (r : Dword) (j old : Nat) (lanes : List AtomLane) : Nat × List (Nat × Nat) :=
  match lanes with
  | [] => (old, [])
  | l :: rest =>
    let o := decodeCode r (elemOf old (Rec.w r) j)
    let (rets, p) := atomChain k r j o rest (decodeCode r (elemOf l.v (Rec.w r) j))
    let last := (lanes.getLast?.getD l).words.getD j 0
    (encodeVal r (atomVal k r o p) last, (l.lane, elemOf old (Rec.w r) j) :: rets)

/-- A group on a location: its new value and each lane's returned value. The first lane of a floating
group receives the location as it is. -/
def atomGroup (k : AtomKind) (old : Nat) (lanes : List AtomLane) : Nat × List (Nat × Nat) :=
  match k.record with
  | none => atomInt k lanes old
  | some r =>
    let es := (List.range (Rec.ne r)).map fun j => atomElem k r j old lanes
    let ret (l : AtomLane) : Nat := packElems (Rec.w r) (es.map fun e =>
      ((e.2.find? fun p => p.1 == l.lane).map (·.2)).getD 0)
    (packElems (Rec.w r) (es.map (·.1)),
      lanes.zipIdx.map fun p => (p.1.lane, if p.2 = 0 then old else ret p.1))

/-- The values that a 32-bit location has held since a launch started, when the launch has read it with an invariant load
and it has been written (R145); none else. -/
def State.heldValues (s : State) (launch pa : Nat) : Option (List Word) :=
  match s.launches.look launch with
  | none => none
  | some x =>
    match Sparse.get [] x.past (pa / 4) with
    | [] => none
    | old => if x.invRead.contains (pa / 4) then some (old ++ [BitVec.ofNat 32 (s.mem.value (pa / 4 * 4) 4)]) else none

/-- A byte that a read of a launch returns in place of the one that stands there: after a violation of an invariant load,
one of those that the location has held (R145; log 81). `who` is the lane, 128 for an engine. -/
def State.heldByte (s : State) (launch who : Nat) (a : Addr) : Option Byte :=
  match a with
  | .phys pa => (s.heldValues launch pa).map fun vs =>
      BitVec.ofNat 8 ((vs.getD (Config.heldValue s.tick who (pa / 4) % vs.length) 0).toNat / 256 ^ (pa % 4))
  | .scratch _ _ => none

/-- The value that an atomic returns to a lane: the location's, but for bytes that R145 leaves open. -/
def State.heldReturn (s : State) (launch : Nat) (a : Addr) (n : Nat) (r : Nat × Nat) : Nat × Nat :=
  (r.1, natOfBytes ((bytesOfNat n r.2).zipIdx.map fun p => (s.heldByte launch r.1 (a.plus p.2)).getD p.1))

/-- Performs a group at its home slice or bank: every lane's returned value. The core's L1 copy of the
line is dropped (R49). -/
def State.performGroup (s : State) (core launch : Nat) (k : AtomKind) (g : AtomGroup) :
    List (Nat × Nat) × State :=
  let (x, rets) := atomGroup k (s.valueAt g.addr k.bytes) g.lanes
  let rets := rets.map (s.heldReturn launch g.addr k.bytes)
  let s := s.writeBytes (valueBytes g.addr k.bytes x)
  (rets, match g.addr with
    | .phys pa => s.dropLine core (pa / 128)
    | .scratch _ _ => s)

end Sys2Proof.Machine
end

