-- ==== Sys2Proof/Machine/Access.lean ====
section
/-! DEFINITION. The accesses of format M instructions: address forming (R243), the checks of every lane
before any access (R299), translation, transactions' line sets (R164 to R166), faults (R9, R27). -/

namespace Sys2Proof.Machine

/-! ### Addresses (R243) -/

/-- The signed index and byte offset of an access. -/
def Ctx.indexOf (c : Ctx) (f : FmtM) (l : Nat) : Int :=
  if f.indexEnable then toSigned (c.w.rd f.index l) else 0

def offsetOf (f : FmtM) : Int :=
  match f.ext with
  | some e => (e.extractLsb' 0 32).toInt
  | none => 0

/-- The base register, a pair in global space. -/
def Ctx.baseOf (c : Ctx) (f : FmtM) (l : Nat) : Nat :=
  if f.space = 0 then c.w.rd64 f.base l else (c.w.rd f.base l).toNat

/-- The modulus of an address in a space. -/
def spaceMod (f : FmtM) : Nat := if f.space = 0 then 2 ^ 64 else 2 ^ 32

/-- The bit address of a lane's access; every scale but ×w counts whole bytes. -/
def Ctx.bitOf (c : Ctx) (f : FmtM) (l w : Nat) : Nat :=
  let unit : Int := match f.scale.toNat with
    | 0 => 8
    | 1 => 32
    | 2 => 64
    | _ => w
  ((8 * ((c.baseOf f l : Int) + offsetOf f) + c.indexOf f l * unit) % (8 * spaceMod f : Nat)).toNat

/-- ea(l). -/
def Ctx.ea (c : Ctx) (f : FmtM) (l : Nat) : Nat := c.bitOf f l 0 / 8

/-! ### Checks (R299) -/

/-- What an instruction asks of one lane: its first byte, how many, the alignment. -/
structure Span where
  lane : Nat
  addr : Nat
  len : Nat
  align : Nat
  deriving DecidableEq, Repr

/-- Why a lane's access fails. -/
inductive Bad where
  /-- access fault: cause and address (Table 19.2) -/
  | access (cause : Nat) (address : Nat)
  /-- translation fault -/
  | miss (m : Miss)
  deriving DecidableEq, Repr

/-- How a lane accesses: the permission it needs, the access its leaf's A and D bits are set for at
once, and whether Type 2 pages are refused with a cause. -/
structure How where
  access : Access
  touch : Access
  /-- 5 refuses Type 2, host and peer pages; 6 refuses host pages -/
  refuse : Nat
  deriving DecidableEq, Repr

/-- Bytes of a work-group's scratchpad (R9, Table 2.1). -/
def WorkGroup.scratchSize (g : WorkGroup) : Nat := (g.desc.pool.extractLsb' 8 8).toNat * 16384

/-- The work-group and offset of a `.s` or `.gw` address, or the cause that refuses it (R9, R10). -/
def Ctx.scratchAt (c : Ctx) (space addr len : Nat) : Except Nat (Nat × Nat) :=
  if space = 1 then
    if addr + len ≤ c.g.scratchSize then .ok (c.uid, addr) else .error 0
  else if addr / 2 ^ 25 ≠ 0 then .error 1
  else
    match (c.s.gangOf c.g c.uid)[addr / 2 ^ 21 % 16]? with
    | none => .error 1
    | some u =>
      match c.s.wgs.look u with
      | some g => if addr % 2 ^ 21 + len ≤ g.scratchSize then .ok (u, addr % 2 ^ 21) else .error 0
      | none => .error 0

/-- First bytes of the pages a span of global addresses touches. -/
def pagesOf (addr len : Nat) : List Nat :=
  (List.range ((addr % 65536 + len + 65535) / 65536)).map fun i =>
    if i = 0 then addr else (addr / 65536 + i) * 65536

/-- Whether a translated page may be accessed so: not a firmware reserve (R56), and R161 or R310. -/
def refused (h : How) (p : Phys) : Option Nat :=
  if inReserve p.pa then some 4
  else if h.refuse = 5 ∧ (p.type = 2 ∨ !isHbm p.pa) then some 5
  else if h.refuse = 6 ∧ isHost p.pa then some 6
  else none

/-- The first failing check of the pages of a span. -/
def Ctx.badPage (c : Ctx) (h : How) : (pages : List Nat) → Option Bad
  | [] => none
  | va :: r =>
    match (c.s.translate c.g.core c.g.ctx va h.access c.privileged).1 with
    | .error m => some (.miss m)
    | .ok p =>
      match refused h p with
      | some cause => some (.access cause va)
      | none => c.badPage h r

/-- The first failing check of one lane: range, alignment, canonical form, pages. -/
def Ctx.badSpan (c : Ctx) (h : How) (space : Nat) (x : Span) : Option Bad :=
  if space ≠ 0 then
    match c.scratchAt space x.addr x.len with
    | .error cause => some (.access cause x.addr)
    | .ok _ => if x.addr % x.align ≠ 0 then some (.access 2 x.addr) else none
  else if x.addr % x.align ≠ 0 then some (.access 2 x.addr)
  else if 2 ^ 57 < x.addr + x.len ∨ 2 ^ 57 ≤ x.addr then some (.access 3 x.addr)
  else c.badPage h (pagesOf x.addr x.len)

/-- What a failing instruction reports: the fault of its lowest failing non-helper lane, and every lane
that fails by an access fault. -/
def Ctx.failing (c : Ctx) (h : Nat → How) (space : Nat) (xs : List Span) : Option (Nat × Bad × Lanes) :=
  let bad := xs.filterMap fun x =>
    if c.helper x.lane then none else (c.badSpan (h x.lane) space x).map fun b => (x.lane, b)
  match bad with
  | [] => none
  | (l, b) :: _ => some (l, b, maskOf (bad.map (·.1)))

/-! ### Faults -/

/-- Ends the transactions of the split's lanes with code fault, also those of lanes whose own access did not fail, since
the split replays whole at the `txb` (R170, R405; DESIGN CHOICE, log 131). -/
def Ctx.endTxs (c : Ctx) : Ctx :=
  let lanes := (lanesOf c.sp.lanes).filter fun l => (c.w.txns.look l).isSome
  if lanes.isEmpty then c
  else
    let w := lanes.foldl (fun w l => w.endTx l 10 0) c.w
    let s := (c.s.setWarp c.uid c.wi w).noteAborts c.g w (lanes.map fun l => (l, 10))
    { c with s := s, w := w }

/-- Parks the split on a translation fault of the die where it was issued (R27). -/
def Ctx.parkFault (c : Ctx) (m : Miss) (access : Access) (engine : Bool) (lanes : Lanes) : Res :=
  let c := c.endTxs
  let (n, s) := c.s.postFault ⟨c.g.core, c.w.sub, c.w.slot, engine⟩ c.g.ctx m access
  .next (s.setWarp c.uid c.wi (c.w.modSplit c.sp.id fun sp =>
    { sp with wait := some (.parked (c.g.core / 64) n m access lanes), arrived := none }))

/-- The fault of an access: a table in a firmware reserve is one of the access, not of the translation (R56). -/
def Ctx.faultOf (c : Ctx) (bad : Bad) (lanes : Lanes) (access : Access) (engine : Bool) : Res :=
  match bad with
  | .access cause address => c.endTxs.access cause lanes address
  | .miss m => if m.type = 5 then c.endTxs.access 4 lanes m.va else c.parkFault m access engine lanes

/-! ### Translated targets -/

/-- One byte run of a lane, translated: an address per byte, whether the L1 caches it, Type 2. -/
structure Target where
  lane : Nat
  va : Nat
  addrs : List Addr
  type : Nat
  /-- a helper lane whose access fails -/
  bad : Bool
  deriving DecidableEq, Repr

/-- Translates the pages of a span, with the effects on the TLBs and the A and D bits. -/
def State.translatePages (s : State) (core ctx : Nat) (access : Access) (priv : Bool) :
    (pages : List Nat) → List (Nat × Phys) × State
  | [] => ([], s)
  | va :: r =>
    let (x, s) := s.translate core ctx va access priv
    let (xs, s) := s.translatePages core ctx access priv r
    (match x with
      | .ok p => (va / 65536, p) :: xs
      | .error _ => xs, s)

/-- The physical bytes of a span whose pages are translated. -/
def physBytes (pages : List (Nat × Phys)) (addr len : Nat) : List Addr :=
  (List.range len).filterMap fun i =>
    (pages.find? fun p => p.1 == (addr + i) / 65536).map fun p =>
      .phys (p.2.pa / 65536 * 65536 + (addr + i) % 65536)

/-- The target of one span that passed its checks. -/
def Ctx.target (c : Ctx) (s : State) (access : Access) (space : Nat) (x : Span) : Target × State :=
  if space ≠ 0 then
    match c.scratchAt space x.addr x.len with
    | .ok (u, off) => (⟨x.lane, x.addr, (List.range x.len).map fun i => .scratch u (off + i), 0, false⟩, s)
    | .error _ => (⟨x.lane, x.addr, [], 0, true⟩, s)
  else
    let (ps, s) := s.translatePages c.g.core c.g.ctx access c.privileged (pagesOf x.addr x.len)
    (⟨x.lane, x.addr, physBytes ps x.addr x.len, (ps.map fun p => p.2.type).foldl max 0, false⟩, s)

/-- The targets of the spans, lane by lane; a helper lane that fails has none. -/
def Ctx.targets (c : Ctx) (s : State) (h : Nat → How) (space : Nat) :
    (xs : List Span) → List Target × State
  | [] => ([], s)
  | x :: r =>
    let (t, s) := if (c.badSpan (h x.lane) space x).isSome then (⟨x.lane, x.addr, [], 0, true⟩, s)
      else c.target s (h x.lane).touch space x
    let (ts, s) := c.targets s h space r
    (t :: ts, s)

/-! ### Transactions (R165, R166) -/

/-- Whether a lane is in a transaction. -/
def Ctx.inTx (c : Ctx) (l : Nat) : Bool := (c.w.txns.look l).isSome

/-- The lines of a target. -/
def Target.lines (t : Target) : List Nat :=
  (t.addrs.filterMap fun a => match a with
    | .phys pa => some (pa / 128)
    | .scratch _ _ => none).eraseDups

/-- Lines added to a set that does not hold them. -/
def addLines (set lines : List Nat) : List Nat := set ++ lines.filter fun x => !set.contains x

/-- The code that ends a lane's transaction at an access of its own: uncached, then capacity. -/
def txCode (t : Txn) (store : Bool) (x : Target) : Option Nat :=
  if x.type = 2 then some 8
  else if store then (if 4 < (addLines t.writeLines x.lines).length then some 6 else none)
  else if 8 < (addLines t.readLines x.lines).length then some 5 else none

/-- The transaction with the lines of an access. -/
def Txn.touch (t : Txn) (store : Bool) (x : Target) : Txn :=
  if store then { t with writeLines := addLines t.writeLines x.lines,
                         pages := addLines t.pages [x.va / 65536 * 65536] }
  else { t with readLines := addLines t.readLines x.lines }

/-- Two transactions conflict: one writes a line the other holds (R166). -/
def Txn.conflicts (a b : Txn) : Bool :=
  a.writeLines.any (fun x => b.readLines.contains x || b.writeLines.contains x) ||
    b.writeLines.any fun x => a.readLines.contains x

/-- The lanes that a conflict ends: of lanes that conflict, the lowest goes on (R166). A lane that conflicts only with one
that ends goes on too (DESIGN CHOICE, log 132). -/
def conflictLosers (txns : List (Nat × Txn)) : List Nat :=
  (txns.foldl (fun (acc : List (Nat × Txn) × List Nat) p =>
    if acc.1.any fun q => q.2.conflicts p.2 then (acc.1, acc.2 ++ [p.1])
    else (acc.1 ++ [p], acc.2)) ([], [])).2

/-- The aborts that an access causes: lanes by code, and the warp whose other transactions hold its
lines. -/
def Ctx.txAborts (c : Ctx) (store : Bool) (ts : List Target) : List (Nat × Nat) × Warp :=
  let mine := ts.filter fun x => c.inTx x.lane && !c.helper x.lane
  let codes := mine.filterMap fun x =>
    (c.w.txns.look x.lane).bind fun t => (txCode t store x).map fun k => (x.lane, k)
  let w := mine.foldl (fun (w : Warp) x =>
    if codes.any (·.1 == x.lane) then w
    else { w with txns := w.txns.modify x.lane fun t => t.touch store x }) c.w
  let open_ := w.txns.filter fun p => !(codes.any (·.1 == p.1))
  (codes ++ (conflictLosers open_).map fun l => (l, 2), w)

/-- A plain access of a kind; in a transaction it needs both R and W, and D waits for the commit (R18,
R22). -/
def Ctx.how (c : Ctx) (access : Access) (l : Nat) : How :=
  if c.inTx l && !c.helper l then ⟨.atomic, .read, 0⟩ else ⟨access, access, 0⟩

/-- The checks and translation that come before a load or store: faults end the instruction, conflicts
take their lanes out of it, and `body` goes on with the lanes that are left and their targets. `xs` are
checked, `units` access (R230). -/
def Ctx.accessing (c : Ctx) (h : Nat → How) (space : Nat) (store : Bool) (xs : List Span)
    (units : List Nat) (body : Ctx → List Target → Res) : Res :=
  match c.failing h space xs with
  | some (l, b, lanes) => c.faultOf b lanes (h l).access false
  | none =>
    let (ts, s) := c.targets c.s h space (xs.filter fun x => units.contains x.lane)
    let (codes, w) := c.txAborts store ts
    let s := (s.setWarp c.uid c.wi w).abortCodes c.uid c.wi codes 0
    match ctxOf s with
    | some c' => body { c' with slots := c.slots } (ts.filter fun t => c'.sp.lanes.getLsbD t.lane)
    | none => .next s

end Sys2Proof.Machine
end

