-- ==== Sys2Proof/Machine/Memory.lean ====
section
/-! DEFINITION. Loads, stores, packed forms, prefetches and fences (file 13, R301 to R306). -/

namespace Sys2Proof.Machine

/-! ### Loads -/

/-- Bytes a size moves (R301). -/
def sizeBytes (size : BitVec 4) : Nat :=
  match size.toNat with
  | 0 => 1
  | 1 => 1
  | 2 => 2
  | 3 => 2
  | 4 => 4
  | 5 => 8
  | _ => 16

/-- Whether the first byte is another gang member's scratchpad. -/
def Ctx.remote (c : Ctx) (addrs : List Addr) : Bool :=
  match addrs.head? with
  | some (.scratch u _) => u != c.uid
  | _ => false

/-- Whether an acquire of a scope drops L1 lines and reads at the home slice (R130). -/
def acquiresWide (f : FmtM) : Bool := (f.order == 1 || f.order == 3) && f.scope != 0

/-- The acquire scope of an access plus one, 0 for one without (R130). -/
def acquireOf (f : FmtM) : Nat := if f.order == 1 || f.order == 3 then f.scope.toNat + 1 else 0

/-- A lane's part of a load. -/
def Ctx.loadLane (c : Ctx) (f : FmtM) (shift : Nat → Nat) (t : Target) : LoadLane :=
  let tx := c.inTx t.lane && !c.helper t.lane
  { lane := t.lane, va := t.va, addrs := t.addrs, shift := shift t.lane, zero := t.bad, hint := f.hint.toNat,
    home := tx || acquiresWide f || f.hint == 2 || t.type != 0 || c.remote t.addrs,
    strict := t.type == 2, tx := tx }

/-- Issues a load of n registers per lane: D is empty until its producer completes (R184, R301). -/
def Ctx.load (c : Ctx) (i : Instr) (f : FmtM) (n : Nat) (shape : Shape) (shift : Nat → Nat)
    (xs : List Span) : Res :=
  c.accessing (c.how .read) f.space.toNat false xs (unitsOf f.data (c.execs i)) fun c ts =>
    if ts.isEmpty then c.skip i
    else
      let (order, s) := c.s.stamp
      let work : Work := .load (ts.map (c.loadLane f shift)) f.data shape (f.order == 4) (acquireOf f)
      c.done i s (c.produce c.w (destKeys f.data n (ts.map (·.lane))) work order)

/-- The spans of an unpacked access. -/
def Ctx.spans (c : Ctx) (i : Instr) (f : FmtM) (n align : Nat) : List Span :=
  (lanesOf (c.execs i)).map fun l => ⟨l, c.ea f l, n, align⟩

/-- How `ld` extends a value (R301). -/
def loadShape (size : BitVec 4) : Shape :=
  match size.toNat with
  | 1 => .signed 8
  | 3 => .signed 16
  | _ => .plain (sizeRegs size)

/-- ld (R301, R302). -/
def execLd (f : FmtM) (s : State) : Res :=
  issue (.ld f) s fun c =>
    let n := sizeBytes f.size
    c.load (.ld f) f (sizeRegs f.size) (loadShape f.size) (fun _ => 0) (c.spans (.ld f) f n n)

/-! ### Stores (R125, R126) -/

/-- Adds one lane's byte to the bytes of an instruction: a later lane's bits replace an earlier one's. -/
def addByte (bs : List StoreByte) (a : Addr) (lane : Nat) (b mask : Byte) : List StoreByte :=
  if bs.any fun x => x.addr == a then
    bs.map fun x => if x.addr == a then
      { x with lanes := x.lanes ||| laneBit lane, byte := mergeByte x.byte b mask, mask := x.mask ||| mask }
      else x
  else bs ++ [⟨a, laneBit lane, b, mask⟩]

/-- The bytes of a lane's value with the bits they write. -/
def laneBytes (addrs : List Addr) (value bits : Nat) : List (Addr × Byte × Byte) :=
  addrs.zipIdx.map fun p => (p.1, BitVec.ofNat 8 (value / 256 ^ p.2), BitVec.ofNat 8 (bits / 256 ^ p.2))

/-- A store of one lane: its target, value, and the bits it writes. -/
structure LaneStore where
  target : Target
  value : Nat
  bits : Nat

/-- The merged bytes of lanes' stores, in ascending lane order. -/
def mergeStores (xs : List LaneStore) : List StoreByte :=
  xs.foldl (fun bs x =>
    (laneBytes x.target.addrs x.value x.bits).foldl (fun bs p => addByte bs p.1 x.target.lane p.2.1 p.2.2) bs) []

/-- Whether an instruction's bytes cover the 128-byte line of an address (R68). -/
def coversLine (bs : List StoreByte) (a : Addr) : Bool :=
  (bs.filter fun b => locOf b.addr == locOf a && b.mask == 0xFF).length == 128

/-- The store queue entries of an instruction, one per location, in ascending lane order: a split's, under a cache hint. -/
def storeEntries (bs : List StoreByte) (release hint split order : Nat) (va : Addr → Nat)
    (bypass strict : Addr → Bool) : List StoreEntry :=
  ((bs.map fun b => wordOf b.addr).eraseDups).map fun a =>
    { op := .bytes (bs.filter fun b => wordOf b.addr == a), va := va a, release := release, bypass := bypass a,
      strict := strict a, full := coversLine bs a, hint := hint, split := split, order := order, arrived := none }

/-- Release scope plus one of an access, 0 for one without (R129). -/
def releaseOf (f : FmtM) : Nat := if f.order == 2 || f.order == 3 then f.scope.toNat + 1 else 0

/-- Buffers a transactional lane's bytes in its write set (R165). -/
def Warp.buffer (w : Warp) (x : LaneStore) : Warp :=
  { w with txns := w.txns.modify x.target.lane fun t =>
      { t with writes := t.writes ++ (laneBytes x.target.addrs x.value x.bits).filterMap fun p =>
          match p.1 with
          | .phys pa => some (pa, p.2.1, p.2.2)
          | .scratch _ _ => none } }

/-- Whether a transactional load of the warp is in flight: a store of a transaction waits for it. -/
def Warp.txLoads (w : Warp) : Bool :=
  w.producers.any fun p =>
    match p.work with
    | .load lanes _ _ _ _ => lanes.any (·.tx)
    | _ => false

/-- Whether a page type of some lane's target at an address holds. -/
def typeAt (xs : List LaneStore) (p : Nat → Bool) (a : Addr) : Bool :=
  xs.any fun x => p x.target.type && x.target.addrs.any fun b => wordOf b == a

/-- The address by which the lowest lane names a location. -/
def vaAt (xs : List LaneStore) (a : Addr) : Nat :=
  match xs.find? fun x => x.target.addrs.any fun b => wordOf b == a with
  | some x => x.target.va
  | none => 0

/-- Issues a store: transactional lanes buffer, the others enter the store queue (R126, R165). -/
def Ctx.store (c : Ctx) (i : Instr) (f : FmtM) (value : Ctx → Nat → Nat) (bits : Nat → Nat)
    (xs : List Span) : Res :=
  if c.w.txLoads && xs.any fun x => c.inTx x.lane then c.block
  else c.accessing (c.how .write) f.space.toNat true xs (xs.map (·.lane)) fun c ts =>
    let all := ts.map fun t => (⟨t, value c t.lane, bits t.lane⟩ : LaneStore)
    let w := (all.filter fun x => c.inTx x.target.lane).foldl Warp.buffer c.w
    let plain := all.filter fun x => !c.inTx x.target.lane
    let (order, s) := c.s.stamp
    let entries := storeEntries (mergeStores plain) (releaseOf f) f.hint.toNat c.sp.id order (vaAt plain)
      (fun a => f.hint == 2 || typeAt plain (· != 0) a) (typeAt plain (· == 2))
    c.done i s { w with storeQ := w.storeQ ++ entries }

/-- The spans of a store: helper lanes store nothing (R177). -/
def Ctx.storeSpans (c : Ctx) (xs : List Span) : List Span := xs.filter fun x => !c.helper x.lane

/-- st (R301). -/
def execSt (f : FmtM) (s : State) : Res :=
  issue (.st f) s fun c =>
    let n := sizeBytes f.size
    c.store (.st f) f (fun c l => c.w.rdN f.data l (sizeRegs f.size)) (fun _ => 256 ^ n - 1)
      (c.storeSpans (c.spans (.st f) f n n))

/-! ### Packed forms (R303, R304, R90 to R92) -/

/-- Elements a packed access moves per lane. -/
def packedCount (r : Dword) (f : FmtM) : Nat := (f.count.toNat + 1) * Rec.ne r

/-- Bits of the run. -/
def packedBits (r : Dword) (f : FmtM) : Nat := packedCount r f * Rec.w r

/-- The spans of a packed access: every byte that holds a bit of the run (R91). -/
def Ctx.packedSpans (c : Ctx) (i : Instr) (f : FmtM) (r : Dword) : List Span :=
  (lanesOf (c.execs i)).map fun l =>
    let b := c.bitOf f l (Rec.w r)
    ⟨l, b / 8, (b % 8 + packedBits r f + 7) / 8, 1⟩

/-- Bits below a lane's run in its first byte. -/
def Ctx.bitShift (c : Ctx) (f : FmtM) (r : Dword) (l : Nat) : Nat := c.bitOf f l (Rec.w r) % 8

/-- The stream bits of a lane's registers, unused high bits left out (R89, R303). -/
def Ctx.packedValue (c : Ctx) (f : FmtM) (r : Dword) (l : Nat) : Nat :=
  let k := recRegs r
  let bits := Rec.ne r * Rec.w r
  ((List.range (f.count.toNat + 1)).map fun j =>
    c.w.rdN (plusReg f.data (k * j)) l k % 2 ^ bits * 2 ^ (bits * j)).sum

/-- ldf (R303). -/
def execLdf (f : FmtM) (s : State) : Res :=
  issue (.ldf f) s fun c =>
    let r := c.record f.f.toNat
    c.load (.ldf f) f (recRegs r * (f.count.toNat + 1)) (.packed (Rec.w r) (f.count.toNat + 1))
      (c.bitShift f r) (c.packedSpans (.ldf f) f r)

/-- stf (R303). -/
def execStf (f : FmtM) (s : State) : Res :=
  issue (.stf f) s fun c =>
    let r := c.record f.f.toNat
    c.store (.stf f) f (fun c' l => c'.packedValue f r l * 2 ^ c.bitShift f r l)
      (fun l => (2 ^ packedBits r f - 1) * 2 ^ c.bitShift f r l)
      (c.storeSpans (c.packedSpans (.stf f) f r))

/-! ### Prefetches (R305) -/

/-- Prefetches one address: a failed translation drops it (R35), and a claimed, travelling or damaged line
is not installed. -/
def Ctx.prefOne (c : Ctx) (f : FmtM) (code : Bool) (s : State) (va : Nat) : State :=
  let (x, s') := s.translate c.g.core c.g.ctx va (if code then .execute else .read) c.privileged
  match x with
  | .error _ => s
  | .ok p =>
    let line := p.pa / 128
    if s'.badAddr (.phys p.pa) then s'.noteBad c.g c.w (.phys p.pa) 1
    else
      let t := s'.touchLines f.hint.toNat [.phys p.pa]
      if code then
        t.installCode c.g.core c.g.ctx line (s.mem.bytes (line * 128) 128)
      else if f.hint == 2 || p.type != 0 || s.claimed c.uid c.wi s.order none [.line line] ||
          (s.core c.g.core).travels (.line line) || ((s.core c.g.core).serves line c.g.launch).isSome then t
      else t.fillL1 c.g.core line none (f.hint == 1)

/-- A prefetch: canonical form and the firmware reserve are checked, translation faults are not. -/
def Ctx.prefetch (c : Ctx) (i : Instr) (f : FmtM) (code : Bool) : Res :=
  let h : Nat → How := fun _ => if code then ⟨.execute, .execute, 0⟩ else ⟨.read, .read, 0⟩
  let xs := c.spans i f 1 1
  let bad := xs.filterMap fun x => if c.helper x.lane then none else
    match c.badSpan (h x.lane) 0 x with
    | some (.access cause a) => some (x.lane, cause, a)
    | some (.miss m) => if m.type = 5 then some (x.lane, 4, x.addr) else none
    | none => none
  match bad with
  | (_, cause, a) :: _ => c.access cause (maskOf (bad.map (·.1))) a
  | [] =>
    let ok := xs.filter fun x => (c.badSpan (h x.lane) 0 x).isNone
    let s := ok.foldl (fun s x => c.prefOne f code s x.addr) c.s
    c.done i s (c.warpIn s)

/-- pref (R305). -/
def execPref (f : FmtM) (s : State) : Res := issue (.pref f) s fun c => c.prefetch (.pref f) f false

/-- ipref (R305). -/
def execIpref (f : FmtM) (s : State) : Res := issue (.ipref f) s fun c => c.prefetch (.ipref f) f true

/-! ### fence (R132, R306) -/

/-- Loads and atomics of the warp that have no value yet. -/
def Warp.reading (w : Warp) : Bool := w.producers.any Producer.memory

/-- fence: an acquire waits for values and drops L1 lines; a release stands in the store queue; acq-rel
waits for both (Table 5.5). -/
def execFence (f : FmtM) (s : State) : Res :=
  issue (.fence f) s fun c =>
    let dropped := if f.scope = 0 then c.s else c.s.acquire c.g.core c.g.launch
    let synced := (c.warpIn dropped).sync c.s.order
    if c.execs (.fence f) = 0 then c.skip (.fence f)
    else if f.order = 1 then
      if c.w.reading then c.block else c.done (.fence f) dropped synced
    else if f.order = 2 then
      let (order, s) := c.s.stamp
      c.done (.fence f) s { c.w with storeQ := c.w.storeQ ++
        [⟨.fence, 0, f.scope.toNat + 1, false, false, false, 0, c.sp.id, order, none⟩] }
    else if c.s.performedAt c.g.core c.uid c.wi c.s.order f.scope.toNat c.w then
      c.done (.fence f) dropped synced
    else c.block

end Sys2Proof.Machine
end

