-- ==== Sys2Proof/Machine/Atomic.lean ====
section
/-! DEFINITION. Atomics and delayed scaling (file 13, R307 to R310, R313; file 04, R106 to R108). -/

namespace Sys2Proof.Machine

/-! ### Waits at the home slice -/

/-- Every earlier access of the warp is performed at every scope: what an engine job and a synchronous
operation at a home slice wait for (R126, R139). -/
def Ctx.quiet (c : Ctx) : Bool := c.s.performedAt c.g.core c.uid c.wi c.s.order 3 c.w

/-- The split waits at claimed lines; its first arrival there is numbered (R141). -/
def Ctx.blockAt (c : Ctx) (locs : List Loc) : Res :=
  let (n, s) := c.s.stamp
  let arrived := c.sp.arrived.getD (n, locs)
  .next (s.setWarp c.uid c.wi (c.w.modSplit c.sp.id fun sp =>
    { sp with wait := some .retry, arrived := some arrived }))

/-- The trap of an instruction that meets an uncorrectable line or scratchpad word, in place of its effect (R67, R463). -/
def Ctx.eccTrap (c : Ctx) (ts : List Target) : Option Res :=
  let bad := ts.filter fun t => t.addrs.any c.s.badAddr
  match bad with
  | [] => none
  | t :: _ =>
    let a := c.s.firstBad t.addrs
    let c := { c with s := c.s.noteBad c.g c.w a (eccCause a).1 }
    some (c.takes { c.mkTrap 20 (eccCause a).1 (maskOf (bad.map (·.lane))) none with address := t.va })

/-- The lines and blocks of targets. -/
def targetLocs (ts : List Target) : List Loc := (ts.flatMap fun t => t.addrs.map locOf).eraseDups

/-- Waits for the claims on the lines of targets, then meets their errors, then goes on (R141, R67). -/
def Ctx.claimsThen (c : Ctx) (ts : List Target) (go : Res) : Res :=
  if c.s.claimed c.uid c.wi c.s.order (c.sp.arrived.map (·.1)) (targetLocs ts) then
    c.blockAt (targetLocs ts)
  else (c.eccTrap ts).getD go

/-- Goes on once earlier accesses of the warp are performed and no claim holds the lines (R141). -/
def Ctx.reach (c : Ctx) (ts : List Target) (go : Res) : Res :=
  if c.quiet then c.claimsThen ts go else c.block

/-- Whether stores of the warp to the lines of targets, or of the core to their home slices, have not been performed there
(R60, R126). -/
def Ctx.storesTo (c : Ctx) (ts : List Target) : Bool :=
  (c.w.storeQ.any fun e => e.op.addrs.any fun a => (targetLocs ts).contains (locOf a)) ||
    ts.any fun t => (c.s.core c.g.core).sentBefore c.s.order t.addrs

/-- The same for a read at the home slice: earlier reads have their values and the core's stores to the
lines are performed (R126). -/
def Ctx.reachRead (c : Ctx) (ts : List Target) (go : Res) : Res :=
  if c.w.reading || c.storesTo ts then c.block else c.claimsThen ts go

/-! ### atom, red, cas -/

/-- The lanes that take part: no helper lane, and the lowest lane of a uniform one (R136, R230, R310). -/
def Ctx.participants (c : Ctx) (i : Instr) (d : BitVec 8) : List Nat :=
  let lanes := c.execs i
  let live := lanes &&& ~~~c.w.helpers
  if isScalar d then (if live = 0 then [] else (lanesOf lanes).take 1) else lanesOf live

/-- The permission of an atomic; a host page takes cause atomic-range (R310). -/
def atomHow : Nat → How := fun _ => ⟨.atomic, .atomic, 6⟩

/-- The lane's part of an atomic: operand, new value of `cas`, draw words. -/
def Ctx.atomLane (c : Ctx) (f : FmtMO) (k : AtomKind) (l : Nat) : AtomLane :=
  let n := k.bytes / 4
  { lane := l, v := c.w.rdN (Oper.op1 f) l n, new := c.w.rdN (Oper.op2 f) l n,
    words := match k.record with
      | some r => if Rec.round r = 5 then (List.range (Rec.ne r)).map (c.draw l) else []
      | none => [] }

/-- The groups of an atomic, by address, each lane once, ascending (R136). -/
def groupLanes (ts : List Target) (part : Nat → AtomLane) : List AtomGroup :=
  ((ts.map (·.va)).eraseDups).filterMap fun va =>
    let mine := ts.filter fun t => t.va == va
    match mine.head?.bind (·.addrs.head?) with
    | some a => some ⟨a, va, mine.map fun t => part t.lane⟩
    | none => none

/-- What is common to an atomic: its operation, record or type, and size. -/
def Ctx.atomKind (c : Ctx) (f : FmtMO) (cas : Bool) : AtomKind :=
  { op := if cas then 7 else Oper.operation f
    record := if Oper.float f then some (c.record f.m.f.toNat) else none
    type := f.m.f.toNat, bytes := sizeBytes f.m.size }

/-- The warp after the participating lanes have drawn (R309). -/
def Ctx.atomDrawn (c : Ctx) (k : AtomKind) (lanes : List Nat) : Warp :=
  match k.record with
  | some r => c.drawn r (Rec.ne r) lanes
  | none => c.w

/-- The spans of an atomic: a naturally aligned location per lane. -/
def Ctx.atomSpans (c : Ctx) (f : FmtMO) (k : AtomKind) (lanes : List Nat) : List Span :=
  lanes.map fun l => ⟨l, c.ea f.m l, k.bytes, k.bytes⟩

/-- The checks of an atomic: the width of a floating record (R309), then R299; then its groups. -/
def Ctx.atomic (c : Ctx) (f : FmtMO) (k : AtomKind) (lanes : List Nat)
    (go : List Target → List AtomGroup → State → Res) : Res :=
  if (match k.record with
      | some r => decide (32 < Rec.w r)
      | none => false) then c.fault 10 10 (maskOf lanes) f.m.f.toNat
  else
    let xs := c.atomSpans f k lanes
    match c.failing atomHow f.m.space.toNat xs with
    | some (_, b, bad) => c.faultOf b bad .atomic false
    | none =>
      let (ts, s) := c.targets c.s atomHow f.m.space.toNat xs
      go ts (groupLanes ts (c.atomLane f k)) s

/-- `atom` and `cas`: D is empty until every group is performed; the region closes (R307, R314). Returned
values expose the order of a deterministic launch (R223). -/
def Ctx.returning (c : Ctx) (i : Instr) (f : FmtMO) (cas : Bool) : Res :=
  let k := c.atomKind f cas
  let lanes := c.participants i f.m.data
  c.atomic f k lanes fun _ groups s =>
    let n := k.bytes / 4
    let w := c.atomDrawn k lanes
    let idle := (unitsOf f.m.data (c.execs i)).filter fun l => !lanes.contains l
    let w := w.wrAll f.m.data n (idle.map fun l => (l, 0))
    if lanes.isEmpty then c.doneRegion i s w
    else
      let (order, s) := (s.expose c.g).stamp
      c.doneRegion i s (c.produce w (destKeys f.m.data n lanes)
        (.atomic groups [] f.m.data k (releaseOf f.m) (acquireOf f.m)) order)

/-- atom (R307). -/
def execAtom (f : FmtMO) (s : State) : Res := issue (.atom f) s fun c => c.returning (.atom f) f false

/-- cas (R307). -/
def execCas (f : FmtMO) (s : State) : Res := issue (.cas f) s fun c => c.returning (.cas f) f true

/-- The logical core of a work-group, which staging is kept by (R222). -/
def stageCore (g : WorkGroup) : Nat := g.lcore

/-- Adds a lane's elements to the exact accumulators of its (logical core, address, record) (R222). -/
def Context.stage (k : Context) (launch core va : Nat) (r : Dword) (vs : List Val) : Context :=
  let key (p : Nat × Nat × Nat × Dword × List Val) : Bool :=
    p.1 == launch && p.2.1 == core && p.2.2.1 == va && p.2.2.2.1 == r
  if k.staged.any key then
    { k with staged := k.staged.map fun p =>
        if key p then (launch, core, va, r, List.zipWith (Val.add (isRdn r)) p.2.2.2.2 vs) else p }
  else { k with staged := k.staged ++ [(launch, core, va, r, vs)] }

/-- The elements of a lane's operand. -/
def laneVals (r : Dword) (v : Nat) : List Val :=
  (List.range (Rec.ne r)).map fun j => decodeCode r (elemOf v (Rec.w r) j)

/-- Whether a `red` is staged: floating add to a global location in a deterministic launch (R222, R309). -/
def Ctx.stages (c : Ctx) (f : FmtMO) : Bool :=
  c.context.deterministic && f.m.space == 0 && Oper.float f && Oper.operation f == 0

/-- red: its groups enter the store queue, or are staged (R307, R222). -/
def execRed (f : FmtMO) (s : State) : Res :=
  issue (.red f) s fun c =>
    let k := c.atomKind f false
    let lanes := lanesOf (c.execs (.red f) &&& ~~~c.w.helpers)
    c.atomic f k lanes fun ts groups s =>
      let w := c.atomDrawn k lanes
      if c.stages f then
        let r := c.record f.m.f.toNat
        c.doneRegion (.red f) (ts.foldl (fun s t => s.modCtx c.g.ctx fun x =>
          x.stage c.g.launch (stageCore c.g) t.va r (laneVals r (c.atomLane f k t.lane).v)) s) w
      else
        let (order, s) := s.stamp
        let strict (g : AtomGroup) : Bool :=
          ts.any fun t => t.type == 2 && t.addrs.head? == some g.addr
        c.doneRegion (.red f) s { w with storeQ := w.storeQ ++ groups.map fun g =>
          { op := .red k g, va := g.va, release := releaseOf f.m, bypass := true, strict := strict g, full := false,
            hint := 0, split := c.sp.id, order := order, arrived := none } }

/-! ### Delayed-scaling entries (Table 4.4) -/

/-- Bits of an entry. -/
def entryBits (e lo n : Nat) : Nat := e / 2 ^ lo % 2 ^ n

/-- An entry with n bits at lo replaced. -/
def setEntry (e lo n x : Nat) : Nat := e - entryBits e lo n * 2 ^ lo + x % 2 ^ n * 2 ^ lo

/-- The largest s with m × 2^s ≤ top, for positive m and top. -/
def largestScale (m top : Q) : Int := (top.div m).log2

/-- The maximum of the magnitudes of ring slots; a NaN makes it NaN. -/
def ringMax (e head count : Nat) : Val :=
  (List.range count).foldl (fun m i =>
    m.max (decodeVal binary32 false (entryBits e (32 * ((head + 11 - i) % 12)) 32)).abs) (.zero false)

/-- The advance of R108 under the sampled record of the entry's slot. -/
def advanceEntry (e : Nat) (r : Dword) : Nat :=
  let h := entryBits e 416 4 % 12
  let count := min (min (entryBits e 420 4) 12 + 1) 12
  let head := (h + 1) % 12
  let e := setEntry e (32 * h) 32 (entryBits e 384 32)
  let e := setEntry (setEntry (setEntry e 416 4 head) 420 4 count) 384 32 0
  let e := setEntry e 448 32 (entryBits e 448 32 + 1)
  let top := Rec.maxFinite r
  match ringMax e head count with
  | .fin m =>
    if entryBits e 441 1 = 0 ∧ Q.lt ⟨0, 1⟩ m ∧ Q.lt ⟨0, 1⟩ top then
      let x := max (-126) (min (largestScale m top) 127)
      setEntry e 424 8 ((x % 256).toNat)
    else e
  | _ => e

/-- Advances the entry at a home slice; the check code of its slot's record when that fails. -/
def State.advance (s : State) (core : Nat) (slots : List Dword) (a : Addr) : Option (Nat × Nat) × State :=
  let e := s.valueAt a 64
  let slot := entryBits e 432 4
  let r := slots.getD slot 0
  if Rec.check r ≠ 0 then (some (slot, Rec.check r), s)
  else
    let s := s.writeBytes (valueBytes a 64 (advanceEntry e r))
    (none, match a with
      | .phys pa => s.dropLine core (pa / 128)
      | .scratch _ _ => s)

/-- Advances the entries of targets in order; the first failing lane's slot and code, and all failing
lanes. -/
def State.advances (s : State) (core : Nat) (slots : List Dword) :
    (gs : List (Addr × List Nat)) → List (Nat × Nat × Nat) × State
  | [] => ([], s)
  | (a, lanes) :: r =>
    let (bad, s) := s.advance core slots a
    let (bads, s) := s.advances core slots r
    (match bad with
      | some (slot, code) => lanes.map (fun l => (l, slot, code)) ++ bads
      | none => bads, s)

/-- Entries once each, with the lanes that name them. -/
def entryGroups (ts : List Target) : List (Addr × List Nat) :=
  ((ts.map (·.va)).eraseDups).filterMap fun va =>
    let mine := ts.filter fun t => t.va == va
    (mine.head?.bind (·.addrs.head?)).map fun a => (a, mine.map (·.lane))

/-- amxadv: each distinct entry advances once; a failing record's fault comes after, its resume point
behind the instruction (R108, R313). -/
def execAmxadv (f : FmtM) (s : State) : Res :=
  issue (.amxadv f) s fun c =>
    let lanes := lanesOf (c.execs (.amxadv f) &&& ~~~c.w.helpers)
    let xs : List Span := lanes.map fun l => ⟨l, c.ea f l, 64, 64⟩
    match c.failing atomHow 0 xs with
    | some (_, b, bad) => c.faultOf b bad .atomic false
    | none =>
      let (ts, s) := c.targets c.s atomHow 0 xs
      let gs := entryGroups ts
      c.reach ts
        (let (bads, s) := s.advances c.g.core c.slots gs
         match c.doneRegion (.amxadv f) s (c.warpIn s) with
         | .next s =>
           match bads.find? fun b => bads.all fun x => b.1 ≤ x.1 with
           | some (_, slot, code) =>
             .next (s.takeTrap c.uid c.wi
               { c.mkTrap 10 code (maskOf (bads.map (·.1))) (some ((c.sp.pc + sizeOf (.amxadv f)) % 2 ^ 57))
                 with unit := slot })
           | none => .next s
         | r => r)

/-- The permission of a read at the home slice. -/
def readHow : Nat → How := fun _ => ⟨.read, .read, 0⟩

/-- sclget: ScaleExp read at the home slice, sign-extended (R313). -/
def execSclget (f : FmtM) (s : State) : Res :=
  issue (.sclget f) s fun c =>
    let xs : List Span := (lanesOf (c.execs (.sclget f))).map fun l => ⟨l, c.ea f l, 64, 64⟩
    match c.failing readHow 0 xs with
    | some (_, b, bad) => c.faultOf b bad .read false
    | none =>
      let units := unitsOf f.data (c.execs (.sclget f))
      let (ts, s) := c.targets c.s readHow 0 (xs.filter fun x => units.contains x.lane)
      c.reachRead ts
        (let value (t : Target) : Nat := match t.addrs.head? with
          | some a => ((BitVec.ofNat 8 (entryBits (s.valueAt a 64) 424 8)).signExtend 32).toNat
          | none => 0
         let s := ts.foldl (fun s t => t.lines.foldl (fun s line => s.dropLine c.g.core line) s)
           (s.touchLines 0 (ts.flatMap (·.addrs)))
         c.done (.sclget f) s (c.w.wrAll f.data 1 (ts.map fun t => (t.lane, value t))))

end Sys2Proof.Machine
end

