-- ==== Sys2Proof/Machine/Bacel.lean ====
section
/-! DEFINITION. The Bacel form (file 23, Table 23.6, R458, R459): a module's text, its checks, the instances of its
statements, the order of its schedule tree, what running it writes, and where a kernel translated from it finds its
arguments. The manual gives Table 23.6 and an example; the letters of the text between them are log 146. -/

namespace Sys2Proof.Machine.Bacel

/-- A name: its letters. -/
abbrev Name := List Char

/-- Values of iterators and parameters. -/
abbrev Env := List (Name × Int)

/-- An affine expression: a sum of multiples of names, and a constant. -/
structure Aff where
  terms : List (Name × Int)
  const : Int
  deriving DecidableEq, Repr

/-- What an element is: of a slot's preset record, or of an integer type. -/
inductive Elem where
  | slot (n : Nat)
  | int (t : BitVec 4)
  deriving DecidableEq, Repr

/-- An array: its elements, its extents, and the argument that holds its base. -/
structure ArrayOf where
  name : Name
  elem : Elem
  dims : List Aff
  arg : Nat
  deriving DecidableEq, Repr

/-- A reference: an affine map from an instance to an element. -/
structure Ref where
  array : Name
  index : List Aff
  deriving DecidableEq, Repr

/-- An operand: a reference; or an iterator, a parameter, a constant. -/
inductive Operand where
  | ref (r : Ref)
  | value (a : Aff)
  deriving DecidableEq, Repr

/-- The operations of a statement. -/
inductive Op where
  | fadd | fsub | fmul | ffma | fmin | fmax | fcvt | iadd | isub | imul | imin | imax | mov
  deriving DecidableEq, Repr

/-- A statement: its iterators, its domain as expressions that are not negative there, what it writes, its operation with
its suffix, the source slot of `fcvt`, its operands. -/
structure Stmt where
  name : Name
  iters : List Name
  domain : List Aff
  dest : Ref
  op : Op
  suffix : Elem
  source : Nat
  args : List Operand
  deriving DecidableEq, Repr

/-- A schedule tree (R458). A sequence is `first` and `rest`, ended by `done`. -/
inductive Tree where
  /-- no order below here -/
  | leaf
  | band (iters : List Name) (exprs : List Aff) (below : Tree)
  | sequence (first rest : Tree)
  | done
  | filter (names : List Name) (below : Tree)
  | mark (below : Tree)
  deriving DecidableEq, Repr

/-- A module. -/
structure Module where
  params : List Name
  arrays : List ArrayOf
  stmts : List Stmt
  schedule : Tree
  deriving DecidableEq, Repr

/-! ### Affine expressions -/

namespace Aff

def num (n : Int) : Aff := ⟨[], n⟩

def var (x : Name) : Aff := ⟨[(x, 1)], 0⟩

def scale (n : Int) (a : Aff) : Aff := ⟨a.terms.map fun t => (t.1, n * t.2), n * a.const⟩

def add (a b : Aff) : Aff := ⟨a.terms ++ b.terms, a.const + b.const⟩

def sub (a b : Aff) : Aff := a.add (b.scale (-1))

/-- The product, when one side is a number. -/
def mul (a b : Aff) : Option Aff :=
  if a.terms.isEmpty then some (b.scale a.const) else if b.terms.isEmpty then some (a.scale b.const) else none

/-- How often a name counts. -/
def coef (a : Aff) (x : Name) : Int := ((a.terms.filter fun t => t.1 == x).map (·.2)).sum

def names (a : Aff) : List Name := a.terms.map (·.1)

def eval (a : Aff) (e : Env) : Int := (a.terms.map fun t => t.2 * ((e.lookup t.1).getD 0)).sum + a.const

end Aff

/-! ### Instances -/

/-- Rows over some variables, each with a constant: the sum of the products is not negative. -/
abbrev Rows := List (List Int × Int)

/-- Removes variable k from rows: those without it, and each pair that bounds it from below and above. -/
def eliminate (k : Nat) (rows : Rows) : Rows :=
  let c (r : List Int × Int) : Int := r.1.getD k 0
  (rows.filter fun r => c r == 0) ++
    (rows.filter fun r => 0 < c r).flatMap fun lo => (rows.filter fun r => c r < 0).map fun hi =>
      (List.zipWith (fun a b => -c hi * a + c lo * b) lo.1 hi.1, -c hi * lo.2 + c lo * hi.2)

/-- The rows of a domain over its iterators, under values of the parameters. -/
def Stmt.rows (x : Stmt) (e : Env) : Rows :=
  x.domain.map fun a =>
    (x.iters.map a.coef, Aff.eval ⟨a.terms.filter fun t => !x.iters.contains t.1, a.const⟩ e)

/-- What remains of rows for variable k alone of n. -/
def project (n k : Nat) (rows : Rows) : Rows :=
  ((List.range n).filter (· != k)).foldl (fun rs j => eliminate j rs) rows

/-- Whether a domain bounds each of its iterators from below and above (R459). -/
def Stmt.bounded (x : Stmt) : Bool :=
  (List.range x.iters.length).all fun k =>
    let rs := project x.iters.length k (x.rows [])
    (rs.any fun r => 0 < r.1.getD k 0) && rs.any fun r => r.1.getD k 0 < 0

/-- The values that variable k may take by the rows that remain for it. -/
def range (k : Nat) (rows : Rows) : List Int :=
  let lows := (rows.filter fun r => 0 < r.1.getD k 0).map fun r => -(r.2 / r.1.getD k 0)
  let highs := (rows.filter fun r => r.1.getD k 0 < 0).map fun r => r.2 / -(r.1.getD k 0)
  match lows, highs with
  | l :: ls, h :: hs =>
    let lo := ls.foldl max l
    (List.range (hs.foldl min h - lo + 1).toNat).map fun (i : Nat) => lo + (i : Int)
  | _, _ => []

/-- The points of a box, the first coordinate slowest. -/
def box : List (List Int) → List (List Int)
  | [] => [[]]
  | r :: rest => r.flatMap fun x => (box rest).map (x :: ·)

/-- A statement with the values of its iterators. -/
structure Instance where
  stmt : Stmt
  point : List Int
  deriving DecidableEq, Repr

/-- The values of names in an instance. -/
def Instance.env (x : Instance) (params : Env) : Env := x.stmt.iters.zip x.point ++ params

/-- The instances of a statement: the points of its domain. -/
def Stmt.instances (x : Stmt) (params : Env) : List Instance :=
  let rows := x.rows params
  ((box ((List.range x.iters.length).map fun k => range k (project x.iters.length k rows))).map
    fun p => (⟨x, p⟩ : Instance)).filter fun i => x.domain.all fun a => 0 ≤ a.eval (i.env params)

/-- The instances of a module. -/
def Module.instances (m : Module) (params : Env) : List Instance := m.stmts.flatMap fun x => x.instances params

/-! ### The order of the schedule tree (R458) -/

/-- The value of a band's expression in an instance: a name of the band is the statement's iterator of that name, or else
the one at its place. -/
def bandEnv (iters : List Name) (x : Instance) (params : Env) : Env :=
  x.env params ++ (iters.zip x.point)

/-- Where the tree puts an instance: what its bands and sequences say of it, outermost first; none where no part of the
tree holds its statement. A mark says nothing. -/
def Tree.place (x : Instance) (params : Env) : Tree → Option (List Int)
  | .leaf => some []
  | .band iters exprs below => (below.place x params).map (exprs.map (·.eval (bandEnv iters x params)) ++ ·)
  | .sequence first rest =>
    match first.place x params with
    | some p => some (0 :: p)
    | none => (rest.place x params).map (1 :: ·)
  | .done => none
  | .filter names below => if names.contains x.stmt.name then below.place x params else none
  | .mark below => below.place x params

/-- Lexicographic order. -/
def lexBefore : List Int → List Int → Bool
  | a :: r, b :: q => a < b || (a == b && lexBefore r q)
  | _, _ => false

/-- Whether the tree orders one instance before another. -/
def Module.before (m : Module) (params : Env) (x y : Instance) : Bool :=
  match m.schedule.place x params, m.schedule.place y params with
  | some p, some q => lexBefore p q
  | _, _ => false

/-- Puts an instance behind those that do not come after it. -/
def Module.insert (m : Module) (params : Env) (x : Instance) : List Instance → List Instance
  | [] => [x]
  | y :: r => if m.before params x y then x :: y :: r else y :: m.insert params x r

/-- An order of a module's instances that the tree allows. -/
def Module.order (m : Module) (params : Env) : List Instance :=
  (m.instances params).foldl (fun l x => m.insert params x l) []

/-! ### What an instance writes (Tables 10.1 and 11.1) -/

/-- Bits of an element. -/
def Elem.width : Elem → Nat
  | .slot n => Rec.w (presetSlots.getD n 0)
  | .int t => typeBits t

def Module.array (m : Module) (x : Name) : Option ArrayOf := m.arrays.find? fun a => a.name == x

/-- Row-major number of an element. -/
def flat (e : Env) : (dims : List Aff) → (index : List Aff) → (n : Int) → Int
  | d :: ds, i :: is, n => flat e ds is (n * d.eval e + i.eval e)
  | _, _, n => n

/-- Where an element stands: its first byte's global address, the bit in it, its width. Elements of fewer than 8 bits are
packed from bit 0 up. -/
def Module.element (m : Module) (bases : List Nat) (params e : Env) (r : Ref) : Nat × Nat × Nat :=
  match m.array r.array with
  | none => (0, 0, 0)
  | some a =>
    let w := a.elem.width
    let bits := flat e (a.dims.map fun d => Aff.num (d.eval params)) r.index 0 * w
    (((bases.getD a.arg 0 + bits / 8) % 2 ^ 64).toNat, (bits % 8).toNat, w)

/-- Bytes that an element of a width touches. -/
def touched (bit w : Nat) : Nat := (bit + w + 7) / 8

/-- An element's code in memory. -/
def readElem (mem : Memory) (x : Nat × Nat × Nat) : Nat := mem.value x.1 (touched x.2.1 x.2.2) >>> x.2.1 % 2 ^ x.2.2

/-- Memory with an element's code written. -/
def writeElem (mem : Memory) (x : Nat × Nat × Nat) (code : Nat) : Memory :=
  let n := touched x.2.1 x.2.2
  let old := mem.value x.1 n
  mem.setValue x.1 n (old - old >>> x.2.1 % 2 ^ x.2.2 * 2 ^ x.2.1 + code % 2 ^ x.2.2 * 2 ^ x.2.1)

/-- One operation on codes, with the preset record or the type of its suffix and no destination modifier. -/
def Stmt.result (x : Stmt) (args : List Nat) : Nat :=
  let arg (i : Nat) : Nat := args.getD i 0
  match x.suffix with
  | .slot n =>
    let r := presetSlots.getD n 0
    let v (i : Nat) : Val := decodeCode r (arg i % 2 ^ Rec.w r)
    let put (y : Val) : Nat := encodeVal r y 0
    match x.op with
    | .fadd => put ((v 0).add (Rec.round r == 3) (v 1))
    | .fsub => put ((v 0).add (Rec.round r == 3) (v 1).neg)
    | .fmul => put ((v 0).mul (v 1))
    | .ffma => put (fmaVal (Rec.round r == 3) (v 0) (v 1) (v 2))
    | .fmin => put (minMaxVal false false (v 0) (v 1))
    | .fmax => put (minMaxVal true false (v 0) (v 1))
    | .fcvt =>
      let q := presetSlots.getD x.source 0
      put (decodeCode q (arg 0 % 2 ^ Rec.w q))
    | _ => arg 0
  | .int t =>
    let v (i : Nat) : Int := asType t (arg i)
    let put (y : Int) : Nat := (y % 2 ^ typeBits t).toNat
    match x.op with
    | .iadd => put (v 0 + v 1)
    | .isub => put (v 0 - v 1)
    | .imul => put (v 0 * v 1)
    | .imin => put (min (v 0) (v 1))
    | .imax => put (max (v 0) (v 1))
    | _ => arg 0

/-- What an operand is worth: an element's code, or a number as a register holds it. -/
def Module.operand (m : Module) (bases : List Nat) (params e : Env) (mem : Memory) : Operand → Nat
  | .ref r => readElem mem (m.element bases params e r)
  | .value a => (a.eval e % 2 ^ 64).toNat

/-- Runs one instance on the bytes of global memory, by virtual address. -/
def Module.exec (m : Module) (bases : List Nat) (params : Env) (mem : Memory) (x : Instance) : Memory :=
  let e := x.env params
  writeElem mem (m.element bases params e x.stmt.dest)
    (x.stmt.result (x.stmt.args.map (m.operand bases params e mem)))

/-- Runs instances in an order. -/
def Module.runAll (m : Module) (bases : List Nat) (params : Env) (l : List Instance) (mem : Memory) : Memory :=
  l.foldl (m.exec bases params) mem

/-- The module's meaning: every instance is executed exactly once, in an order that the tree gives (R458). -/
def Module.Meaning (m : Module) (bases : List Nat) (params : Env) (mem mem' : Memory) : Prop :=
  ∃ l : List Instance, l.Perm (m.instances params) ∧ (l.Pairwise fun x y => m.before params y x = false) ∧
    mem' = m.runAll bases params l mem

/-- The elements that an instance accesses, with whether it writes them. -/
def Module.accesses (m : Module) (bases : List Nat) (params : Env) (x : Instance) : List ((Nat × Nat × Nat) × Bool) :=
  let e := x.env params
  (m.element bases params e x.stmt.dest, true) :: x.stmt.args.filterMap fun a =>
    match a with
    | .ref r => some (m.element bases params e r, false)
    | .value _ => none

/-- Whether two instances access a common element that at least one of them writes. -/
def Module.conflict (m : Module) (bases : List Nat) (params : Env) (x y : Instance) : Bool :=
  (m.accesses bases params x).any fun a => (m.accesses bases params y).any fun b => a.1 == b.1 && (a.2 || b.2)

/-- The orders in which a translated kernel may execute the instances: each once, any two that conflict in the order of the
tree (R459). -/
def Module.Legal (m : Module) (bases : List Nat) (params : Env) (l : List Instance) : Prop :=
  l.Perm (m.instances params) ∧
    l.Pairwise fun x y => m.conflict bases params x y = true → m.before params y x = false

/-! ### The emitted kernel's arguments (R458) -/

/-- Array arguments of a module. -/
def Module.argCount (m : Module) : Nat := m.arrays.foldl (fun n a => max n (a.arg + 1)) 0

/-- The bytes that Args points to: 8 per array argument, then 8 per parameter, in declaration order. -/
def argsBytes (bases : List Nat) (values : List Int) : List Byte :=
  bases.flatMap (bytesOfNat 8) ++ values.flatMap fun x => bytesOfNat 8 (x % 2 ^ 64).toNat

/-- The bases that a kernel finds at Args. -/
def Module.basesAt (m : Module) (mem : Memory) (args : Nat) : List Nat :=
  (List.range m.argCount).map fun i => mem.value (args + 8 * i) 8

/-- The parameters' values that it finds behind them, as 64-bit signed integers. -/
def Module.paramsAt (m : Module) (mem : Memory) (args : Nat) : Env :=
  m.params.zipIdx.map fun p => (p.1, (BitVec.ofNat 64 (mem.value (args + 8 * (m.argCount + p.2)) 8)).toInt)

/-- What the kernel translated from a module makes of global memory, by its Args: what the module means. -/
def Module.kernel (m : Module) (args : Nat) (mem : Memory) : Memory :=
  m.runAll (m.basesAt mem args) (m.paramsAt mem args) (m.order (m.paramsAt mem args)) mem

/-! ### The text (Table 23.6) -/

/-- A token of a line. -/
inductive Tok where
  | name (x : Name)
  | num (n : Nat)
  | sym (c : Name)
  /-- a text in quotes -/
  | text
  deriving DecidableEq, Repr

def isLetter (c : Char) : Bool := c.isAlpha || c == '_'

/-- Splits a line into tokens up to a comment; none at a character that no construct has. -/
def lex : (fuel : Nat) → List Char → Option (List Tok)
  | 0, _ => none
  | _ + 1, [] => some []
  | n + 1, c :: r =>
    if c == ';' then some []
    else if c == ' ' || c == '\t' || c == '\r' then lex n r
    else if isLetter c then
      let tail := r.takeWhile fun x => isLetter x || x.isDigit
      (lex n (r.drop tail.length)).map (.name (c :: tail) :: ·)
    else if c.isDigit then
      let tail := r.takeWhile (·.isDigit)
      let value := (c :: tail).foldl (fun v x => 10 * v + (x.toNat - 48)) 0
      (lex n (r.drop tail.length)).map (.num value :: ·)
    else if c == '"' then
      let body := r.takeWhile (· != '"')
      if body.length == r.length then none else (lex n (r.drop (body.length + 1))).map (.text :: ·)
    else
      let two := [[':', '='], ['-', '>'], ['<', '='], ['>', '=']]
      match r with
      | d :: q =>
        if two.contains [c, d] then (lex n q).map (.sym [c, d] :: ·)
        else if one.contains c then (lex n r).map (.sym [c] :: ·) else none
      | [] => if one.contains c then some [.sym [c]] else none
where
  /-- the signs of one character; 123 and 125 are the braces -/
  one : List Char := ['[', ']', '(', ')', Char.ofNat 123, Char.ofNat 125, ':', ',', '.', '<', '>', '=', '+', '-', '*']

/-- What a part of a line reads as, with the tokens behind it. -/
abbrev Parse (α : Type) := Option (α × List Tok)

/-- As many calls as reading some tokens takes. -/
def fuelFor (ts : List Tok) : Nat := 4 * ts.length + 8

/-- One sign. -/
def eat (c : Char) : List Tok → Option (List Tok)
  | .sym [d] :: r => if c == d then some r else none
  | _ => none

mutual

/-- An expression: terms joined by + and −. -/
def affine (fuel : Nat) (ts : List Tok) : Parse Aff :=
  match fuel with
  | 0 => none
  | n + 1 =>
    match ts with
    | .sym ['-'] :: r => (product n r).bind fun p => sums n (p.1.scale (-1)) p.2
    | _ => (product n ts).bind fun p => sums n p.1 p.2

/-- The rest of a sum. -/
def sums (fuel : Nat) (a : Aff) (ts : List Tok) : Parse Aff :=
  match fuel with
  | 0 => none
  | n + 1 =>
    match ts with
    | .sym ['+'] :: r => (product n r).bind fun p => sums n (a.add p.1) p.2
    | .sym ['-'] :: r => (product n r).bind fun p => sums n (a.sub p.1) p.2
    | _ => some (a, ts)

/-- Factors joined by *, of which at most one is no number. -/
def product (fuel : Nat) (ts : List Tok) : Parse Aff :=
  match fuel with
  | 0 => none
  | n + 1 =>
    match factor n ts with
    | some (a, .sym ['*'] :: r) => (product n r).bind fun p => (a.mul p.1).map fun x => (x, p.2)
    | p => p

/-- A number, a name, an expression in parentheses. -/
def factor (fuel : Nat) (ts : List Tok) : Parse Aff :=
  match fuel with
  | 0 => none
  | n + 1 =>
    match ts with
    | .num k :: r => some (.num k, r)
    | .name x :: r => some (.var x, r)
    | .sym ['('] :: r => (affine n r).bind fun p => (eat ')' p.2).map fun q => (p.1, q)
    | _ => none

end

/-- Parts in brackets, one behind another. -/
def indexes (fuel : Nat) (ts : List Tok) : Parse (List Aff) :=
  match fuel with
  | 0 => none
  | n + 1 =>
    match ts with
    | .sym ['['] :: r =>
      (affine n r).bind fun p => (eat ']' p.2).bind fun q => (indexes n q).map fun l => (p.1 :: l.1, l.2)
    | _ => some ([], ts)

/-- Parts joined by commas. -/
def commas (one : List Tok → Parse α) (fuel : Nat) (ts : List Tok) : Parse (List α) :=
  match fuel with
  | 0 => none
  | n + 1 =>
    match one ts with
    | some (x, .sym [','] :: r) => (commas one n r).map fun p => (x :: p.1, p.2)
    | some (x, r) => some ([x], r)
    | none => none

/-- A name. -/
def aName : List Tok → Parse Name
  | .name x :: r => some (x, r)
  | _ => none

/-- A list in brackets, which may be empty. -/
def listed (one : List Tok → Parse α) (close : Char) (ts : List Tok) : Parse (List α) :=
  match eat close ts with
  | some r => some ([], r)
  | none => (commas one (fuelFor ts) ts).bind fun p => (eat close p.2).map fun r => (p.1, r)

/-- What a comparison of two expressions says is not negative. -/
def compared (c : Name) (a b : Aff) : Option (List Aff) :=
  match c with
  | ['<', '='] => some [b.sub a]
  | ['<'] => some [(b.sub a).add (.num (-1))]
  | ['>', '='] => some [a.sub b]
  | ['>'] => some [(a.sub b).add (.num (-1))]
  | ['='] => some [a.sub b, b.sub a]
  | _ => none

/-- The rest of a chain of comparisons from an expression on, and of those joined by `and`. -/
def constraints (fuel : Nat) (a : Aff) (first : Bool) (ts : List Tok) : Parse (List Aff) :=
  match fuel with
  | 0 => none
  | n + 1 =>
    match ts with
    | .sym c :: r =>
      match affine n r with
      | some (b, q) =>
        match compared c a b with
        | some l => (constraints n b false q).map fun p => (l ++ p.1, p.2)
        | none => if first then none else some ([], ts)
      | none => if first then none else some ([], ts)
    | .name ['a', 'n', 'd'] :: r =>
      if first then none else (affine n r).bind fun p => constraints n p.1 true p.2
    | _ => if first then none else some ([], ts)

/-- A reference, an iterator, a parameter, a constant. -/
def anOperand : List Tok → Parse Operand
  | .name x :: .sym ['['] :: r =>
    (indexes (fuelFor r) (.sym ['['] :: r)).map fun p => (.ref ⟨x, p.1⟩, p.2)
  | .name x :: r => some (.value (.var x), r)
  | .num n :: r => some (.value (.num n), r)
  | .sym ['-'] :: .num n :: r => some (.value (.num (-n)), r)
  | _ => none

/-- A number in decimal letters. -/
def decimal (cs : List Char) : Option Nat :=
  if cs.isEmpty || cs.any (fun c => !c.isDigit) then none
  else some (cs.foldl (fun v x => 10 * v + (x.toNat - 48)) 0)

/-- A slot whose preset is a record, or a type of Table 9.5 by its spelling or its element's. -/
def elemOfName (x : Name) : Option Elem :=
  match x with
  | 'f' :: r => (decimal r).bind fun n => if n < 8 then some (.slot n) else none
  | _ =>
    ([("i8x4", 0), ("i8", 0), ("n8x4", 1), ("n8", 1), ("i16x2", 2), ("i16", 2), ("n16x2", 3), ("n16", 3), ("i32", 4),
      ("n32", 5), ("i64", 6), ("n64", 7), ("b32", 8)].find? fun (p : String × Nat) => p.1.toList == x).map
      fun p => .int (BitVec.ofNat 4 p.2)

/-- The operations by name, with their operands and whether they take a slot. -/
def opNamed (x : Name) : Option (Op × Nat × Option Bool) :=
  ([("fadd", .fadd, 2, some true), ("fsub", .fsub, 2, some true), ("fmul", .fmul, 2, some true),
    ("ffma", .ffma, 3, some true), ("fmin", .fmin, 2, some true), ("fmax", .fmax, 2, some true),
    ("fcvt", .fcvt, 1, some true), ("iadd", .iadd, 2, some false), ("isub", .isub, 2, some false),
    ("imul", .imul, 2, some false), ("imin", .imin, 2, some false), ("imax", .imax, 2, some false),
    ("mov", .mov, 1, none)].find? fun (p : String × Op × Nat × Option Bool) => p.1.toList == x).map (·.2)

/-- Whether a suffix is of the kind an operation takes; `mov` takes none. -/
def suits (kind : Option Bool) : Option Elem → Option Elem
  | some (.slot n) => if kind == some true then some (.slot n) else none
  | some (.int t) => if kind == some false && t != 8 then some (.int t) else none
  | none => if kind.isNone then some (.int 8) else none

/-- The slot that a last operand of `fcvt` names. -/
def sourceSlot (m : Module) (args : List Operand) : Option (List Operand × Nat) :=
  match args with
  | [.ref r, .value ⟨[(x, 1)], 0⟩] =>
    match elemOfName x with
    | some (.slot n) => some ([.ref r], n)
    | _ => none
  | [.ref r] =>
    match m.array r.array with
    | some ⟨_, .slot n, _, _⟩ => some ([.ref r], n)
    | _ => none
  | _ => none

/-- Whether a reference names an array in its rank, with iterators and parameters. -/
def Module.fits (m : Module) (iters : List Name) (r : Ref) : Bool :=
  match m.array r.array with
  | some a => a.dims.length == r.index.length &&
      r.index.all fun i => i.names.all fun x => iters.contains x || m.params.contains x
  | none => false

/-- The checks of R459 on a statement. -/
def Module.sound (m : Module) (x : Stmt) : Bool :=
  let known (a : Aff) : Bool := a.names.all fun n => x.iters.contains n || m.params.contains n
  x.domain.all known && m.fits x.iters x.dest && x.bounded &&
    x.args.all fun o => match o with
      | .ref r => m.fits x.iters r
      | .value a => known a

/-- The end of a statement: its operation, suffix and operands. -/
def operation (m : Module) (name : Name) (iters : List Name) (domain : List Aff) (dest : Ref) (ts : List Tok) :
    Option Stmt :=
  match ts with
  | .name o :: r =>
    (opNamed o).bind fun op =>
      let (suffix, r) := match r with
        | .sym ['.'] :: .name x :: q => (elemOfName x, q)
        | _ => (none, r)
      match suits op.2.2 suffix, commas anOperand (fuelFor r) r with
      | some e, some (args, []) =>
        let (args, source) := if op.1 == .fcvt then (sourceSlot m args).getD ([], 0) else (args, 0)
        let x : Stmt := ⟨name, iters, domain, dest, op.1, e, source, args⟩
        if args.length == op.2.1 && m.sound x then some x else none
      | _, _ => none
  | _ => none

/-- A statement's line behind `stmt`. -/
def aStmt (m : Module) (ts : List Tok) : Option Stmt :=
  match ts with
  | .name s :: .sym [b] :: .sym ['['] :: r =>
    if b != Char.ofNat 123 then none
    else
      (listed aName ']' r).bind fun its => (eat ':' its.2).bind fun q =>
        (affine (fuelFor q) q).bind fun a => (constraints (fuelFor q) a.1 true a.2).bind fun cs =>
          (eat (Char.ofNat 125) cs.2).bind fun t => (eat ':' t).bind fun u =>
            match anOperand u with
            | some (.ref dest, .sym [':', '='] :: v) => operation m s its.1 cs.1 dest v
            | _ => none
  | _ => none

/-- A parameter, an array or a statement. -/
def construct (m : Module) (ts : List Tok) : Option Module :=
  match ts with
  | [.name k, .name x] => if k == "param".toList then some { m with params := m.params ++ [x] } else none
  | .name k :: .name x :: .sym [':'] :: .name e :: r =>
    if k != "array".toList then none
    else
      match elemOfName e, indexes (fuelFor r) r with
      | some el, some (dims, [.name w, .num n]) =>
        if w == "arg".toList && dims.all (fun d => d.names.all m.params.contains)
        then some { m with arrays := m.arrays ++ [⟨x, el, dims, n⟩] } else none
      | _, _ => none
  | .name k :: r =>
    if k != "stmt".toList then none else (aStmt m r).map fun x => { m with stmts := m.stmts ++ [x] }
  | _ => none

/-- A line: where it begins in the text, its indentation, its tokens. -/
structure Line where
  at_ : Nat
  indent : Nat
  toks : List Tok

/-- A node of the schedule on one line, as what it makes of the tree below it. -/
def node (m : Module) (ts : List Tok) : Option (Option (Tree → Tree)) :=
  let stmts (l : List Name) : Bool := l.all fun x => m.stmts.any fun s => s.name == x
  match ts with
  | [.name k] => if k == "sequence".toList then some none else none
  | [.name k, .text] => if k == "mark".toList then some (some .mark) else none
  | .name k :: .sym [c] :: r =>
    if k == "band".toList && c == '[' then
      match listed aName ']' r with
      | some (its, .sym ['-', '>'] :: .sym ['['] :: q) =>
        match listed (affine (fuelFor q)) ']' q with
        | some (es, []) =>
          if es.all fun e => e.names.all fun x => its.contains x || m.params.contains x
          then some (some (.band its es)) else none
        | _ => none
      | _ => none
    else if k == "filter".toList && c == Char.ofNat 123 then
      match listed aName (Char.ofNat 125) r with
      | some (l, []) => if stmts l then some (some (.filter l)) else none
      | _ => none
    else none
  | _ => none

/-- The trees of the lines that stand deeper than `above`, and the lines behind them; or where the line stands that is
wrong. Nodes but a sequence have at most one below them. -/
def trees (m : Module) (above : Nat) : (fuel : Nat) → List Line → Except Nat (List Tree × List Line)
  | 0, _ => .ok ([], [])
  | _ + 1, [] => .ok ([], [])
  | n + 1, x :: r =>
    if x.indent ≤ above then .ok ([], x :: r)
    else
      match node m x.toks with
      | none => .error x.at_
      | some f =>
        match trees m x.indent n r with
        | .error e => .error e
        | .ok (below, rest) =>
          let t : Option Tree := match f, below with
            | none, _ => some (below.foldr .sequence .done)
            | some g, [] => some (g .leaf)
            | some g, [t] => some (g t)
            | some _, _ => none
          match t, trees m above n rest with
          | none, _ => .error x.at_
          | some _, .error e => .error e
          | some t, .ok (ts, rest) => .ok (t :: ts, rest)

/-- The lines of a text with their places; none at one that has no tokens of the form. -/
def linesOf (at_ : Nat) : (bytes : List Byte) → (line : List Char) → List (Nat × List Char)
  | [], l => [(at_ - l.length, l.reverse)]
  | b :: r, l =>
    if b = 10 then (at_ - l.length, l.reverse) :: linesOf (at_ + 1) r []
    else linesOf (at_ + 1) r (Char.ofNat b.toNat :: l)

/-- The lines of a text that hold something. -/
def tokenLines : List (Nat × List Char) → Except Nat (List Line)
  | [] => .ok []
  | p :: r =>
    match lex (p.2.length + 1) p.2, tokenLines r with
    | none, _ => .error p.1
    | some _, .error e => .error e
    | some [], .ok ls => .ok ls
    | some ts, .ok ls => .ok (⟨p.1, (p.2.takeWhile fun c => c == ' ' || c == '\t').length, ts⟩ :: ls)

/-- The lines up to the schedule, then the schedule. -/
def constructs (m : Module) : List Line → Except Nat Module
  | [] => .ok m
  | x :: r =>
    if x.toks == [.name "schedule".toList] then
      match trees m x.indent (r.length + 1) r with
      | .error e => .error e
      | .ok (t, []) =>
        match t with
        | [] => .ok m
        | [t] => .ok { m with schedule := t }
        | _ => .error x.at_
      | .ok (_, y :: _) => .error y.at_
    else
      match construct m x.toks with
      | none => .error x.at_
      | some m => constructs m r

/-- The module of a text, or the byte at which the line begins for which a translator rejects it (R459). -/
def parse (text : List Byte) : Except Nat Module :=
  match tokenLines (linesOf 0 text []) with
  | .error e => .error e
  | .ok [] => .error 0
  | .ok (x :: r) =>
    if x.toks == [.name "bacel".toList, .num 1] then constructs ⟨[], [], [], .leaf⟩ r else .error x.at_

end Sys2Proof.Machine.Bacel
end

