-- ==== Sys2Proof/Machine/Shake.lean ====
section
/-! DEFINITION. SHAKE256 (FIPS 202), which launch ids, digests and the capsule use (R202, R221, R438). -/

namespace Sys2Proof.Machine

/-- The rotation offsets of ρ, lane x + 5 y. -/
def keccakRot : List Nat :=
  [0, 1, 62, 28, 27, 36, 44, 6, 55, 20, 3, 10, 43, 25, 39, 41, 45, 15, 21, 8, 18, 2, 61, 56, 14]

/-- The round constants of ι. -/
def keccakRound : List Dword :=
  [0x0000000000000001#64, 0x0000000000008082#64, 0x800000000000808A#64, 0x8000000080008000#64,
   0x000000000000808B#64, 0x0000000080000001#64, 0x8000000080008081#64, 0x8000000000008009#64,
   0x000000000000008A#64, 0x0000000000000088#64, 0x0000000080008009#64, 0x000000008000000A#64,
   0x000000008000808B#64, 0x800000000000008B#64, 0x8000000000008089#64, 0x8000000000008003#64,
   0x8000000000008002#64, 0x8000000000000080#64, 0x000000000000800A#64, 0x800000008000000A#64,
   0x8000000080008081#64, 0x8000000000008080#64, 0x0000000080000001#64, 0x8000000080008008#64]

/-- One round of Keccak-f[1600]. -/
def keccakStep (a : List Dword) (rc : Dword) : List Dword :=
  let at_ (l : List Dword) (x y : Nat) : Dword := l.getD (x % 5 + 5 * (y % 5)) 0
  let c := (List.range 5).map fun x => at_ a x 0 ^^^ at_ a x 1 ^^^ at_ a x 2 ^^^ at_ a x 3 ^^^ at_ a x 4
  let d := (List.range 5).map fun x => c.getD ((x + 4) % 5) 0 ^^^ (c.getD ((x + 1) % 5) 0).rotateLeft 1
  let t := (List.range 25).map fun i => a.getD i 0 ^^^ d.getD (i % 5) 0
  -- π: b[y, 2x + 3y] = rot(t[x, y]); the source of (x', y') is x = x' + 3 y', y = x'
  let b := (List.range 25).map fun i =>
    let j := (i % 5 + 3 * (i / 5)) % 5 + 5 * (i % 5)
    (t.getD j 0).rotateLeft (keccakRot.getD j 0)
  (List.range 25).map fun i =>
    let v := at_ b (i % 5) (i / 5) ^^^ (~~~(at_ b (i % 5 + 1) (i / 5)) &&& at_ b (i % 5 + 2) (i / 5))
    if i = 0 then v ^^^ rc else v

def keccakF (a : List Dword) : List Dword := keccakRound.foldl keccakStep a

/-- The bytes of a block as lanes, little-endian, xored into the state. -/
def keccakAbsorb (a : List Dword) (block : List Byte) : List Dword :=
  a.zipIdx.map fun p =>
    p.1 ^^^ BitVec.ofNat 64
      (((block.drop (8 * p.2)).take 8).foldr (fun b acc => b.toNat + 256 * acc) 0)

/-- Absorbs the blocks of 136 bytes of a padded message. -/
def shakeAbsorb : (fuel : Nat) → List Dword → List Byte → List Dword
  | 0, a, _ => a
  | n + 1, a, m => if m.isEmpty then a else shakeAbsorb n (keccakF (keccakAbsorb a (m.take 136))) (m.drop 136)

/-- The message with the SHAKE suffix and the padding to whole blocks. -/
def shakePad (m : List Byte) : List Byte :=
  let n := 136 - m.length % 136
  m ++ (if n = 1 then [0x9F#8] else 0x1F#8 :: List.replicate (n - 2) 0#8 ++ [0x80#8])

/-- The first n bytes of SHAKE256, n at most 136. -/
def shake256 (m : List Byte) (n : Nat) : List Byte :=
  let p := shakePad m
  let a := shakeAbsorb (p.length / 136) (List.replicate 25 0) p
  (a.flatMap fun w => (List.range 8).map fun i => w.extractLsb' (8 * i) 8).take n

end Sys2Proof.Machine
end

