-- ==== Sys2Proof/Machine/Transaction.lean ====
section
/-! DEFINITION. Transactions (file 06, R164 to R173; file 13, R311, R312). -/

namespace Sys2Proof.Machine

/-- The context of the same split in a changed state, the sampled records kept; none when it has no
lanes left. -/
def Ctx.again (c : Ctx) (s : State) : Option Ctx :=
  (ctxOf s).map fun k => { k with slots := c.slots, emul := c.emul }

/-- Begins a transaction in a lane: its status word is cleared (R164, R172). -/
def Warp.beginTx (w : Warp) (fail l : Nat) : Warp :=
  { w with txns := w.txns.put l (some ⟨fail, [], [], [], [], [], none, none⟩), txst := w.txst.del l }

/-- txb: lanes in a transaction abort as nested; the others begin one, and a region opens at the `txb`
itself (R311). It exposes the order of its launch (R223). -/
def execTxb (f : FmtC) (s : State) : Res :=
  issue (.txb f) s fun c =>
    let lanes := lanesOf (c.execs (.txb f) &&& ~~~c.w.helpers)
    if lanes.isEmpty then c.skip (.txb f)
    else if c.w.txLoads then c.block
    else
      let s := c.s.expose c.g
      match c.again (s.abortLanes c.uid c.wi (lanes.filter c.inTx) 12 0) with
      | none => .next (s.abortLanes c.uid c.wi (lanes.filter c.inTx) 12 0)
      | some c =>
        let lanes := lanesOf (c.execs (.txb f) &&& ~~~c.w.helpers)
        let w := lanes.foldl (fun w l => w.beginTx (c.offsetPc f.offset 0) l) c.w
        let w := w.openRegion
        .next (c.s.setWarp c.uid c.wi (w.modSplit c.sp.id fun sp =>
          { (w.atRegion sp c.sp.pc).next 8 c.now with entry := c.sp.pc }))

/-- Sets the status words of lanes with no transaction to not-in-transaction (R171). -/
def Warp.noTx (w : Warp) (lanes : List Nat) : Warp :=
  { w with txst := w.txst.setMany (0 : Word) (lanes.map fun l => (l, txStatus 13 0 0 0)) }

/-- txa: the executing lanes' transactions abort as explicit with the user code (R311). -/
def execTxa (f : FmtC) (s : State) : Res :=
  issue (.txa f) s fun c =>
    let lanes := lanesOf (c.execs (.txa f))
    let w := c.w.noTx (lanes.filter fun l => !c.inTx l)
    match c.done (.txa f) c.s w with
    | .next s => .next (s.abortLanes c.uid c.wi (lanes.filter c.inTx) 9 f.low.toNat)
    | r => r

/-- txst: the lane's status word (Table 6.4). -/
def execTxst (f : FmtR) (s : State) : Res :=
  issue (.txst f) s fun c => c.write (.txst f) f.d 1 fun l => (Sparse.get (0 : Word) c.w.txst l).toNat

/-! ### Commits (R167 to R169)

A `txe` whose lines no other commit has locked commits its lanes one after another in its own turn. Under `Turn.begin_`, or
when it meets a lock, its commits are under way instead: `Turn.lock` locks one line of a lane, `Turn.commit` ends a lane, and
the split goes on when every lane is decided (R312; log 134). -/

/-- Whether every recorded byte still has its value (R167). -/
def Txn.valid (t : Txn) (mem : Memory) : Bool := t.reads.all fun p => mem.byte p.1 == p.2

/-- Performs one lane's commit: its buffered writes become visible together, D is set for their pages
first (R22), and the core's L1 copies of its lines are dropped (R49). -/
def Ctx.commit (c : Ctx) (s : State) (t : Txn) : State :=
  let s := t.pages.foldl (fun s va => (s.translate c.g.core c.g.ctx va .atomic c.privileged).2) s
  let s := s.writeBytes (t.writes.map fun p => (Addr.phys p.1, p.2.1, p.2.2))
  t.lines.foldl (fun s line => s.dropLine c.g.core line) s

/-- Commits lanes in turn: those that failed validation, and the state (R312). -/
def Ctx.commits (c : Ctx) : (lanes : List (Nat × Txn)) → State → List Nat × State
  | [], s => ([], s)
  | (l, t) :: r, s =>
    if t.valid s.mem then
      let s := (c.commit s t).modWarp c.uid c.wi fun w => w.endTx l 1 0
      c.commits r s
    else
      let (bad, s) := c.commits r s
      (l :: bad, s)

/-- The bytes of transactions as targets of the commit. -/
def txTargets (ts : List (Nat × Txn)) : List Target :=
  ts.map fun p => ⟨p.1, 0, ((p.2.reads.map (·.1)) ++ p.2.writes.map (·.1)).map .phys, 0, false⟩

/-- The lanes of a `txe` with an open transaction. -/
def Ctx.openTxs (c : Ctx) (lanes : List Nat) : List (Nat × Txn) :=
  lanes.filterMap fun l => (c.w.txns.look l).map fun t => (l, t)

/-- Whether some line of transactions is locked by a commit. -/
def State.meetsLock (s : State) (ts : List (Nat × Txn)) : Bool :=
  ts.any fun p => p.2.lines.any fun n => (s.lockHolder n).isSome

/-- The commits of lanes are under way, no line being locked yet; the split waits, and its arrival at their lines is
numbered (R141). -/
def Ctx.beginCommits (c : Ctx) (ts : List (Nat × Txn)) (w : Warp) : Res :=
  let (n, s) := c.s.stamp
  let w := ts.foldl (fun (w : Warp) p =>
    { w with txns := w.txns.modify p.1 fun t => { t with locks := some 0 } }) w
  .next (s.setWarp c.uid c.wi (w.modSplit c.sp.id fun sp =>
    { sp with wait := some .commit, arrived := some (n, targetLocs (txTargets ts)) }))

/-- txe: each executing lane's transaction commits whole or goes to its fail target (R167, R171, R312).
A commit is acq-rel at module scope for its lane (R171). -/
def execTxe (f : FmtC) (s : State) : Res :=
  issue (.txe f) s fun c =>
    let lanes := lanesOf (c.execs (.txe f))
    let open_ := c.openTxs lanes
    let w := c.w.noTx (lanes.filter fun l => !c.inTx l)
    if open_.isEmpty then c.done (.txe f) c.s w
    else if c.quiet && c.s.meetsLock open_ then c.beginCommits open_ w
    else c.reach (txTargets open_)
      (let (bad, s) := c.commits open_ (c.s.setWarp c.uid c.wi w)
       let s := if bad.length < open_.length then
           (s.modWarp c.uid c.wi fun w => w.sync s.order).acquire c.g.core c.g.launch
         else s
       let s := s.modWarp c.uid c.wi fun w => w.modSplit c.sp.id fun sp => sp.next 8 c.now
       .next (s.abortLanes c.uid c.wi bad 3 0))

/-- A `txe` whose commits begin and do not end at once. -/
def beginTxe (f : FmtC) (s : State) : Res :=
  issue (.txe f) s fun c =>
    let lanes := lanesOf (c.execs (.txe f))
    let open_ := c.openTxs lanes
    let w := c.w.noTx (lanes.filter fun l => !c.inTx l)
    if open_.isEmpty then c.done (.txe f) c.s w
    else if c.quiet then c.beginCommits open_ w
    else c.block

/-- The key of a lane's commit: core number, logical in a deterministic context, warp number, lane (R169, R215). -/
def commitKey (s : State) (g : WorkGroup) (w : Warp) (l : Nat) : Nat :=
  ((if (s.ctx g.ctx).deterministic then g.lcore else g.core) * 128 + w.sub * 32 + w.slot) * 128 + l

/-- The key of a lane of a warp by its place in the state. -/
def State.keyAt (s : State) (u i l : Nat) : Nat :=
  match s.wgs.look u, s.warp? u i with
  | some g, some w => commitKey s g w l
  | _, _ => 0

/-- A commit gives up: its locks are released and its lane will abort with a code. -/
def State.giveUp (s : State) (u i l code : Nat) : State :=
  s.modWarp u i fun w => { w with txns := w.txns.modify l fun t => { t with locks := none, verdict := some code } }

/-- Whether a commit has locked all its lines. -/
def State.allLocked (s : State) (u i l : Nat) : Bool :=
  match (s.warp? u i).bind fun w => w.txns.look l with
  | some t => t.locks == some t.lines.length
  | none => false

/-- The split of a lane whose commit is under way. -/
def Warp.committing (w : Warp) (l : Nat) : Option Split :=
  w.splits.find? fun sp => sp.lanes.getLsbD l && sp.wait == some .commit

/-- A commit takes its next line (R167, R169): it waits for the claims of jobs recorded before it arrived; at a line that
another commit has locked, the lower key goes on, and the holder gives the line up unless it has locked all its lines. -/
def State.lockNext (s : State) (u i l : Nat) : Res :=
  match (s.warp? u i).bind fun w => (w.committing l).bind fun sp => (w.txns.look l).map fun t => (sp, t) with
  | none => .fault .notEnabled
  | some (sp, t) =>
    match t.locks.bind fun n => (t.lines[n]?).map fun line => (n, line) with
    | none => .fault .notEnabled
    | some (n, line) =>
      let took (s : State) : State := s.modWarp u i fun w =>
        { w with txns := w.txns.modify l fun t => { t with locks := some (n + 1) } }
      if s.jobs.any fun j => !j.2.done && j.2.claims.any (·.has (.line line)) &&
          decide (j.2.order < (sp.arrived.map (·.1)).getD s.order) then .fault .notEnabled
      else
        match s.lockHolder line with
        | none => .next (took s)
        | some (v, k, m) =>
          if s.keyAt v k m < s.keyAt u i l then .next (s.giveUp u i l 4)
          else if s.allLocked v k m then .fault .notEnabled
          else .next (took (s.giveUp v k m 4))

/-- A commit with all its lines locked ends: every recorded byte is compared, and the writes are performed, or the lane will
abort (R167). An uncorrectable line is its warp's trap in place of the commit (R67). -/
def State.commitEnd (s : State) (u i l : Nat) : Res :=
  match (s.warp? u i).bind fun w => (w.committing l).bind fun sp => (w.txns.look l).map fun t => (w, sp, t) with
  | none => .fault .notEnabled
  | some (w, sp, t) =>
    match ctxOf { s with cur := some ⟨u, i, sp.id, none⟩ } with
    | none => .fault .notEnabled
    | some c =>
      if !s.allLocked u i l || w.heldFor sp.id then .fault .notEnabled
      else
        match (txTargets [(l, t)]).flatMap (·.addrs) |>.find? s.badAddr with
        | some a => .next ((s.noteBad c.g w a 1).holdTrap u i (w.eccTrap sp.id (laneBit l) 1 0 s.time))
        | none =>
          if t.valid s.mem then
            let s := (c.commit s t).modWarp u i fun w => (w.endTx l 1 0).sync s.order
            .next (s.acquire c.g.core c.g.launch)
          else .next (s.giveUp u i l 3)

/-- The splits whose every commit is decided go on, and their failed lanes abort, as one split for each fail target
(R171, R311, R312). -/
def State.endCommits (s : State) (u i : Nat) : State :=
  match s.wgs.look u, s.warp? u i with
  | some g, some w =>
    w.splits.foldl (fun s sp =>
      if sp.wait != some .commit || (lanesOf sp.lanes).any fun l => ((w.txns.look l).bind (·.locks)).isSome then s
      else
        let failed := (lanesOf sp.lanes).filterMap fun l => ((w.txns.look l).bind (·.verdict)).map fun k => (l, k)
        let s := s.modWarp u i fun w => w.modSplit sp.id fun sp => sp.next 8 (s.now g.core)
        s.abortCodes u i failed 0) s
  | _, _ => s

end Sys2Proof.Machine
end

