-- ==== Sys2Proof/Machine/Copy.lean ====
section
/-! DEFINITION. Copies as engine jobs: cpa, cpwait, cpcnt, kick (file 13, R315 to R318; R139, R140). -/

namespace Sys2Proof.Machine

/-! ### Jobs -/

/-- The claim of a run of scratchpad bytes. -/
def blockClaim (u off len : Nat) : Claim :=
  ⟨.block u (off / 128), (off + len - 1) / 128 - off / 128 + 1⟩

/-- The claim of the part of a translated page that a run of global bytes touches. -/
def lineClaim (m : PageMap) (va len : Nat) : Claim :=
  let lo := if va / 65536 = m.page then va % 65536 else 0
  let hi := if (va + len - 1) / 65536 = m.page then (va + len - 1) % 65536 else 65535
  ⟨.line ((m.pa + lo) / 128), hi / 128 - lo / 128 + 1⟩

/-- Drops the L1 copies of claimed lines (R140). -/
def State.dropClaimed (s : State) (core : Nat) (cs : List Claim) : State :=
  s.modCore core fun k => { k with l1 := k.l1.filter fun p => !(cs.any fun x => x.has (.line p.1)) }

/-- The lines of HBM that claims name. -/
def claimLines (cs : List Claim) : List Nat :=
  (cs.flatMap fun c => match c.first with
    | .line m => (List.range c.count).map (m + ·)
    | .block _ _ => []).filter fun n => isHbm (n * 128)

/-- The die of a slice whose 2,048 ownership entries do not take further claims (R55). A job alone on a slice is let through
(log 135). -/
def State.ownersFull (s : State) (cs : List Claim) : Option Nat :=
  let old := s.jobs.flatMap fun p => if p.2.done then [] else p.2.claims
  if ((old ++ cs).map (·.count)).sum ≤ 2048 then none
  else
    let home (n : Nat) : Nat := homeDie (n * 128) * 64 + homeSlice (n * 128)
    let held := (claimLines old).map home
    let new := (claimLines cs).map home
    ((new.eraseDups).find? fun k => 0 < held.count k && 2048 < held.count k + new.count k).map (· / 64)

/-- An instruction whose ownership requests wait at a slice: the wait is counted once (R55). -/
def Ctx.blockOwner (c : Ctx) (die : Nat) : Res :=
  let s := if c.sp.wait == some .retry then c.s
    else c.s.modDie die fun d => { d with ownerWaits := d.ownerWaits + 1 }
  { c with s := s }.block

/-- Records a job with its claims (R140); its name is the answer's first part. -/
def State.addJob (s : State) (core u i split : Nat) (kind : JobKind) (claims : List Claim)
    (object : Option Nat) (privileged : Bool) (hint : Nat := 0) : Nat × State :=
  let (order, s) := s.stamp
  let (n, s) := s.fresh
  let j : Job :=
    { wg := u, warp := i, split := split, kind := kind, order := order, claims := claims,
      object := object, privileged := privileged, parked := none, failed := none, done := false,
      buf := [], lines := [], hint := hint }
  (n, { s with jobs := s.jobs.put n (some j) }.dropClaimed core claims)

/-- A job of the issuing split. -/
def Ctx.addJob (c : Ctx) (s : State) (kind : JobKind) (claims : List Claim) (object : Option Nat)
    (hint : Nat := 0) : Nat × State :=
  s.addJob c.g.core c.uid c.wi c.sp.id kind claims object c.privileged hint

/-- Translates the pages of a global destination for its claims (R140): a failing page, or the page maps. -/
def State.claimPages (s : State) (core ctx : Nat) (priv : Bool) (va len : Nat) :
    Except Miss (List PageMap) × State :=
  (pagesOf va len).foldl (fun r p =>
    match r.1 with
    | .error _ => r
    | .ok ms =>
      let (x, s) := r.2.translate core ctx p .engineWrite priv
      match x with
      | .ok q => (.ok (ms ++ [⟨p / 65536, q.pa / 65536 * 65536⟩]), s)
      | .error m => (.error m, r.2)) (.ok [], s)

/-! ### cpa -/

/-- What a lane's `cpa` asks for. -/
def Ctx.copyLane (c : Ctx) (f : FmtMO) (l : Nat) : CopyLane :=
  { dest := (c.w.rd f.m.data l).toNat, source := c.ea f.m l,
    valid := min (c.w.rd (Oper.op1 f) l).toNat 32,
    object := if Oper.counts f then some (c.w.rd (Oper.op2 f) l).toNat else none }

/-- The access fault of a lane: its destination, its object, its source's canonical form (R299, R315). -/
def CopyLane.bad (x : CopyLane) (size : Nat) : Option (Nat × Nat) :=
  if size < x.dest + 32 then some (0, x.dest)
  else if x.dest % 32 ≠ 0 then some (2, x.dest)
  else
    match x.object with
    | some o =>
      if size < o + 16 then some (0, o) else if o % 16 ≠ 0 then some (2, o)
      else if 0 < x.valid ∧ 2 ^ 57 < x.source + x.valid then some (3, x.source) else none
    | none => if 0 < x.valid ∧ 2 ^ 57 < x.source + x.valid then some (3, x.source) else none

/-- cpa: one job for the executing lanes that are no helpers (R315, R316). -/
def execCpa (f : FmtMO) (s : State) : Res :=
  issue (.cpa f) s fun c =>
    let lanes := lanesOf (c.execs (.cpa f) &&& ~~~c.w.helpers)
    let xs := lanes.map fun l => (l, c.copyLane f l)
    let bad := xs.filterMap fun p => (p.2.bad c.g.scratchSize).map fun b => (p.1, b)
    if lanes.isEmpty then c.doneRegion (.cpa f) c.s c.w
    else
      match bad with
      | (_, cause, a) :: _ => c.access cause (maskOf (bad.map (·.1))) a
      | [] =>
        let n := Sparse.get 0 c.w.tags (Oper.tag f)
        if 1023 ≤ n || !c.quiet then c.block
        else
          let w := { c.w with tags := c.w.tags.set 0 (Oper.tag f) (n + 1) }
          let claims := xs.map fun p => blockClaim c.uid p.2.dest 32
          let (_, s) := c.addJob c.s (.cpa (xs.map (·.2)) 0 (Oper.tag f)) claims none f.m.hint.toNat
          c.doneRegion (.cpa f) s w

/-- Whether a job is a `cpa` of a warp's tag. -/
def Job.onTag (j : Job) (u i tag : Nat) : Bool :=
  j.wg == u && j.warp == i &&
    match j.kind with
    | .cpa _ _ t => t == tag
    | _ => false

/-- The oldest job of a tag that is in flight (R317). -/
def State.oldestCopy (s : State) (u i tag : Nat) : Option Nat :=
  ((s.jobs.filter fun p => p.2.onTag u i tag && !p.2.done).foldl (fun (b : Option (Nat × Job)) p =>
    match b with
    | none => some p
    | some q => if p.2.order < q.2.order then some p else b) none).map (·.1)

/-- The failed jobs that a wait may receive, oldest first: the first of them. -/
def State.failedJob (s : State) (p : Nat → Job → Bool) : Option (Nat × Trap) :=
  ((s.jobs.filter fun x => p x.1 x.2).foldl (fun (b : Option (Nat × Job)) x =>
    match x.2.failed, b with
    | none, _ => b
    | some _, none => some x
    | some _, some q => if x.2.order < q.2.order then some x else b) none).bind fun x =>
      x.2.failed.map fun t => (x.1, t)

/-- The split takes a failed job's fault at its wait; the job is gone (R33). -/
def Ctx.receive (c : Ctx) (i : Instr) (job : Nat) (t : Trap) : Res :=
  let own := c.mkTrap t.kind t.cause (c.execs i) (if trapClass t.kind = 1 then some c.sp.pc else none)
  { c with s := { c.s with jobs := c.s.jobs.del job } }.takes { own with address := t.address, unit := t.unit }

/-- Parks the split in its wait. -/
def Ctx.waitFor (c : Ctx) (wait : Wait) : Res := c.park c.s c.w wait

/-- cpwait: count form, or the oldest job of the tag at its issue (R317). -/
def execCpwait (f : FmtC) (s : State) : Res :=
  issue (.cpwait f) s fun c =>
    let tag := f.site.toNat % 4
    if c.execs (.cpwait f) = 0 then c.skip (.cpwait f)
    else if f.site.getLsbD 2 then
      let job := match c.sp.wait with
        | some (.cpwait (some j)) => some j
        | _ => c.s.oldestCopy c.uid c.wi tag
      match job with
      | none => c.skip (.cpwait f)
      | some j =>
        match c.s.failedJob fun n x => n == j && x.onTag c.uid c.wi tag with
        | some (n, t) => c.receive (.cpwait f) n t
        | none =>
          match c.s.jobs.look j with
          | some x => if x.done then c.skip (.cpwait f) else c.waitFor (.cpwait (some j))
          | none => c.skip (.cpwait f)
    else
      match c.s.failedJob fun _ x => x.onTag c.uid c.wi tag with
      | some (n, t) => c.receive (.cpwait f) n t
      | none =>
        if Sparse.get 0 c.w.tags tag ≤ f.low.toNat then c.skip (.cpwait f)
        else c.waitFor (.cpwait none)

/-- cpcnt: the count of a tag (R317). -/
def execCpcnt (f : FmtS) (s : State) : Res :=
  issue (.cpcnt f) s fun c => c.write (.cpcnt f) f.d 1 fun _ => Sparse.get 0 c.w.tags (f.sel.toNat % 4)

/-! ### kick (R318, Table 13.3) -/

/-- A request as its 32 bytes. -/
structure Request where
  src : End
  dst : End
  len : Nat
  /-- destination cache hint -/
  hint : Nat
  reserved : Bool
  deriving DecidableEq, Repr

def requestOf (x : Nat) : Request :=
  { src := if entryBits x 160 1 = 1 then .scratch (entryBits x 0 32) else .global (entryBits x 0 64)
    dst := if entryBits x 161 1 = 1 then .scratch (entryBits x 64 32) else .global (entryBits x 64 64)
    len := entryBits x 128 32
    hint := entryBits x 162 2
    reserved := entryBits x 164 92 != 0 }

def End.inScratch (e : End) (size len : Nat) : Bool :=
  match e with
  | .scratch off => off + len ≤ size
  | .global _ => true

/-- The code of a request, 0 when it passes. -/
def Request.code (r : Request) (size : Nat) (object : Option Nat) : Nat :=
  if r.reserved then 3
  else if r.len = 0 ∨ 16777216 < r.len then 4
  else if !r.src.inScratch size r.len || !r.dst.inScratch size r.len then 5
  else
    match object with
    | some o => if o % 16 ≠ 0 ∨ size < o + 16 then 6 else 0
    | none => 0

/-- The first failing request: index and code. -/
def firstBad (size : Nat) (object : Option Nat) (rs : List Request) : Option (Nat × Nat) :=
  (rs.zipIdx.map fun p => (p.2, p.1.code size object)).find? fun p => p.2 != 0

/-- A global end that is not canonical (R13). -/
def End.nonCanonical (e : End) (len : Nat) : Option Nat :=
  match e with
  | .global va => if 2 ^ 57 < va + len then some va else none
  | .scratch _ => none

/-- Claims and pages of one request's destination; a failing page's miss, or an address in a firmware
reserve. -/
def Ctx.kickDest (c : Ctx) (s : State) (r : Request) :
    Except Bad (List Claim × List PageMap) × State :=
  match r.dst with
  | .scratch off => (.ok ([blockClaim c.uid off r.len], []), s)
  | .global va =>
    let (x, s) := s.claimPages c.g.core c.g.ctx c.privileged va r.len
    match x with
    | .error m => (.error (.miss m), s)
    | .ok ms =>
      if ms.any fun m => inReserve m.pa then (.error (.access 4 va), s)
      else (.ok (ms.map fun m => lineClaim m va r.len, ms), s)

/-- Submits requests in list order. -/
def Ctx.submit (c : Ctx) (object : Option Nat) :
    (rs : List (Request × List Claim × List PageMap)) → State → State
  | [], s => s
  | (r, claims, pages) :: rest, s =>
    c.submit object rest (c.addJob s (.copy r.src r.dst pages r.len 0) claims object r.hint).2

/-- Every request's destination, or the first failure. -/
def Ctx.kickDests (c : Ctx) : (rs : List Request) → State →
    Except Bad (List (Request × List Claim × List PageMap)) × State
  | [], s => (.ok [], s)
  | r :: rest, s =>
    let (x, s) := c.kickDest s r
    match x with
    | .error b => (.error b, s)
    | .ok (claims, pages) =>
      let (y, s) := c.kickDests rest s
      match y with
      | .error b => (.error b, s)
      | .ok ys => (.ok ((r, claims, pages) :: ys), s)

/-- The end of a `kick` with a status word. -/
def Ctx.kicked (c : Ctx) (f : FmtS) (s : State) (code index : Nat) : Res :=
  c.doneRegion (.kick f) s (c.writeEach (.kick f) f.d 1 fun _ => code + index * 65536)

/-- kick: a uniform submission of a list of requests, all or none (R318). -/
def execKick (f : FmtS) (s : State) : Res :=
  issue (.kick f) s fun c =>
    let lanes := c.execs (.kick f)
    let off := (c.w.rd f.a 0).toNat
    let n := (c.w.rd f.b 0).toNat
    let object := if f.o.getLsbD 0 then some (c.w.rd f.c 0).toNat else none
    let size := c.g.scratchSize
    if lanes &&& ~~~c.w.helpers = 0 then c.kicked f c.s 0 0
    else if n = 0 ∨ 256 < n then c.kicked f c.s 1 0
    else if size < off + 32 * n then c.kicked f c.s 2 0
    else if !c.quiet then c.block
    else
      let list : Target := ⟨0, off, (List.range (32 * n)).map fun k => .scratch c.uid (off + k), 0, false⟩
      c.claimsThen [list]
        (let rs := (List.range n).map fun k => requestOf (c.s.valueAt (.scratch c.uid (off + 32 * k)) 32)
         match firstBad size object rs with
         | some (k, code) => c.kicked f c.s code k
         | none =>
           match rs.findSome? fun r => (r.src.nonCanonical r.len).or (r.dst.nonCanonical r.len) with
           | some va => c.access 3 lanes va
           | none =>
             match c.kickDests rs c.s with
             | (.error b, _) => c.faultOf b lanes .engineWrite true
             | (.ok ys, s) =>
               match c.s.ownersFull (ys.flatMap fun y => y.2.1) with
               | some die => c.blockOwner die
               | none => c.kicked f (c.submit object ys s) 0 0)

end Sys2Proof.Machine
end

