-- ==== Sys2Proof/Machine/Sync.lean ====
section
/-! DEFINITION. Barrier objects, the gang barrier and monitors (file 06, R150 to R163; file 13, R319 to
R322). -/

namespace Sys2Proof.Machine

/-! ### Barrier objects (Table 6.1) -/

/-- An object's fields. -/
structure BarObj where
  pending : Nat
  count : Nat
  bytes : Int
  phase : Nat
  errArr : Bool
  errBytes : Bool
  /-- a reserved bit is set -/
  malformed : Bool
  deriving DecidableEq, Repr

def BarObj.ofBits (x : Nat) : BarObj :=
  { pending := entryBits x 0 16, count := entryBits x 16 16,
    bytes := (BitVec.ofNat 32 (entryBits x 32 32)).toInt, phase := entryBits x 64 31,
    errArr := entryBits x 96 1 = 1, errBytes := entryBits x 97 1 = 1,
    malformed := entryBits x 95 1 ≠ 0 ∨ entryBits x 98 30 ≠ 0 }

/-- The 16 bytes of an object. -/
def BarObj.bits (o : BarObj) : Nat :=
  o.pending + o.count * 2 ^ 16 + (BitVec.ofInt 32 o.bytes).toNat * 2 ^ 32 + o.phase * 2 ^ 64 +
    (if o.errArr then 2 ^ 96 else 0) + (if o.errBytes then 2 ^ 97 else 0)

/-- complete_if_done of R155. -/
def BarObj.settle (o : BarObj) : BarObj :=
  if o.pending = 0 ∧ o.bytes ≤ 0 then
    { o with errBytes := o.errBytes || decide (o.bytes < 0), phase := (o.phase + 1) % 2 ^ 31,
             pending := o.count, bytes := 0 }
  else o

/-- An arrival of weight a with e bytes (R153). -/
def BarObj.arrive (o : BarObj) (a e : Nat) : BarObj :=
  let o := if o.pending < a then { o with errArr := true, pending := 0 }
    else { o with pending := o.pending - a }
  let o := if (2 ^ 31 - 1 : Int) < o.bytes + e then { o with errBytes := true, bytes := 0 }
    else { o with bytes := o.bytes + e }
  o.settle

/-- A count-down of n bytes (R154). -/
def BarObj.countDown (o : BarObj) (n : Nat) : BarObj :=
  let b := o.bytes - n
  (if b < -(2 ^ 31) then { o with errBytes := true, bytes := -(2 ^ 31) } else { o with bytes := b }).settle

/-- Whether a token's test is complete (Table 6.2). -/
def BarObj.complete (o : BarObj) (token : Word) : Bool :=
  let d := ((o.phase : Int) - (token.toNat : Int)) % 2 ^ 31
  1 ≤ d && d < 2 ^ 30

/-- The object at an offset of a work-group's scratchpad. -/
def State.barObj (s : State) (u off : Nat) : BarObj := .ofBits (s.valueAt (.scratch u off) 16)

/-- Writes an object whole (R152). -/
def State.setBarObj (s : State) (u off : Nat) (o : BarObj) : State :=
  s.writeBytes (valueBytes (.scratch u off) 16 o.bits)

/-- The spans of the objects the lanes name in a register. -/
def Ctx.objSpans (c : Ctx) (a : BitVec 8) (lanes : List Nat) : List Span :=
  lanes.map fun l => ⟨l, (c.w.rd a l).toNat, 16, 16⟩

/-- The lanes' objects as targets. -/
def Ctx.objTargets (c : Ctx) (xs : List Span) : List Target :=
  xs.map fun x => ⟨x.lane, x.addr, (List.range 16).map fun i => .scratch c.uid (x.addr + i), 0, false⟩

/-- A barrier fault (kind 11) of the lanes that fail, lowest first, with their object's offset. -/
def Ctx.barFault (c : Ctx) (cause : Nat) (lanes : List Nat) (off : Nat) : Res :=
  c.takes { c.mkTrap 11 cause (maskOf lanes) (some c.sp.pc) with address := off }

/-- The offset rd(A, l). -/
def Ctx.objAt (c : Ctx) (a : BitVec 8) (l : Nat) : Nat := (c.w.rd a l).toNat

/-- The common start of the object instructions: range and alignment (R150), then `body`. -/
def Ctx.objects (c : Ctx) (a : BitVec 8) (lanes : List Nat) (body : List Target → Res) : Res :=
  let xs := c.objSpans a lanes
  match c.failing readHow 1 xs with
  | some (_, b, bad) => c.faultOf b bad .read false
  | none => body (c.objTargets xs)

/-- The first of a cause's failing lanes, as a fault. -/
def Ctx.causeFault (c : Ctx) (a : BitVec 8) (causes : List (Nat × List Nat)) : Option Res :=
  causes.findSome? fun p =>
    match p.2 with
    | [] => none
    | l :: _ => some (c.barFault p.1 p.2 (c.objAt a l))

/-- Whether a count or weight is out of 1 to 65,535. -/
def badCount (x : Word) : Bool := x == 0 || 65535 < x.toNat

/-- binit (R151, R319): the object is written whole, whatever it held. -/
def execBinit (f : FmtR) (s : State) : Res :=
  issue (.binit f) s fun c =>
    let lanes := lanesOf (c.execs (.binit f) &&& ~~~c.w.helpers)
    c.objects f.a lanes fun ts =>
      match c.causeFault f.a [(1, lanes.filter fun l => badCount (c.w.rd f.b l))] with
      | some r => r
      | none =>
        if !c.w.settled then c.block
        else c.claimsThen ts
          (c.doneRegion (.binit f) (lanes.foldl (fun s l =>
            let n := (c.w.rd f.b l).toNat
            s.setBarObj c.uid (c.objAt f.a l) ⟨n, n, 0, 0, false, false, false⟩) c.s) c.w)

/-- The arrivals of the lanes, one per object: offset, weight, bytes (R153). -/
def Ctx.arrivals (c : Ctx) (f : FmtR) (lanes : List Nat) : List (Nat × Nat × Nat) :=
  ((lanes.map (c.objAt f.a)).eraseDups).map fun off =>
    let mine := lanes.filter fun l => c.objAt f.a l == off
    (off, (mine.map fun l => (c.w.rd f.b l).toNat).sum, (mine.map fun l => (c.w.rd f.c l).toNat).sum)

/-- barr: one arrival per object; D is the phase before it (R153, R319). -/
def execBarr (f : FmtR) (s : State) : Res :=
  issue (.barr f) s fun c =>
    let lanes := c.participants (.barr f) f.d
    c.objects f.a lanes fun ts =>
      match c.causeFault f.a [(1, lanes.filter fun l => badCount (c.w.rd f.b l)),
          (2, lanes.filter fun l => 2 ^ 31 - 1 < (c.w.rd f.c l).toNat)] with
      | some r => r
      | none =>
        if !c.w.settled then c.block
        else c.claimsThen ts
          (match c.causeFault f.a
              [(0, lanes.filter fun l => (c.s.barObj c.uid (c.objAt f.a l)).malformed)] with
            | some r => r
            | none =>
              let token (l : Nat) : Nat :=
                if lanes.contains l then (c.s.barObj c.uid (c.objAt f.a l)).phase else 0
              c.doneRegion (.barr f) ((c.arrivals f lanes).foldl (fun s p =>
                s.setBarObj c.uid p.1 ((s.barObj c.uid p.1).arrive p.2.1 p.2.2)) c.s)
                (c.writeEach (.barr f) f.d 1 token))

/-- Whether a job counts down on an object (R154). -/
def Job.countsOn (j : Job) (u off : Nat) : Bool :=
  j.wg == u && (j.object == some off ||
    match j.kind with
    | .cpa lanes _ _ => lanes.any fun x => x.object == some off
    | _ => false)

/-- What `bwait` and `btest` do before their test: they wait for earlier accesses to the objects and for
claims, take a failed copy job's fault, and the faults malformed and overcount (R154, R156). -/
def Ctx.tests (c : Ctx) (i : Instr) (a : BitVec 8) (lanes : List Nat) (go : Res) : Res :=
  c.objects a lanes fun ts =>
    if c.w.reading || c.storesTo ts then c.block
    else c.claimsThen ts
      (match c.s.failedJob fun _ j => lanes.any fun l => j.countsOn c.uid (c.objAt a l) with
        | some (n, t) => c.receive i n t
        | none =>
          let o (l : Nat) : BarObj := c.s.barObj c.uid (c.objAt a l)
          match lanes.find? fun l => (o l).malformed || (o l).errArr || (o l).errBytes with
          | some l =>
            if (o l).malformed then c.barFault 0 (lanes.filter fun l => (o l).malformed) (c.objAt a l)
            else c.barFault 3 (lanes.filter fun l => (o l).errArr || (o l).errBytes) (c.objAt a l)
          | none => go)

/-- The context whose warp has made an acquire-side event (R134, R135). -/
def Ctx.synced (c : Ctx) : Ctx := { c with w := c.w.sync c.s.order }

/-- Whether a lane's token tests complete. -/
def Ctx.tokenDone (c : Ctx) (f : FmtR) (l : Nat) : Bool :=
  (c.s.barObj c.uid (c.objAt f.a l)).complete (c.w.rd f.b l)

/-- bwait: waits until every lane's test is complete (R156). -/
def execBwait (f : FmtR) (s : State) : Res :=
  issue (.bwait f) s fun c =>
    let lanes := lanesOf (c.execs (.bwait f) &&& ~~~c.w.helpers)
    c.tests (.bwait f) f.a lanes
      (match lanes.find? fun l => !c.tokenDone f l with
        | some l => c.waitFor (.bwait (c.objAt f.a l) (c.w.rd f.b l))
        | none => c.synced.skip (.bwait f))

/-- btest: D is the test's result (R156). -/
def execBtest (f : FmtR) (s : State) : Res :=
  issue (.btest f) s fun c =>
    let lanes := c.participants (.btest f) f.d
    c.tests (.btest f) f.a lanes
      ((if lanes.any (c.tokenDone f) then c.synced else c).write (.btest f) f.d 1 fun l => if lanes.contains l && c.tokenDone f l then 1 else 0)

/-! ### gsync (R159, R160) -/

/-- gsync: the arrival is a fence at die scope; a gang of one uses the work-group's barrier. -/
def execGsync (f : FmtC) (s : State) : Res :=
  issue (.gsync f) s fun c =>
    if !c.s.performedAt c.g.core c.uid c.wi c.s.order 1 c.w then c.block
    else
      match c.g.gang with
      | none =>
        match c.waitFor .bar with
        | .next s => .next (s.barTest c.uid)
        | r => r
      | some k =>
        match c.waitFor .gsync with
        | .next s => .next (s.gangTest k)
        | r => r

/-! ### Monitors (R161 to R163) -/

/-- Monitor entries of a die: 1,024 in hardware and 65,536 in the spill table (R163). -/
def monitorEntries : Nat := 1024 + 65536

/-- The word a monitor instruction names: spans of the executing lanes. -/
def Ctx.wordSpans (c : Ctx) (i : Instr) (a : BitVec 8) : List Span :=
  (lanesOf (c.execs i)).map fun l => ⟨l, c.w.rd64 a 0, 4, 4⟩

/-- The permission of arming; Type 2, host and peer pages take cause monitor-range (R161). -/
def armHow : Nat → How := fun _ => ⟨.read, .read, 5⟩

/-- The end of a `monw` at once: the value, the status, an acquire when changed (R321). -/
def Ctx.armed (c : Ctx) (f : FmtR) (s : State) (status value : Nat) : Res :=
  let w := c.writeEach (.monw f) f.d 2 fun _ => value + status * 2 ^ 32
  if status = 0 then c.done (.monw f) (s.acquire c.g.core c.g.launch) (w.sync s.order)
  else c.done (.monw f) (s.expose c.g) w

/-- monw: the arming read decides at once, or the split waits on the monitor of the word's home die
(R162, R163, R321). -/
def execMonw (f : FmtR) (s : State) : Res :=
  issue (.monw f) s fun c =>
    let xs := c.wordSpans (.monw f) f.a
    match c.failing armHow 0 xs with
    | some (_, b, bad) => c.faultOf b bad .read false
    | none =>
      let (ts, s) := c.targets c.s armHow 0 (xs.take 1)
      match ts.head?.bind (·.addrs.head?) with
      | some (.phys pa) =>
        c.reachRead ts
          (let x := BitVec.ofNat 32 (s.mem.value pa 4)
           let s := (s.touchLines 0 [.phys pa]).dropLine c.g.core (pa / 128)
           let timeout := (c.w.rd f.c 0).toNat
           let die := homeDie pa
           if timeout ≠ 0 ∧ monitorEntries ≤ (s.die die).monitors.length then c.armed f s 2 x.toNat
           else if x ≠ c.w.rd f.b 0 then c.armed f s 0 x.toNat
           else if timeout = 0 then c.armed f s 1 x.toNat
           else
             let (n, s) := s.stamp
             let m : Monitor :=
               { word := pa, x := c.w.rd f.b 0, until_ := (s.die die).cycles + timeout, wg := c.uid, warp := c.wi,
                 split := c.sp.id, d := f.d, lanes := c.execs (.monw f), woken := none }
             c.park (s.modDie die fun d => { d with monitors := d.monitors.put n (some m) }) c.w .monw)
      | _ => c.write (.monw f) f.d 2 fun _ => 0

/-- The permission of the exchange. -/
def exchangeHow : Nat → How := fun _ => ⟨.atomic, .atomic, 5⟩

/-- monx: an exchange at the home slice, acq-rel at module scope; D is how many monitors it woke (R322). -/
def execMonx (f : FmtR) (s : State) : Res :=
  issue (.monx f) s fun c =>
    let xs := c.wordSpans (.monx f) f.a
    match c.failing exchangeHow 0 xs with
    | some (_, b, bad) => c.faultOf b bad .atomic false
    | none =>
      if c.execs (.monx f) &&& ~~~c.w.helpers = 0 then
        c.doneRegion (.monx f) c.s (c.writeEach (.monx f) f.d 1 fun _ => 0)
      else
        let (ts, s) := c.targets c.s exchangeHow 0 (xs.take 1)
        match ts.head?.bind (·.addrs.head?) with
        | some (.phys pa) =>
          c.reach ts
            (let bs := valueBytes (.phys pa) 4 (c.w.rd f.b 0).toNat
             let s := (s.remember (bs.map (·.1))).dirtyLines 0 bs
             let s := { s with mem := s.mem.setValue pa 4 (c.w.rd f.b 0).toNat }
             let s := s.setWarp c.uid c.wi (c.writeEach (.monx f) f.d 1 fun _ => 0)
             let (n, s) := s.testMonitors (pa / 128)
             let s := ((s.dropLine c.g.core (pa / 128)).acquire c.g.core c.g.launch).expose c.g
             match s.warp? c.uid c.wi with
             | some w =>
               c.doneRegion (.monx f) s ((w.sync s.order).wrAll f.d 1 ((unitsOf f.d (c.execs (.monx f))).map fun l => (l, n)))
             | none => .next s)
        | _ => c.doneRegion (.monx f) s c.w

end Sys2Proof.Machine
end

