-- ==== Sys2Proof/Machine/Launcher.lean ====
section
/-! DEFINITION. Launches: descriptors, the entry checks, launch records, the `launch` instruction (file 08,
R198 to R203, R218 to R225; file 10, R265). -/

namespace Sys2Proof.Machine

/-! ### Accesses of the command processor -/

/-- Translates an address of a context from its root, without TLB fills; the leaf's A and D bits are set (R21, R22). A table
in a firmware reserve is refused as a permission miss (R56); a damaged one is logged (R36, R67). -/
def State.cpTranslate (s : State) (ctx va : Nat) (access : Access) (priv : Bool) : Except Miss Phys × State :=
  if 2 ^ 57 ≤ va then (.error ⟨0, 1, 0, va % 2 ^ 57, 0⟩, s)
  else
    let w := rootWalk s ctx va access priv
    match w.result with
    | .error m => (.error { m with type := if m.type = 5 then 1 else m.type }, if m.type = 4 then s.logLine m.at_ else s)
    | .ok l =>
      (.ok (physOf (tlbOf ctx va l) va),
        (s.touchLines 0 (w.reads.map .phys)).orEntry l.at_ (if accessWrites access then 0x60 else 0x20))

/-- Translates the pages of a run of bytes: the first miss, or the pages. A page of a firmware reserve is
refused as a permission miss (R56). -/
def State.cpPages (s : State) (ctx : Nat) (access : Access) (priv : Bool) :
    (pages : List Nat) → Except Miss (List (Nat × Phys)) × State
  | [] => (.ok [], s)
  | va :: r =>
    match s.cpTranslate ctx va access priv with
    | (.error m, s) => (.error m, s)
    | (.ok p, s) =>
      if inReserve p.pa then (.error ⟨1, 3, 0, va, 0⟩, s)
      else
        match s.cpPages ctx access priv r with
        | (.error m, s) => (.error m, s)
        | (.ok ps, s) => (.ok ((va / 65536, p) :: ps), s)

/-- The log of an address that the command processor, the host or a peer cannot read (R67). -/
def State.logAddr (s : State) (a : Addr) : State :=
  match a with
  | .phys pa => if isHbm pa then s.logLine pa else s
  | .scratch _ _ => s

/-- Reads bytes of a context's memory: none when a page fails or a line is damaged, which is logged (R67). -/
def State.cpRead (s : State) (ctx va len : Nat) (priv : Bool) : Option (List Byte) × State :=
  match s.cpPages ctx .read priv (pagesOf va len) with
  | (.error _, s) => (none, s)
  | (.ok ps, s) =>
    let as := physBytes ps va len
    match as.find? s.badAddr with
    | some a => (none, s.logAddr a)
    | none => (some (as.map s.byteAt), s.touchLines 0 as)

/-- Writes bytes of a context's memory, or answers the miss; what a damaged line cannot take is logged and not written, a
walk error's type in the answer (R67). -/
def State.cpWrite (s : State) (ctx va : Nat) (bytes : List Byte) : Option Miss × State :=
  match s.cpPages ctx .write true (pagesOf va bytes.length) with
  | (.error m, s) => (some m, s)
  | (.ok ps, s) =>
    let bs := ((physBytes ps va bytes.length).zip bytes).map fun p => (p.1, p.2, 0xFF)
    match s.badWrite bs with
    | some a => (some ⟨4, 0, 0, va, 0⟩, s.logAddr a)
    | none => (none, s.writeBytes bs)

/-! ### Waits at claimed lines (R141, R168) -/

/-- The lines of a run of a context's bytes. -/
def State.cpLocs (s : State) (ctx va len : Nat) : List Loc :=
  match (s.cpPages ctx .read true (pagesOf va len)).1 with
  | .error _ => []
  | .ok ps => ((physBytes ps va len).map locOf).eraseDups

/-- Whether claims that were recorded before an access arrived, or locks of commits, hold some lines. -/
def State.holdsBack (s : State) (arrived : Option Nat) (locs : List Loc) : Bool :=
  (s.jobs.any fun p => !p.2.done && locs.any (fun x => p.2.claims.any (·.has x)) &&
    (match arrived with
      | some t => p.2.order < t
      | none => true)) || locs.any s.lockedLoc

/-- The running number at which an agent that waits reached its lines. -/
def State.awaiting (s : State) (who : Agent) : Option Nat :=
  (s.waiting.find? fun x => x.1 == who).map (·.2.1)

/-- An agent no longer waits. -/
def State.arrives (s : State) (who : Agent) : State := { s with waiting := s.waiting.filter fun x => x.1 != who }

/-- An access of the command processor or of firmware waits for the claims recorded before it reached its lines; its first
arrival there is noted, and later claims do not hold it (R141; log 120). -/
def State.afterClaims (s : State) (who : Agent) (locs : List Loc) (go : State → Res) : Res :=
  let t := s.awaiting who
  if s.holdsBack t locs then
    if t.isSome then .fault .notEnabled
    else
      let (n, s) := s.stamp
      .next { s with waiting := s.waiting ++ [(who, n, locs)] }
  else go (s.arrives who)

/-! ### Digests and the attestation chain -/

/-- A SHAKE256 digest of 32 bytes as a number. -/
def digest32 (m : List Byte) : Nat := natOfBytes (shake256 m 32)

/-- H := SHAKE256(H ‖ tag ‖ value) (R453). -/
def Context.extend (k : Context) (tag : Byte) (value : Nat) : Context :=
  { k with chain := BitVec.ofNat 256 (digest32 (bytesOfNat 32 k.chain.toNat ++ [tag] ++ bytesOfNat 32 value)),
           extensions := k.extensions + 1 }

/-! ### Descriptors (Table 8.1) -/

def descOf (x : Nat) : Desc :=
  { entry := entryBits x 0 64, args := BitVec.ofNat 64 (entryBits x 64 64), gridX := entryBits x 128 32,
    gridY := entryBits x 160 32, gridZ := entryBits x 192 32, pool := BitVec.ofNat 32 (entryBits x 224 32),
    threads := entryBits x 256 11 + 1, width := 32 * 2 ^ entryBits x 267 2, regs := entryBits x 269 8,
    gangW := entryBits x 277 3 + 1, gangH := entryBits x 280 3 + 1, energy := entryBits x 283 3,
    matrix := entryBits x 286 1 = 1, persist := entryBits x 287 1 = 1, after := entryBits x 288 1 = 1,
    needDet := entryBits x 289 1 = 1, roles := BitVec.ofNat 32 (entryBits x 320 32),
    succTab := entryBits x 352 64, digest := entryBits x 416 64,
    seed := BitVec.ofNat 64 (entryBits x 480 64), ctrBase := BitVec.ofNat 64 (entryBits x 544 64) }

/-- A reserved field set, or Entry misaligned (status 6). -/
def badDesc (x : Nat) : Bool :=
  entryBits x 290 30 != 0 || entryBits x 608 416 != 0 || entryBits x 0 3 != 0

namespace Desc

/-- Warps of a work-group (R175). -/
def warps (d : Desc) : Nat := (d.threads + d.width - 1) / d.width

/-- Work-groups of the grid. -/
def grid (d : Desc) : Nat := (d.gridX + 1) * (d.gridY + 1) * (d.gridZ + 1)

/-- Members of a gang (R192). -/
def members (d : Desc) : Nat := d.gangW * d.gangH

/-- Role of a warp. -/
def role (d : Desc) (i : Nat) : Nat := (d.roles.extractLsb' (2 * i) 2).toNat

/-- The rules of status group-shape. -/
def badGroup (d : Desc) : Bool :=
  d.width == 256 || d.regs == 0 || 224 < d.regs || 16 < d.warps ||
    (List.range 16).any fun i => d.role i == 3

def regGran (d : Desc) : Nat := (d.pool.extractLsb' 0 8).toNat
def scrGran (d : Desc) : Nat := (d.pool.extractLsb' 8 8).toNat
def extGran (d : Desc) : Nat := (d.pool.extractLsb' 16 6).toNat

/-- Granules a work-group holds (R41). -/
def granules (d : Desc) : Nat := d.regGran + d.scrGran + d.extGran

/-- The register need of R43. -/
def need (d : Desc) : Nat := (d.warps * d.width * d.regs * 4 + 16383) / 16384

/-- R42. -/
def badPool (d : Desc) : Bool :=
  d.pool.extractLsb' 22 10 != 0 || 128 < d.scrGran || 32 < d.extGran || 192 < d.granules ||
    d.regGran < d.need || (d.extGran != 0 && !d.matrix)

/-- R192. -/
def badGang (d : Desc) : Bool := 16 < d.members || d.grid % d.members != 0

end Desc

/-- Tokens per window of an energy class (Table 8.3). -/
def energyRate (class_ : Nat) : Nat := [4, 8, 16, 24, 32, 48, 64, 75].getD class_ 0

/-! ### Launch records (Table 8.7) -/

/-- The digest of the loaded code segment that holds an address (R453). -/
def Context.codeDigest (k : Context) (entry : Nat) : Option (BitVec 256) :=
  k.loads.findSome? fun p =>
    (p.2.segments.find? fun g => g.code && g.base ≤ entry && entry < g.base + g.size).map (·.digest)

/-- The 16 bytes of trace entries. -/
def traceBytes (es : List (BitVec 128)) : List Byte := es.flatMap fun e => bytesOfNat 16 e.toNat

def bit (b : Bool) (n : Nat) : Nat := if b then 2 ^ n else 0

/-- The record of a launch. -/
def Launch.record (l : Launch) (k : Context) (status result : Nat) : Nat :=
  let q := k.queues.look l.queue
  l.id.toNat + l.codeDigest.toNat * 2 ^ 64 + l.desc.seed.toNat * 2 ^ 320 +
    l.desc.ctrBase.toNat * 2 ^ 384 + l.mode * 2 ^ 448 + k.shape % 16 * 2 ^ 452 + l.queue % 64 * 2 ^ 456 +
    (match q with
      | some x => x.priority % 8 * 2 ^ 462
      | none => 0) +
    bit l.orderExposed 465 + bit l.traceOverflow 466 + bit l.unbound 467 + bit l.throttled 468 +
    status % 256 * 2 ^ 472 +
    (if k.deterministic then digest32 (traceBytes l.section_) * 2 ^ 512 else 0) + result * 2 ^ 768

/-- Writes a record in the context's ring: LrWrite passes its slot also when the write fails, which posts
event kind 5; the chain of a deterministic context is extended (R225). -/
def State.writeRecord (s : State) (ctx record : Nat) : State :=
  let k := s.ctx ctx
  let p := s.page ctx
  let bytes := bytesOfNat 128 record
  let va := k.lrBase + 128 * (p.lrWrite.toNat % 2 ^ k.lrSize)
  let (miss, s) := s.cpWrite ctx va bytes
  let p := s.page ctx
  let s := s.setPage ctx { p with lrWrite := p.lrWrite + 1 }
  let s := match miss with
    | none => s.signal ctx 2
    | some m => s.event ctx 5 (record % 2 ^ 64 + record / 2 ^ 472 % 256 * 2 ^ 64 + m.type % 8 * 2 ^ 72)
  if k.deterministic then s.modCtx ctx fun k => k.extend 0x05 (digest32 bytes) else s

/-! ### Entering a queue (R198 to R203, R220, R221) -/

/-- The mode a queue gives its launches (R218). -/
def Queue.mode (q : Queue) (deterministic : Bool) : Nat := if deterministic then q.trace else 0

/-- Entry n of a queue's trace buffer; none past its end or where it cannot be read. -/
def State.traceEntry (s : State) (ctx : Nat) (q : Queue) (pos : Nat) : Option (BitVec 128) :=
  if q.traceSize < pos + 16 then none
  else ((s.cpRead ctx (q.traceBase + pos) 16 true).1).map fun b => BitVec.ofNat 128 (natOfBytes b)

/-- Entry count of a header. -/
def headerCount (e : BitVec 128) : Nat := (e.extractLsb' 64 32).toNat

/-- Whether a header for a launch id stands in the trace from a position up (R220). -/
def State.traceNames (s : State) (ctx : Nat) (q : Queue) (id : Dword) : (fuel pos : Nat) → Bool
  | 0, _ => false
  | n + 1, pos =>
    match s.traceEntry ctx q pos with
    | some e =>
      e.getLsbD 127 && (e.extractLsb' 0 64 == id || s.traceNames ctx q id n (pos + 16 * (headerCount e + 1)))
    | none => false

/-- Changes a queue of a context. -/
def State.modQueue (s : State) (ctx queue : Nat) (f : Queue → Queue) : State :=
  s.modCtx ctx fun k => { k with queues := k.queues.modify queue f }

/-- Drops the binding of a queue: its launches that have work-groups left continue dynamically and are marked (R220). -/
def State.unbind (s : State) (ctx queue : Nat) : State :=
  let s := s.modQueue ctx queue fun q => { q with bound := false }
  { s with launches := s.launches.map fun p =>
      if p.2.ctx == ctx && p.2.queue == queue && p.2.dispatched < p.2.desc.grid then (p.1, { p.2 with unbound := true })
      else p }

/-- The previous launch of a queue, while it has not completed (R204). -/
def State.lastLaunch (s : State) (q : Queue) : Option Nat := q.last.filter fun l => (s.launches.look l).isSome

/-- A launch as it enters its queue. -/
def newLaunch (s : State) (ctx queue : Nat) (id : Dword) (d : Desc) (host : Option (Nat × Dword × Bool))
    (code : BitVec 256) (q : Queue) : Launch :=
  let mode := q.mode (s.ctx ctx).deterministic
  { ctx := ctx, id := id, desc := d, queue := queue, host := host, codeDigest := code, mode := mode, next := 0,
    placed := [], dispatched := 0, retired := 0, statuses := [], orderExposed := false, traceOverflow := false,
    unbound := mode == 2 && !q.bound, throttled := false, started := none, away := 0, watched := false,
    section_ := [], after := if d.after then s.lastLaunch q else none, invRead := [], past := [] }

/-- Enters a launch that has passed its checks: a record slot is reserved for it (R225). -/
def State.enter (s : State) (l : Launch) : State :=
  let (u, s) := s.fresh
  let s := { s with launches := s.launches.put u (some l) }
  let p := s.page l.ctx
  let s := s.setPage l.ctx { p with lrReserved := p.lrReserved + 1 }
  let s := s.modQueue l.ctx l.queue fun q =>
    { q with launches := q.launches ++ [u], last := some u, accepted := if l.host.isSome then q.accepted + 1 else q.accepted,
             headSince := if q.launches.isEmpty then s.time else q.headSince }
  match (s.ctx l.ctx).queues.look l.queue with
  | some q =>
    if l.mode == 2 && q.bound && !s.traceNames l.ctx q l.id (q.traceSize / 16 + 1) q.tracePos then
      s.unbind l.ctx l.queue
    else s
  | none => s

/-- The checks of R203 after the queue's own, in order. -/
def State.checkDesc (s : State) (ctx x : Nat) : Nat :=
  let d := descOf x
  if badDesc x then 6
  else if d.badGroup then 2
  else if d.badPool then 1
  else if d.badGang then 3
  else if d.needDet && !(s.ctx ctx).deterministic then 7
  else
    match (s.cpTranslate ctx d.entry .execute (s.ctx ctx).privileged).1 with
    | .ok _ => 0
    | .error _ => 8

/-- What the record of a launch holds whose descriptor was not read (log 20). -/
def unreadDesc (n : Nat) : Desc :=
  { descOf 0 with seed := BitVec.ofNat 64 (Config.unread 0 n), ctrBase := BitVec.ofNat 64 (Config.unread 1 n) }

/-- Whether the launch-record ring has no free slot (R225, R468). -/
def State.ringFull (s : State) (ctx : Nat) : Bool :=
  let p := s.page ctx
  2 ^ (s.ctx ctx).lrSize ≤ (p.lrWrite - p.lrRead).toNat + p.lrReserved

/-- The queue that takes a launch: enabled, below 256 launches (R198). -/
def Context.openQueue (k : Context) (queue : Nat) : Option Queue :=
  match k.queues.look queue with
  | some q => if q.enable && q.launches.length < 256 then some q else none
  | none => none

/-- Reads the 128 bytes of a descriptor (R199). -/
def State.readDesc (s : State) (ctx addr : Nat) (priv : Bool) : Option Nat × State :=
  if addr % 128 ≠ 0 then (none, s)
  else
    let (b, s) := s.cpRead ctx addr 128 priv
    (b.map natOfBytes, s)

/-- The virtual address of the next launch record (R225). -/
def State.recordAddr (s : State) (ctx : Nat) : Nat :=
  (s.ctx ctx).lrBase + 128 * ((s.page ctx).lrWrite.toNat % 2 ^ (s.ctx ctx).lrSize)

/-- Enters a launch into a queue: the status of Table 8.2, a refused launch's record written at once,
except of record-full (R203, R225). -/
def State.enqueue (s : State) (ctx queue addr : Nat) (priv : Bool) (id : Dword)
    (host : Option (Nat × Dword × Bool)) : Nat × State :=
  if s.ringFull ctx then (12, s)
  else
    let (n, s) := s.stamp
    let refuse (s : State) (status : Nat) (d : Desc) : Nat × State :=
      let k := s.ctx ctx
      let code := (k.codeDigest d.entry).getD (BitVec.ofNat 256 (Config.unread 2 n))
      let q := k.queues.look queue
      let mode := match q with
        | some q => q.mode k.deterministic
        | none => 0
      let l : Launch :=
        { ctx := ctx, id := id, desc := d, queue := queue, host := host, codeDigest := code, mode := mode,
          next := 0, placed := [], dispatched := 0, retired := 0, statuses := [], orderExposed := false,
          traceOverflow := false, unbound := false, throttled := false, started := none, away := 0,
          watched := false, section_ := [], after := none, invRead := [], past := [] }
      (status, s.writeRecord ctx (l.record k status 0))
    match (s.ctx ctx).openQueue queue with
    | none => refuse s 5 (unreadDesc n)
    | some q =>
      match s.readDesc ctx addr priv with
      | (none, s) => refuse s 6 (unreadDesc n)
      | (some x, s) =>
        let d := descOf x
        match s.checkDesc ctx x with
        | 0 =>
          let code := ((s.ctx ctx).codeDigest d.entry).getD (BitVec.ofNat 256 (Config.unread 2 n))
          (0, s.enter (newLaunch s ctx queue id d host code q))
        | status => refuse s status d

/-! ### launch (R265) -/

/-- The id of a device-side launch (R221). -/
def childId (parent : Dword) (gwarp lane count : Nat) : Dword :=
  let m := bytesOfNat 8 parent.toNat ++ bytesOfNat 4 gwarp ++ bytesOfNat 4 lane ++ bytesOfNat 4 count
  BitVec.ofNat 64 (natOfBytes (shake256 m 8)) ||| 0x8000000000000000

/-- One lane's launch: its status in D and its launch count up. -/
def Ctx.launchOne (c : Ctx) (f : FmtS) (s : State) (l : Nat) : State :=
  let w := (s.warp? c.uid c.wi).getD c.w
  let count := (Sparse.get (0 : Word) w.launches l).toNat
  let parent := match s.launches.look c.g.launch with
    | some x => x.id
    | none => 0
  let (status, s) := s.enqueue c.g.ctx (f.sel.toNat % 64) (c.w.rd64 f.a l) c.privileged
    (childId parent (globalWarp c.g c.wi) l count) none
  s.modWarp c.uid c.wi fun w =>
    { (w.wrAll f.d 1 [(l, status)]) with
      launches := w.launches.set (0 : Word) l (BitVec.ofNat 32 (count + 1)) }

/-- The lines of the descriptors that lanes name. -/
def Ctx.launchLocs (c : Ctx) (f : FmtS) (lanes : List Nat) : List Loc :=
  (lanes.flatMap fun l => c.s.cpLocs c.g.ctx (c.w.rd64 f.a l) 128).eraseDups

/-- launch: one launch per executing lane that is no helper, or one for the split when D and A are scalar;
a release at module scope; a region opens behind it (R265, R403). A module that Varve has frozen accepts
no launch: the split holds (R412). -/
def execLaunch (f : FmtS) (s : State) : Res :=
  issue (.launch f) s fun c =>
    let lanes := lanesOf (c.execs (.launch f) &&& ~~~c.w.helpers)
    let lanes := if isScalar f.d && isScalar f.a then lanes.take 1 else lanes
    if lanes.isEmpty then c.doneRegion (.launch f) c.s c.w
    else if !c.quiet || c.s.frozen then c.block
    else if c.s.claimed c.uid c.wi c.s.order (c.sp.arrived.map (·.1)) (c.launchLocs f lanes) then
      c.blockAt (c.launchLocs f lanes)
    else
      let s := lanes.foldl (c.launchOne f) c.s
      match s.warp? c.uid c.wi with
      | some w => c.doneRegion (.launch f) s w
      | none => .next s

end Sys2Proof.Machine
end

