-- ==== Sys2Proof/Machine/Place.lean ====
section
/-! DEFINITION. Placement of work-groups and gangs: the launchers, dispatch traces and virtual shapes
(file 07, R174 to R176, R192; file 08, R204 to R220). -/

namespace Sys2Proof.Machine

/-! ### Room on a core (R208, R214) -/

/-- What the work-groups of one core hold: granules, warp slots by sub-core, the matrix engine. -/
structure Room where
  granules : Nat
  used : List Nat
  matrix : Bool
  deriving DecidableEq, Repr

/-- Warps of a work-group on a sub-core. -/
def slotsOn (warps base sub : Nat) : Nat := ((List.range warps).filter fun i => (i + base) % 4 == sub).length

/-- Granules a work-group holds: its scratchpad's alone once it has retired before its gang (R193). -/
def WorkGroup.held (g : WorkGroup) : Nat := if g.warps.isEmpty then g.desc.scrGran else g.desc.granules

def roomOf (gs : List WorkGroup) : Room :=
  { granules := (gs.map (·.held)).sum
    used := (List.range 4).map fun k => (gs.map fun g => slotsOn g.warps.length g.base k).sum
    matrix := gs.any fun g => g.desc.matrix && !g.warps.isEmpty }

/-- Whether a work-group fits beside them, its warp 0 on sub-core `base` (R208). -/
def Room.fits (r : Room) (base : Nat) (d : Desc) : Bool :=
  r.granules + d.granules ≤ 192 && !(r.matrix && d.matrix) &&
    (List.range 4).all fun k => r.used.getD k 0 + slotsOn d.warps base k ≤ 32

/-- The resident work-groups of a physical core. -/
def State.onCore (s : State) (core : Nat) : List WorkGroup :=
  (s.wgs.filter fun p => p.2.core == core && p.2.resident).map (·.2)

/-- The work-groups of a logical core, resident or saved. -/
def State.onLogical (s : State) (ctx core : Nat) : List WorkGroup :=
  (s.wgs.filter fun p => p.2.ctx == ctx && p.2.lcore == core).map (·.2)

/-- Placement count of a logical core, or of the physical one, modulo 4. -/
def State.baseOf (s : State) (ctx core : Nat) : Nat :=
  (if (s.ctx ctx).deterministic then Sparse.get 0 (s.ctx ctx).placements core
   else (s.core core).placements) % 4

/-- Whether a descriptor's work-group fits a core of the context, logical in a deterministic one. -/
def State.fitsCore (s : State) (ctx core : Nat) (d : Desc) : Bool :=
  (roomOf (if (s.ctx ctx).deterministic then s.onLogical ctx core else s.onCore core)).fits
    (s.baseOf ctx core) d

/-! ### Virtual shapes (Table 8.5) -/

/-- Logical cores per die, dies, mesh width and height of a shape. -/
def shapeOf (code : Nat) : Nat × Nat × Nat × Nat :=
  match code with
  | 1 => (8, 1, 4, 2)
  | 2 => (16, 1, 4, 4)
  | 3 => (64, 1, 8, 8)
  | 4 => (64, 4, 8, 8)
  | _ => (64, 24, 8, 8)

/-- Least physical cores of a shape. -/
def shapeLeast (code : Nat) : Nat := [0, 1, 1, 4, 16, 96].getD code 0

/-- The physical core of a logical one (R216). -/
def Context.physical (k : Context) (lcore : Nat) : Nat :=
  k.partition.getD (lcore % max 1 k.partition.length) 0

/-- The physical core that carries a core of the context. -/
def Context.carrier (k : Context) (core : Nat) : Nat := if k.deterministic then k.physical core else core

/-- The room of a core beside one more work-group. -/
def Room.add (r : Room) (base : Nat) (d : Desc) : Room :=
  { granules := r.granules + d.granules
    used := r.used.zipIdx.map fun p => p.1 + slotsOn d.warps base p.2
    matrix := r.matrix || d.matrix }

/-- Whether a work-group for each of some bases fits a core, all at once. -/
def Room.fitsAll (d : Desc) : (bases : List Nat) → Room → Bool
  | [], _ => true
  | b :: r, x => x.fits b d && Room.fitsAll d r (x.add b d)

/-- Whether work-groups on some cores of a context can all be resident at once on the physical cores, beside what `room`
says is there: each on the sub-cores that its own core's placement count gives (R208, R216). -/
def State.jointly (s : State) (ctx : Nat) (d : Desc) (cores : List Nat) (room : Nat → Room) : Bool :=
  let k := s.ctx ctx
  ((cores.map k.carrier).eraseDups).all fun p =>
    Room.fitsAll d ((cores.filter fun c => k.carrier c == p).map (s.baseOf ctx)) (room p)

/-- Cores per die, mesh width and height of the die a context places on. -/
def Context.mesh (k : Context) : Nat × Nat × Nat :=
  if k.deterministic then
    let (c, _, x, y) := shapeOf k.shape
    (c, x, y)
  else (64, 8, 8)

/-- Dies a context places on: logical ones, or the dies of its partition. -/
def Context.dies (k : Context) : List Nat :=
  if k.deterministic then List.range (shapeOf k.shape).2.1 else ((k.partition.map (· / 64)).eraseDups)

/-- The cores of one of them, ascending. -/
def Context.coresOf (k : Context) (die : Nat) : List Nat :=
  if k.deterministic then (List.range (shapeOf k.shape).1).map fun i => die * (shapeOf k.shape).1 + i
  else k.partition.filter fun c => c / 64 == die

/-- The die of a core that the context places on. -/
def Context.physicalDie (k : Context) (core : Nat) : Nat := k.carrier core / 64

/-! ### Heads of queues (R204, R206, R220) -/

/-- The next work-group or gang of a queue: its launch, its first linear id, and the logical cores that a bound trace names,
by member. -/
structure Head where
  ctx : Nat
  queue : Nat
  launch : Nat
  id : Nat
  bound : Option (List Nat)
  desc : Desc
  priority : Nat
  since : Nat
  deriving DecidableEq, Repr

/-- The lowest id from `next` up that is not in a list; `fuel` is above the list's length. -/
def lowestFree (placed : List Nat) : (fuel next : Nat) → Nat
  | 0, next => next
  | n + 1, next => if placed.contains next then lowestFree placed n (next + 1) else next

/-- The linear id that comes next in ascending order. -/
def Launch.nextId (l : Launch) : Nat := lowestFree l.placed (l.placed.length + 1) l.next

/-- Whether a work-group has been dispatched. -/
def Launch.has (l : Launch) (id : Nat) : Bool := id < l.next || l.placed.contains id

/-- What a bound queue's trace says now. -/
inductive Binding where
  /-- a condition of R220 drops the binding -/
  | unbind
  /-- the launch whose turn it is has not arrived -/
  | wait
  /-- the next work-group or gang of a launch: its first id, and its logical cores by member -/
  | next (launch id : Nat) (cores : List Nat)
  deriving DecidableEq, Repr

/-- Whether a launch is held in a bound queue: its turn has not come (R220). -/
def State.isHeld (s : State) (l : Launch) : Bool :=
  match (s.ctx l.ctx).queues.look l.queue with
  | some q => q.bound && l.mode == 2 && !l.unbound && l.dispatched == 0 &&
      ((s.traceEntry l.ctx q q.tracePos).map fun h => l.id != h.extractLsb' 0 64).getD true
  | none => false

/-- Launches of the context have arrived, and every one of them has completed, but for those held for their turn (R220; log
73). -/
def State.allHeld (s : State) (ctx : Nat) : Bool :=
  ((s.ctx ctx).queues.any fun q => q.2.last.isSome) && s.launches.all fun p => p.2.ctx != ctx || s.isHeld p.2

/-- The entries of the next work-group or gang of a launch's section: n of them; none past the buffer. -/
def State.nextEntries (s : State) (ctx : Nat) (q : Queue) (l : Launch) : Option (List (Nat × Nat)) :=
  (List.range l.desc.members).mapM fun i =>
    (s.traceEntry ctx q (q.tracePos + 16 * (l.dispatched + 1 + i))).bind fun e =>
      if e.getLsbD 127 then none else some ((e.extractLsb' 0 96).toNat, (e.extractLsb' 96 11).toNat)

/-- Whether the entries name one gang, each member once, that the launch has and the section has not named (R192, R220;
log 73). -/
def Launch.takes (l : Launch) (es : List (Nat × Nat)) : Bool :=
  let n := l.desc.members
  es.all (fun e => e.1 < l.desc.grid && !l.has e.1 && e.1 / n == (es.headD (0, 0)).1 / n) &&
    (List.range n).all fun m => es.any fun e => e.1 % n == m

/-- Reads a bound queue's trace (R220). -/
def State.binding (s : State) (ctx : Nat) (q : Queue) : Binding :=
  match s.traceEntry ctx q q.tracePos with
  | none => if q.launches.isEmpty then .wait else .unbind
  | some header =>
    match q.launches.findSome? fun u => (s.launches.look u).bind fun l =>
        if l.id == header.extractLsb' 0 64 then some (u, l) else none with
    | none => if s.allHeld ctx then .unbind else .wait
    | some (u, l) =>
      if headerCount header < l.dispatched + l.desc.members then .unbind
      else
        match s.nextEntries ctx q l with
        | none => .unbind
        | some es =>
          let n := l.desc.members
          if !l.takes es then .unbind
          else .next u ((es.headD (0, 0)).1 / n * n) ((List.range n).filterMap fun m =>
            (es.find? fun e => e.1 % n == m).map (·.2))

/-- The queues, as context and number, whose binding R220 drops now. -/
def State.unsettled (s : State) : List (Nat × Nat) :=
  s.contexts.flatMap fun c =>
    (c.2.queues.filter fun q => q.2.bound && s.binding c.1 q.2 == .unbind).map fun q => (c.1, q.1)

/-- Whether a launch may dispatch its first work-group (R204). -/
def Launch.free (s : State) (l : Launch) : Bool :=
  match l.after with
  | some u => (s.launches.look u).isNone
  | none => true

/-- The head of a queue. -/
def State.headOf (s : State) (ctx queue : Nat) (q : Queue) : Option Head :=
  let mk (u : Nat) (id : Nat) (bound : Option (List Nat)) : Option Head :=
    (s.launches.look u).bind fun l =>
      if l.free s then some ⟨ctx, queue, u, id, bound, l.desc, q.priority, q.headSince⟩ else none
  if q.bound then
    match s.binding ctx q with
    | .next u id cores => mk u id (some cores)
    | _ => none
  else
    match q.launches with
    | u :: _ => (s.launches.look u).bind fun l => mk u l.nextId none
    | [] => none

/-- A context whose work-groups may be placed: not pre-empted, and nothing saved waits (R407, R410). -/
def State.mayPlace (s : State) (ctx : Nat) (k : Context) : Bool :=
  k.preempt.isNone && (k.deterministic || s.wgs.all fun p => p.2.ctx != ctx || p.2.resident)

/-- The head work-groups that a die's launcher considers. -/
def State.heads (s : State) (die : Nat) : List Head :=
  s.contexts.flatMap fun c =>
    if s.mayPlace c.1 c.2 && c.2.partition.any (· / 64 == die) then
      c.2.queues.filterMap fun q => s.headOf c.1 q.1 q.2
    else []

/-! ### The energy budget (R205 to R207) -/

/-- The rate the resident work-groups of a die hold. -/
def State.heldRate (s : State) (die : Nat) : Nat :=
  ((s.wgs.filter fun p => p.2.resident && p.2.core / 64 == die && !p.2.warps.isEmpty).map fun p =>
    energyRate p.2.energy).sum

/-- The rate of a head: of every member of a gang. -/
def Head.rate (h : Head) : Nat := energyRate h.desc.energy * h.desc.members

def State.rateFits (s : State) (die : Nat) (h : Head) : Bool :=
  s.heldRate die + h.rate ≤ (s.die die).budget ||
    !(s.wgs.any fun p => p.2.ctx == h.ctx && p.2.resident && p.2.core / 64 == die)

def State.queue (s : State) (h : Head) : Option Queue := (s.ctx h.ctx).queues.look h.queue

def State.isAged (s : State) (die : Nat) (h : Head) : Bool :=
  match s.queue h with
  | some q => q.aged.contains die
  | none => false

/-! ### New work-groups (R47, R176, R200, R208, R217) -/

/-- Granules of a core's pool that no work-group holds (R41). -/
def State.freeGranules (s : State) (core : Nat) : List Nat :=
  (List.range 192).filter fun n => !(s.onCore core).any fun g => g.granules.contains n

/-- The granules that a work-group takes, one after the other from those that are free (R41, R46; log 11). -/
def takeGranules (n : Nat) : (k : Nat) → (free : List Nat) → List Nat
  | 0, _ => []
  | k + 1, free =>
    let i := Config.leftGranule n k % max 1 free.length
    match free[i]? with
    | some x => x :: takeGranules n k (free.eraseIdx i)
    | none => []

/-- Granules of a work-group's list, in the order register file, scratchpad, extension tiles. -/
def scratchGranules (d : Desc) (l : List Nat) : List Nat := (l.drop d.regGran).take d.scrGran
def tileGranules (d : Desc) (l : List Nat) : List Nat := l.drop (d.regGran + d.scrGran)

/-- What a granule holds for a work-group of a context that takes it: each byte zero, or what a work-group of the same
context left there; of another context, nothing (R39, R47; log 11). -/
def Core.kept (k : Core) (ctx n granule : Nat) : Memory :=
  match k.granules.look granule with
  | some x => if x.ctx = ctx then x.bytes.filter fun p => Config.keepsByte n (granule * 16384 + p.1) else []
  | none => []

/-- A new work-group's scratchpad. -/
def Core.keptScratch (k : Core) (ctx n : Nat) (granules : List Nat) : Memory :=
  granules.zipIdx.flatMap fun p => (k.kept ctx n p.1).map fun b => (p.2 * 16384 + b.1, b.2)

/-- The bytes of a word that its store keeps (R47). -/
def keptWord (n key : Nat) (x : Word) : Word :=
  BitVec.ofNat 32 (natOfBytes ((bytesOfNat 4 x.toNat).zipIdx.map fun p =>
    if Config.keepsByte n (2 ^ 22 + 4 * key + p.2) then p.1 else 0))

/-- A new work-group's tiles: the dedicated ones under the same rules, and one for each extension granule (R46, R47). -/
def Core.keptTiles (k : Core) (ctx n : Nat) (granules : List Nat) : Sparse Word :=
  let own := match k.tileLeft with
    | some (c, ws) => if c = ctx then (ws.map fun p => (p.1, keptWord n p.1 p.2)).filter fun p => p.2 != 0 else []
    | none => []
  own ++ granules.zipIdx.flatMap fun p =>
    let bs := k.kept ctx n p.1
    ((bs.map (·.1 / 4)).eraseDups).map fun e => (4096 * (32 + p.2) + e, BitVec.ofNat 32 (bs.value (4 * e) 4))

/-- The lanes of warp i that are not absent, and those that are helper lanes (R175). -/
def warpLanes (d : Desc) (i : Nat) : Lanes × Lanes :=
  let ts := (List.range d.width).map fun l => (l, i * d.width + l)
  (maskOf ((ts.filter fun p => p.2 / 4 * 4 < d.threads).map (·.1)),
    maskOf ((ts.filter fun p => p.2 / 4 * 4 < d.threads && d.threads ≤ p.2).map (·.1)))

/-- A warp at its first instruction (R47, R75, R179, R180, R188, R200). -/
def newWarp (d : Desc) (i sub slot now order : Nat) (active : Bool) : Warp :=
  let (live, helpers) := warpLanes d i
  let sp : Split :=
    { id := 0, lanes := live, pc := d.entry, wait := none, readyAt := now, aged := false, entry := d.entry,
      counter := 0, counts := [], arrived := none }
  { sub := sub, slot := slot, active := active, live := live, helpers := helpers,
    regs := Sparse.setMany (0 : Word) [] [(32768, d.args.truncate 32), (32769, d.args.extractLsb' 32 32)],
    empty := [], damaged := [], masks := [], slots := presetSlots, key := BitVec.zeroExtend 128 d.seed, seq := [],
    launches := [], splits := [sp], nextSplit := 1, regions := 0, txns := [], txst := [], storeQ := [],
    producers := [], nextProducer := 0, tags := [], tokens := 0, badTokens := [], tape := none, hndLo := 0, hndHi := 0,
    hndLoSet := false, hndHiSet := false, hndPending := none, hmask := 0, held := [], handler := none,
    fw := none, trapSeq := 0, latches := [], matFaults := [], synced := order }

/-- Warp slots of a core's sub-core that are taken, and its active warps. -/
def takenSlots (gs : List WorkGroup) (sub : Nat) : List Nat :=
  gs.flatMap fun g => (g.warps.filter fun w => w.sub == sub).map (·.slot)

def activeCount (gs : List WorkGroup) (sub : Nat) : Nat :=
  (gs.flatMap fun g => g.warps.filter fun w => w.sub == sub && w.active).length

/-- Places warps on the sub-cores of a core in ascending index: the lowest free slot each, active while
fewer than 8 are (R208, R210). -/
def seatWarps (gs : List WorkGroup) (base : Nat) (make : (i sub slot : Nat) → (active : Bool) → Warp) :
    (n : Nat) → List Warp
  | 0 => []
  | n + 1 =>
    let before := seatWarps gs base make n
    let sub := (n + base) % 4
    let taken := takenSlots gs sub ++ (before.filter fun w => w.sub == sub).map (·.slot)
    let slot := ((List.range 32).find? fun k => !taken.contains k).getD 0
    let active := activeCount gs sub + (before.filter fun w => w.sub == sub && w.active).length < 8
    before ++ [make n sub slot active]

/-- A work-group on a core, before its first instruction: a saved one holds no granules yet. -/
def newWorkGroup (s : State) (ctx launch id : Nat) (d : Desc) (gang : Option Nat)
    (member core lcore base : Nat) (resident : Bool) : WorkGroup :=
  let k := s.core core
  let n := s.order
  let det := (s.ctx ctx).deterministic
  let granules := if resident then takeGranules n d.granules (s.freeGranules core) else []
  { ctx := ctx, launch := launch, id := id, gang := gang, member := member, core := core, lcore := lcore,
    desc := d, resident := resident, saving := false,
    warps := seatWarps (s.onCore core) base (fun i sub slot active =>
      newWarp d i sub slot (s.now core) n (active && resident)) d.warps,
    scratch := if det then [] else k.keptScratch ctx n (scratchGranules d granules),
    granules := granules, inbox := [],
    tiles := if det || !d.matrix then [] else k.keptTiles ctx n (tileGranules d granules),
    tileFlags := [], damaged := [], banks := [], shadows := [], fifoA := [], fifoB := [], scaleTab := [], ops := [],
    queueNo := 0, conv := [], windows := [], counters := newCounters (s.now core), energy := d.energy, trellis := 0, succ := 0,
    base := base, born := s.now core }

/-- The record of a placement (type 0x30). -/
def State.notePlaced (s : State) (h : Head) (g : WorkGroup) : State :=
  s.varveWg g 0x30 (field 48 32 g.id + field 80 6 h.queue + field 86 6 h.ctx + field 92 4 (h.desc.warps - 1) +
    field 96 32 (s.launchId g).toNat)

/-- A core whose pool granules, and dedicated tiles, a work-group has taken. -/
def Core.giveUp (k : Core) (g : WorkGroup) : Core :=
  { k with granules := k.granules.filter fun p => !g.granules.contains p.1,
           tileLeft := if g.resident && g.desc.matrix then none else k.tileLeft }

/-- Places one work-group on a core (logical in a deterministic context): its name, and the state. -/
def State.placeOne (s : State) (h : Head) (id core : Nat) (gang : Option Nat) (member : Nat) (resident : Bool) :
    Nat × State :=
  let phys := (s.ctx h.ctx).carrier core
  let g := newWorkGroup s h.ctx h.launch id h.desc gang member phys core (s.baseOf h.ctx core) resident
  let (_, s) := s.stamp
  let (u, s) := s.fresh
  let s := (s.setWg u g).dropL1 phys h.launch
  let s := s.modCore phys fun c => { c.giveUp g with placements := c.placements + 1 }
  let s := s.modCtx h.ctx fun k =>
    { k with placements := k.placements.set 0 core (Sparse.get 0 k.placements core + 1) }
  (u, s.notePlaced h g)

/-! ### Dispatch (R204, R218 to R220) -/

/-- A work-group's entry in a trace section, and a launch's header (Table 8.6). -/
def traceWg (id core : Nat) : BitVec 128 := BitVec.ofNat 128 (id % 2 ^ 96 + core % 2048 * 2 ^ 96)

def traceHeader (l : Launch) : BitVec 128 :=
  BitVec.ofNat 128 (l.id.toNat + l.desc.grid % 2 ^ 32 * 2 ^ 64 + 0x7FF * 2 ^ 96 + 2 ^ 127)

/-- Appends entries to a recording launch's section; past the buffer's end nothing more is written (R219). An entry whose
write fails translation is not written either, and counts all the same in the section and its position (DESIGN CHOICE, log
136). -/
def State.recordTrace (s : State) (u : Nat) : (es : List (BitVec 128)) → State
  | [] => s
  | e :: r =>
    match s.launches.look u with
    | none => s
    | some l =>
      match (s.ctx l.ctx).queues.look l.queue with
      | none => s
      | some q =>
        if l.traceOverflow || q.traceSize < q.tracePos + 16 then
          s.modLaunch u fun l => { l with traceOverflow := true }
        else
          let (_, s) := s.cpWrite l.ctx (q.traceBase + q.tracePos) (bytesOfNat 16 e.toNat)
          let s := s.modLaunch u fun l => { l with section_ := l.section_ ++ [e] }
          (s.modQueue l.ctx l.queue fun q => { q with tracePos := q.tracePos + 16 }).recordTrace u r

/-- The section a bound launch runs under, read at its first dispatch. -/
def State.boundSection (s : State) (ctx : Nat) (q : Queue) : List (BitVec 128) :=
  match s.traceEntry ctx q q.tracePos with
  | none => []
  | some e => e :: (List.range (headerCount e)).filterMap fun i => s.traceEntry ctx q (q.tracePos + 16 * (i + 1))

/-- What a dispatch leaves in the queue: a new head, and the launch gone once it is dispatched whole. -/
def Queue.advance (q : Queue) (u now : Nat) (whole : Bool) (trace : Nat) : Queue :=
  { q with launches := if whole then q.launches.filter (· != u) else q.launches,
           tracePos := q.tracePos + trace, headSince := now, passed := [], aged := [], reserved := none }

/-- Counts dispatched work-groups of a launch, and traces them (R204, R219). -/
def State.dispatch (s : State) (h : Head) (wgs : List (Nat × Nat)) : State :=
  match s.launches.look h.launch with
  | none => s
  | some l =>
    let first := l.dispatched = 0
    let q := ((s.ctx h.ctx).queues.look h.queue)
    let s := if l.mode = 1 then
        s.recordTrace h.launch ((if first then [traceHeader l] else []) ++ wgs.map fun p => traceWg p.1 p.2)
      else s
    let section_ := match q, h.bound with
      | some q, some _ => if first then s.boundSection h.ctx q else l.section_
      | _, _ => l.section_
    let s := s.modLaunch h.launch fun l =>
      { l with section_ := if h.bound.isSome then section_ else l.section_,
               dispatched := l.dispatched + wgs.length,
               started := some (l.started.getD s.time),
               next := if h.bound.isNone then h.id + wgs.length else l.next,
               placed := if h.bound.isSome then l.placed ++ wgs.map (·.1) else l.placed }
    let whole := l.dispatched + wgs.length = l.desc.grid
    let trace := if whole && h.bound.isSome then 16 * (l.desc.grid + 1) else 0
    s.modQueue h.ctx h.queue fun q => q.advance h.launch s.time whole trace

/-! ### Where a single work-group goes -/

/-- A list turned to start behind an element. -/
def startAfter (l : List Nat) (x : Nat) : List Nat := l.filter (x < ·) ++ l.filter (· ≤ x)

/-- Cores in the rectangle of a gang's shape at a corner of a die (R192): by member index. -/
def Context.rectangle (k : Context) (die x0 y0 : Nat) (d : Desc) : List Nat :=
  let (c, x, _) := k.mesh
  (List.range d.members).map fun m => die * c + (y0 + m / d.gangW) * x + x0 + m % d.gangW

/-- Every corner of a die at which a shape lies on the mesh, y0 then x0 ascending. -/
def Context.corners (k : Context) (d : Desc) : List (Nat × Nat) :=
  let (_, x, y) := k.mesh
  if x < d.gangW ∨ y < d.gangH then []
  else (List.range (y - d.gangH + 1)).flatMap fun y0 => (List.range (x - d.gangW + 1)).map fun x0 => (x0, y0)

/-- Whether a core of a context lies in the rectangle that an aged gang of another launch reserves, of any context: a core of
the same context by its number, else the physical core (R209). -/
def State.barred (s : State) (ctx launch core : Nat) : Bool :=
  s.contexts.any fun k => k.2.queues.any fun q =>
    match q.2.reserved, q.2.launches.head?.bind s.launches.look with
    | some (d, x0, y0), some l =>
      q.2.launches.head? != some launch &&
        (let cores := k.2.rectangle d x0 y0 l.desc
         if k.1 = ctx then cores.contains core
         else (cores.map k.2.carrier).contains ((s.ctx ctx).carrier core))
    | _, _ => false

/-- The core a single work-group goes to, with the die it is placed on (R208, R214). -/
def State.singleCore (s : State) (h : Head) (die : Nat) : Option (Nat × Nat) :=
  let k := s.ctx h.ctx
  match h.bound with
  | some cores =>
    let core := cores.headD 0
    if core < (shapeOf k.shape).1 * (shapeOf k.shape).2.1 && k.physicalDie core == die &&
        s.fitsCore h.ctx core h.desc then some (core / (shapeOf k.shape).1, core) else none
  | none =>
    (if k.deterministic then k.dies else [die]).findSome? fun d =>
      let cores := k.coresOf d
      let last := if k.deterministic then Sparse.get (k.mesh.1 - 1) k.lastSingle d + d * k.mesh.1
        else d * 64 + (s.die d).lastSingle
      match (startAfter cores last).find? fun c => s.fitsCore h.ctx c h.desc && !s.barred h.ctx h.launch c with
      | some c => if k.physicalDie c == die then some (d, c) else none
      | none => none

/-- Remembers where the last single work-group of a die went. -/
def State.noteSingle (s : State) (ctx die core : Nat) : State :=
  let k := s.ctx ctx
  if k.deterministic then
    s.modCtx ctx fun k => { k with lastSingle := k.lastSingle.set (k.mesh.1 - 1) die (core % k.mesh.1) }
  else s.modDie die fun d => { d with lastSingle := core % 64 }

/-! ### Restoring what a pre-emption saved (R410, R420) -/

/-- Gang-barrier entries of a die in use: those of gangs that are not saved (R159). -/
def State.gangEntries (s : State) (die : Nat) : Nat :=
  (s.gangs.filter fun g => g.2.die == die && g.2.members.any fun u =>
    match s.wgs.look u with
    | some x => x.resident
    | none => false).length

/-- The work-groups that are saved and restored with one: its gang, or itself (R216, R408). -/
def State.group (s : State) (u : Nat) : List Nat :=
  match s.wgs.look u with
  | some g => s.gangOf g u
  | none => []

/-- A split that a restored warp restarts: not one that has arrived at a gang barrier, whose arrival a saved work-group
keeps (R160, R216, R410). -/
def Split.restarts (sp : Split) : Bool := sp.wait != some .gsync

/-- A warp of a restored work-group: every split restarts at its region entry with the counts recorded there. A warp
that firmware holds keeps its splits for the resume command (R405, R408, R410). -/
def Warp.restart (w : Warp) (now : Nat) : Warp :=
  if w.fw.isSome then w else (w.splits.filter Split.restarts).foldl (fun w sp => w.replay 0 sp.id now) w

/-- The replay records of a restored warp (type 0x13). -/
def State.noteRestart (s : State) (g : WorkGroup) (w : Warp) : State :=
  if w.fw.isSome then s else (w.splits.filter Split.restarts).foldl (fun s sp => s.noteReplay g w sp) s

/-- Restores one saved work-group on a physical core: its warps take places there anew (R208, R410). An altered image is
not restored: the forced reset that follows is `State.failRestores`. -/
def State.restoreOne (s : State) (u core : Nat) : State :=
  match s.wgs.look u with
  | none => s
  | some g => if g.image ≠ .intact then s.setWg u { g with image := .refused } else
    let det := (s.ctx g.ctx).deterministic
    let base := if det then g.base else (s.core core).placements % 4
    let make (i sub slot : Nat) (active : Bool) : Warp :=
      match g.warps[i]? with
      | some w => { (w.restart (s.now core)) with sub := sub, slot := slot, active := active }
      | none => newWarp g.desc i sub slot (s.now core) s.order active
    let g' := { g with granules := takeGranules s.order g.held (s.freeGranules core), core := core,
                       lcore := (if det then g.lcore else core), base := base, resident := true,
                       saving := false, warps := seatWarps (s.onCore core) base make g.warps.length }.startCounters (s.now core)
    let s := (s.setWg u g').dropL1 core g.launch
    let s := s.modCore core fun c => { c.giveUp g' with placements := c.placements + 1 }
    let s := s.varveWg g' 0x34 (field 48 32 g.id + field 96 32 (s.launchId g).toNat)
    g'.warps.foldl (fun s w => s.noteRestart g' w) s

/-- Restores a group on physical cores, and gives its gang an entry there. -/
def State.restoreGroup (s : State) (us cores : List Nat) (die x0 y0 : Nat) : State :=
  let spill := 256 ≤ s.gangEntries die
  let s := (us.zip cores).foldl (fun s p => s.restoreOne p.1 p.2) s
  match (us.head?.bind s.wgs.look).bind (·.gang) with
  | some k =>
    match s.gangs.look k with
    | some x => { s with gangs := s.gangs.put k (some { x with die := die, x0 := x0, y0 := y0, spill := spill }) }
    | none => s
  | none => s

/-- The head that a saved work-group stands for in the search of R209. -/
def State.savedHead (s : State) (g : WorkGroup) : Head :=
  let queue := ((s.launches.look g.launch).map (·.queue)).getD 0
  ⟨g.ctx, queue, g.launch, g.id, none, g.desc, 0, 0⟩

/-! ### Where a gang goes (R209, R216) -/

/-- Whether the members of a rectangle can all be resident at once on the physical cores, with every other work-group
saved (R216). -/
def State.carries (s : State) (ctx : Nat) (cores : List Nat) (d : Desc) : Bool :=
  !(s.ctx ctx).deterministic || s.jointly ctx d cores fun _ => roomOf []

/-- The rectangles of a die inside the partition, by corner. -/
def State.rectangles (s : State) (ctx die : Nat) (d : Desc) : List (Nat × Nat) :=
  let k := s.ctx ctx
  k.corners d |>.filter fun c =>
    let cores := k.rectangle die c.1 c.2 d
    (k.deterministic || cores.all k.partition.contains) && s.carries ctx cores d

/-- Whether every core of a rectangle fits its member, outside the rectangles that other aged gangs reserve. -/
def State.isFree (s : State) (h : Head) (cores : List Nat) : Bool :=
  cores.all fun x => s.fitsCore h.ctx x h.desc && !s.barred h.ctx h.launch x

/-- The free rectangle of a die with the lowest corner. -/
def State.freeRectangle (s : State) (h : Head) (die : Nat) : Option (Nat × Nat) :=
  (s.rectangles h.ctx die h.desc).find? fun c => s.isFree h ((s.ctx h.ctx).rectangle die c.1 c.2 h.desc)

/-- Ends a launch that fails its placement check, with status gang-place (R203). -/
def State.refuseHead (s : State) (h : Head) (status : Nat) : State :=
  match s.launches.look h.launch with
  | none => s
  | some l =>
    let s := s.writeRecord h.ctx (l.record (s.ctx h.ctx) status 0)
    let p := s.page h.ctx
    let s := s.setPage h.ctx { p with lrReserved := p.lrReserved - 1 }
    let s := { s with launches := s.launches.del h.launch }.arrives (.launch h.launch)
    let s := s.modQueue h.ctx h.queue fun q => q.advance h.launch s.time true 0
    match l.host with
    | some (page, tag, irq) => s.post page (completionEntry h.ctx tag 0x05 1 status l.id.toNat 0 0xFFFF) irq
    | none => s

/-- The rectangle that an aged gang has reserved (R209). -/
def State.reservedBy (s : State) (h : Head) : Option (Nat × Nat × Nat) :=
  match s.queue h with
  | some q => if q.launches.head? == some h.launch then q.reserved else none
  | none => none

/-- The die a gang goes to and its corner: the cores that a bound trace names, when they are a rectangle of its shape; the
rectangle that it has reserved; or the first die in the search order with a free rectangle. The die that places it is that of
the rectangle's first core, and its rate must fit there (R206, R209, R220). -/
def State.gangSpot (s : State) (h : Head) : Option (Nat × Nat × Nat) :=
  let k := s.ctx h.ctx
  let fits (c : Nat × Nat × Nat) : Bool :=
    s.rateFits (k.physicalDie ((k.rectangle c.1 c.2.1 c.2.2 h.desc).headD 0)) h
  match h.bound, s.reservedBy h with
  | some cores, _ =>
    let (c, x, _) := k.mesh
    let core := cores.headD 0
    let corner := (core / c, core % c % x, core % c / x)
    if (s.rectangles h.ctx corner.1 h.desc).contains corner.2 && k.dies.contains corner.1 &&
        cores == k.rectangle corner.1 corner.2.1 corner.2.2 h.desc && s.isFree h cores && fits corner
    then some corner else none
  | none, some c =>
    if s.isFree h (k.rectangle c.1 c.2.1 c.2.2 h.desc) && fits c then some c else none
  | none, none =>
    let last := ((s.queue h).map (·.lastDie)).getD 0
    (startAfter k.dies last).findSome? fun d => ((s.freeRectangle h d).map fun c => (d, c)).filter fits

/-- Places the members of a gang, ascending: all resident, or all saved (R192, R216). -/
def State.placeMembers (s : State) (h : Head) (gang : Nat) (resident : Bool) :
    (ms : List (Nat × Nat)) → List Nat × State
  | [] => ([], s)
  | (m, core) :: r =>
    let (u, s) := s.placeOne h (h.id + m) core (some gang) m resident
    let (us, s) := s.placeMembers h gang resident r
    (u :: us, s)

/-- Whether work-groups placed on some cores find room on the physical ones now; else they start saved (R216). -/
def State.roomNow (s : State) (h : Head) (cores : List Nat) : Bool :=
  s.jointly h.ctx h.desc cores fun p => roomOf (s.onCore p)

/-- Whether the shape of a gang has no rectangle on any die (Table 8.2, status 4). -/
def State.noRectangle (s : State) (h : Head) : Bool :=
  (s.ctx h.ctx).dies.all fun d => (s.rectangles h.ctx d h.desc).isEmpty

/-- The first saved group of a context that is not deterministic, restored on a die if its rectangle is there. -/
def State.restoreOn (s : State) (die : Nat) : Option State :=
  s.wgs.findSome? fun p =>
    let g := p.2
    let k := s.ctx g.ctx
    if g.resident || k.deterministic || k.preempt.isSome then none
    else
      match s.gangSpot (s.savedHead g) with
      | some (d, x0, y0) =>
        if d = die then
          let s := s.restoreGroup (s.group p.1) (k.rectangle d x0 y0 g.desc) d x0 y0
          some (if g.gang.isSome then s.modQueue g.ctx (s.savedHead g).queue fun q => { q with lastDie := d } else s)
        else none
      | none => none

/-! ### The choice of a launcher (R206, R207) -/

/-- Whether a die's launcher can place a head now: its rate and a core or rectangle of the die fit; a gang that no
rectangle can ever hold is refused there. -/
def State.canPlace (s : State) (die : Nat) (h : Head) : Bool :=
  if h.desc.members = 1 then s.rateFits die h && (s.singleCore h die).isSome
  else s.noRectangle h ||
    match s.gangSpot h with
    | some (d, x0, y0) =>
      let k := s.ctx h.ctx
      k.physicalDie ((k.rectangle d x0 y0 h.desc).headD 0) == die
    | none => false

/-- Whether a head could be placed on another die of its context. -/
def State.placesElsewhere (s : State) (h : Head) : Bool :=
  (((s.ctx h.ctx).partition.map (· / 64)).eraseDups).any fun d => s.canPlace d h

/-- Inserts a head: higher priority, then aged on the die, then longer waiting, then the lower queue. -/
def State.insertHead (s : State) (die : Nat) (h : Head) : List Head → List Head
  | [] => [h]
  | x :: r =>
    let a := s.isAged die h
    let b := s.isAged die x
    if x.priority < h.priority ∨ (x.priority = h.priority ∧ ((a && !b) ∨ (a = b ∧
        (h.since < x.since ∨ (h.since = x.since ∧ h.queue < x.queue))))) then h :: x :: r
    else x :: s.insertHead die h r

/-- The first head that can be placed. Nothing of lower priority goes ahead of a head that waits only for a core
(R206), nothing of equal or lower priority ahead of an aged one (R207): `bar` is the least priority that may go. -/
def State.firstHead (s : State) (die : Nat) : (heads : List Head) → (bar : Nat) → Option Head
  | [], _ => none
  | h :: r, bar =>
    if h.priority < bar then none
    else if s.canPlace die h then some h
    else if s.isAged die h then s.firstHead die r (h.priority + 1)
    else if s.rateFits die h && !s.placesElsewhere h then s.firstHead die r h.priority
    else s.firstHead die r bar

/-- The head a die places next (log 27). -/
def State.chosen (s : State) (die : Nat) : Option Head :=
  s.firstHead die ((s.heads die).foldl (fun l h => s.insertHead die h l) []) 0

/-! ### WORK_GROUP_PLACE -/

/-- The lines of the trace that dispatching a head of a recording launch writes (R219). -/
def State.traceLocs (s : State) (h : Head) : List Loc :=
  match s.launches.look h.launch, s.queue h with
  | some l, some q =>
    if l.mode = 1 ∧ !l.traceOverflow then
      s.cpLocs h.ctx (q.traceBase + q.tracePos) (16 * (h.desc.members + if l.dispatched = 0 then 1 else 0))
    else []
  | _, _ => []

/-- WORK_GROUP_PLACE: the die's launcher places its chosen single head (R206, R208), or drops a binding
that R220 drops. -/
def execWorkGroupPlace (die : Nat) (s : State) : Res :=
  match s.unsettled with
  | q :: rest => .next ((q :: rest).foldl (fun s q => s.unbind q.1 q.2) s)
  | [] =>
    match s.chosen die with
    | none => .fault .notEnabled
    | some h =>
      if h.desc.members ≠ 1 then .fault .notEnabled
      else
        match s.singleCore h die with
        | none => .fault .notEnabled
        | some (d, core) =>
          s.afterClaims (.launch h.launch) (s.traceLocs h) fun s =>
            let (_, s) := s.placeOne h h.id core none 0 (s.roomNow h [core])
            .next ((s.noteSingle h.ctx d core).dispatch h [(h.id, core)])

/-! ### GANG_PLACE -/

/-- Places a chosen gang (R209), or refuses its launch. -/
def State.placeGang (s : State) (die : Nat) : Res :=
  match s.chosen die with
  | none => .fault .notEnabled
  | some h =>
    if h.desc.members = 1 then .fault .notEnabled
    else if s.noRectangle h then .next (s.refuseHead h 4)
    else
      match s.gangSpot h with
      | none => .fault .notEnabled
      | some (d, x0, y0) =>
        let k := s.ctx h.ctx
        let cores := k.rectangle d x0 y0 h.desc
        if k.physicalDie (cores.headD 0) ≠ die then .fault .notEnabled
        else
          s.afterClaims (.launch h.launch) (s.traceLocs h) fun s =>
            let (n, s) := s.fresh
            let (us, s) := s.placeMembers h n (s.roomNow h cores) (cores.zipIdx.map fun p => (p.2, p.1))
            let spill := 256 ≤ s.gangEntries die
            let s := { s with gangs := s.gangs.put n (some ⟨h.ctx, die, x0, y0, us, spill, 0⟩) }
            let s := s.modQueue h.ctx h.queue fun q => { q with lastDie := d }
            .next (s.dispatch h (cores.zipIdx.map fun p => (h.id + p.2, p.1)))

/-- GANG_PLACE: a saved gang goes back on a free rectangle of its shape (R410); else a whole gang is placed on one of
one die (R209), or its launch refused. -/
def execGangPlace (die : Nat) (s : State) : Res :=
  match s.restoreOn die with
  | some s => .next s
  | none => s.placeGang die

/-! ### HEAD_AGED (R207, R209) -/

/-- The rectangle an aged gang reserves on a die: of those whose first core lies there, one of a context with a virtual shape
in ascending logical die, the one with the fewest occupied cores, then the lowest corner (R209; log 73). -/
def State.reserveFor (s : State) (h : Head) (die : Nat) : Option (Nat × Nat × Nat) :=
  if h.desc.members = 1 then none
  else
    let k := s.ctx h.ctx
    let cores (c : Nat × Nat × Nat) : List Nat := k.rectangle c.1 c.2.1 c.2.2 h.desc
    let occupied (c : Nat × Nat × Nat) : Nat := ((cores c).filter fun x =>
      !(if k.deterministic then s.onLogical h.ctx x else s.onCore x).isEmpty).length
    let all := (k.dies.flatMap fun d => (s.rectangles h.ctx d h.desc).map fun c => (d, c)).filter fun c =>
      k.physicalDie ((cores c).headD 0) == die
    all.foldl (fun (b : Option (Nat × Nat × Nat)) c =>
      match b with
      | none => some c
      | some x => if occupied c < occupied x then some c else b) none

/-- HEAD_AGED: a head passed over for budget in 16 consecutive windows. -/
def execHeadAged (die ctx queue : Nat) (s : State) : Res :=
  match (s.ctx ctx).queues.look queue with
  | none => .fault .notEnabled
  | some q =>
    match s.headOf ctx queue q with
    | none => .fault .notEnabled
    | some h =>
      if Sparse.get 0 q.passed die < 16 || q.aged.contains die then .fault .notEnabled
      else .next (s.modQueue ctx queue fun q =>
        { q with aged := q.aged ++ [die], reserved := q.reserved.or (s.reserveFor h die) })

/-- The end of one 10 µs window of a die: heads whose rate did not fit count it (R207). -/
def State.countWindow (s : State) (die : Nat) : State :=
  (s.heads die).foldl (fun t h => t.modQueue h.ctx h.queue fun q =>
    { q with passed := q.passed.set 0 die (if s.rateFits die h then 0 else Sparse.get 0 q.passed die + 1) }) s

end Sys2Proof.Machine
end

