-- ==== Sys2Proof/Machine/System.lean ====
section
/-! DEFINITION. System instructions: selectors, marks, sleep, energy, counters, capsule reads, handlers
(file 18; file 19, R402). -/

namespace Sys2Proof.Machine

/-! ### Selectors (Table 18.1) -/

/-- Low selectors of the 64-bit values (R383), with their value. -/
def Ctx.wide64 (c : Ctx) (sel : Nat) : Option Nat :=
  let d := c.g.desc
  match sel with
  | 0x10 => some (c.s.launchId c.g).toNat
  | 0x12 => some d.seed.toNat
  | 0x14 => some d.ctrBase.toNat
  | 0x100 => some (c.now % 2 ^ 64)
  | 0x102 => some (c.s.time % 2 ^ 64)
  | 0x300 => some c.w.handlerAddr
  | _ => none

/-- A selector of one word. -/
def Ctx.selector (c : Ctx) (sel l : Nat) : Nat :=
  let d := c.g.desc
  let k := c.context
  let die := c.s.die (c.g.core / 64)
  let gx := d.gridX + 1
  let gy := d.gridY + 1
  match sel with
  | 0x00 => l
  | 0x01 => c.wi
  | 0x02 => c.g.id % gx
  | 0x03 => c.g.id / gx % gy
  | 0x04 => c.g.id / gx / gy
  | 0x05 => c.g.id
  | 0x06 => c.g.id / 2 ^ 32
  | 0x07 => c.g.id / 2 ^ 64
  | 0x08 => globalWarp c.g c.wi
  | 0x09 => c.g.id / d.members
  | 0x0A => c.g.id % d.members
  | 0x0B => d.gridX
  | 0x0C => d.gridY
  | 0x0D => d.gridZ
  | 0x0E => d.width
  | 0x0F => d.threads
  | 0x16 => if k.deterministic then c.g.lcore else c.g.core % 64
  | 0x17 => if k.deterministic then c.g.lcore / (shapeOf k.shape).1 else c.g.core / 64
  | 0x18 => if k.deterministic then c.wi % 4 else c.w.sub
  | 0x19 => if k.deterministic then c.wi / 4 else c.w.slot
  | 0x1A => c.g.ctx
  | 0x1B => k.tenant.toNat
  | 0x1C => c.w.regions.toNat
  | 0x1D => k.shape
  | 0x1E => match c.s.launches.look c.g.launch with
    | some x => x.mode
    | none => 0
  | 0x104 => die.budget
  | 0x105 => c.s.heldRate (c.g.core / 64)
  | 0x106 => die.headroom
  | 0x107 => die.clockMHz
  | 0x200 => 0x00090000
  | 0x201 => k.feat1.toNat
  | 0x302 => c.w.hmask.toNat
  | 0x380 => k.ageing
  | 0x381 => k.deadline
  | _ => 0

/-- sread: a low word latches its high word; a high word takes the latch (R381 to R383). -/
def execSread (f : FmtS) (s : State) : Res :=
  issue (.sread f) s fun c =>
    let sel := f.sel.toNat
    let put (w : Warp) (v : Nat → Nat) : Res :=
      c.done (.sread f) c.s (w.wrAll f.d 1 ((unitsOf f.d (c.execs (.sread f))).map fun l => (l, v l)))
    if c.execs (.sread f) = 0 then c.skip (.sread f)
    else
      match c.wide64 sel, c.wide64 (sel - 1) with
      | some v, _ =>
        put { c.w with latches := c.w.latches.put sel (some (BitVec.ofNat 32 (v / 2 ^ 32))) } fun _ => v
      | none, some v =>
        match c.w.latches.look (sel - 1) with
        | some x => put { c.w with latches := c.w.latches.del (sel - 1) } fun _ => x.toNat
        | none => put c.w fun _ => v / 2 ^ 32
      | none, none => put c.w (c.selector sel)

/-- The lowest executing lane. -/
def Ctx.first (c : Ctx) (i : Instr) : Option Nat := lowest (c.execs i)

/-- Bits of `hmask` that can be set (R398). -/
def hmaskBits : Word := 0x003BFFFF

/-- swrite: uniform (R385). The write of `hnd0` latches until `hnd1` is written. -/
def execSwrite (f : FmtS) (s : State) : Res :=
  issue (.swrite f) s fun c =>
    match c.first (.swrite f) with
    | none => c.skip (.swrite f)
    | some l =>
      let v := c.w.rd f.a l
      let w := c.w
      match f.sel.toNat with
      | 0x300 => c.done (.swrite f) c.s { w with hndPending := some v }
      | 0x301 =>
        c.done (.swrite f) c.s
          { w with hndLo := w.hndPending.getD w.hndLo, hndHi := v, hndPending := none,
                   hndLoSet := w.hndLoSet || w.hndPending.isSome, hndHiSet := true }
      | 0x302 => c.done (.swrite f) c.s { w with hmask := v &&& hmaskBits }
      | 0x380 =>
        c.done (.swrite f) (c.s.modCtx c.g.ctx fun k => { k with ageing := max 256 (min v.toNat 65536) }) w
      | _ =>
        let n := min v.toNat 65535
        c.done (.swrite f) (c.s.modCtx c.g.ctx fun k => { k with deadline := if n = 0 then 2000 else n }) w

/-! ### Marks, sleep, energy, counters -/

/-- evmark: one record for each issue, with the split's active mask (R386, type 0x14). With no executing
lane the value is free (log 20). -/
def execEvmark (f : FmtS) (s : State) : Res :=
  issue (.evmark f) s fun c =>
    let value := match c.first (.evmark f) with
      | some l => (c.w.rd f.a l).toNat
      | none => Config.unread 3 c.s.order
    let mask := c.sp.lanes.toNat
    let s := c.s.varveWarp c.g c.w 0x14 (field 48 32 value + field 80 16 f.sel.toNat + field 96 32 mask)
    let parts := if c.width = 128 then [0, 1] else if c.width = 64 then [0] else []
    c.done (.evmark f) (s.varveParts c.g c.w mask parts) c.w

/-- sleep: the split waits at its next instruction for n cycles (R387). -/
def execSleep (f : FmtS) (s : State) : Res :=
  issue (.sleep f) s fun c =>
    let n := min (c.w.rd f.a ((c.first (.sleep f)).getD 0)).toNat 16777215
    if n = 0 then c.skip (.sleep f)
    else
      .next (c.s.setWarp c.uid c.wi (c.w.modSplit c.sp.id fun sp =>
        { (sp.next 8 c.now) with wait := some (.sleep (c.now + n)) }))

/-- energy: the rate the work-group holds (R388). -/
def execEnergy (f : FmtS) (s : State) : Res :=
  issue (.energy f) s fun c =>
    if c.execs (.energy f) = 0 then c.skip (.energy f)
    else
      match c.done (.energy f) c.s c.w with
      | .next s => .next (s.modWg c.uid fun g => { g with energy := f.sel.toNat % 8 })
      | r => r

/-- A counter as it is at the first instruction (R389). -/
def WorkGroup.counter (g : WorkGroup) (n : Nat) : Counter := (g.counters.look n).getD ⟨0, 0, g.born⟩

/-- perfsel: selects an event and clears the counter (R389). -/
def execPerfsel (f : FmtS) (s : State) : Res :=
  issue (.perfsel f) s fun c =>
    match c.first (.perfsel f) with
    | none => c.skip (.perfsel f)
    | some l =>
      let event := (c.w.rd f.a l).toNat
      if 10 < event then c.fault 2 1 (c.execs (.perfsel f))
      else
        match c.done (.perfsel f) c.s c.w with
        | .next s => .next (s.modWg c.uid fun g =>
            { g with counters := g.counters.put (f.sel.toNat % 8) (some ⟨event, 0, c.now⟩) })
        | r => r

/-- The value of a counter: event 0 counts cycles while resident; the events of the core's timing are free (log 21). -/
def Ctx.counterValue (c : Ctx) (k : Counter) : Nat :=
  match k.event with
  | 0 => (k.value.toNat + (c.now - k.since)) % 2 ^ 64
  | 3 => Config.timingCount 3 c.s.tick
  | 6 => Config.timingCount 6 c.s.tick
  | 7 => Config.timingCount 7 c.s.tick
  | _ => k.value.toNat

/-- perfrd (R389). -/
def execPerfrd (f : FmtS) (s : State) : Res :=
  issue (.perfrd f) s fun c => c.write (.perfrd f) f.d 2 fun _ => c.counterValue (c.g.counter (f.sel.toNat % 8))

/-! ### caprd (R390) -/

/-- The status a capsule read writes at once. -/
def caprdStatus (sealing : Bool) (off len va : Nat) : Nat :=
  if 2 ^ 27 < off + len ∨ len = 0 ∨ 2 ^ 24 < len then 1
  else if off % 128 ≠ 0 ∨ len % 128 ≠ 0 ∨ va % 128 ≠ 0 then 2
  else if sealing then 3 else 0

/-- The end of a capsule read with a status in D. -/
def Ctx.caprdDone (c : Ctx) (f : FmtS) (s : State) (status : Nat) : Res :=
  c.doneRegion (.caprd f) s (c.writeEach (.caprd f) f.d 1 fun _ => status)

/-- caprd: an engine job that holds its split (R390). Helper lanes alone copy nothing (R177). -/
def execCaprd (f : FmtS) (s : State) : Res :=
  issue (.caprd f) s fun c =>
    let lanes := c.execs (.caprd f)
    let off := (c.w.rd f.b 0).toNat
    let len := (c.w.rd f.c 0).toNat
    let va := c.w.rd64 f.a 0
    let status := caprdStatus (c.s.frozen && c.s.capsule.isNone) off len va
    if lanes = 0 then c.doneRegion (.caprd f) c.s c.w
    else if status ≠ 0 || lanes &&& ~~~c.w.helpers = 0 then c.caprdDone f c.s status
    else if 2 ^ 57 < va + len then c.access 3 lanes va
    else if !c.quiet then c.block
    else
      let (x, s) := c.s.claimPages c.g.core c.g.ctx c.privileged va len
      match x with
      | .error m => c.faultOf (.miss m) lanes .engineWrite true
      | .ok pages =>
        let claims := pages.map fun m => lineClaim m va len
        if pages.any fun m => inReserve m.pa then c.access 4 lanes va
        else
          match c.s.ownersFull claims with
          | some die => c.blockOwner die
          | none =>
            let (n, s) := c.addJob s (.caprd off len va pages f.d lanes) claims none
            c.park s c.w (.job n)

/-! ### Handlers (R391, R402) -/

/-- trapr: a word of the record of the trap the warp handles, 0 outside a handler. -/
def execTrapr (f : FmtS) (s : State) : Res :=
  issue (.trapr f) s fun c =>
    c.write (.trapr f) f.d 1 fun _ =>
      match c.w.handler with
      | some h => (h.record.getD (f.sel.toNat % 16) 0).toNat
      | none => 0

/-- What follows when a warp leaves handler mode or a firmware hold: rejoins and barriers are tested again, since its splits
count once more (R182, R401). -/
def State.returned (s : State) (u i : Nat) : State := (s.rejoinAll u i).barriers u

/-- eret: the split's lanes go back to their saved splits; outside handler mode it does not come here, but takes cause
reserved (R391, R402). -/
def execEret (f : FmtS) (s : State) : Res :=
  issue (.eret f) s fun c =>
    match c.w.handler with
    | none => c.fault 2 1 (c.execs (.eret f))
    | some _ =>
      let w := { c.w with splits := c.w.splits.filter fun sp => sp.id != c.sp.id }
      let s := (c.s.setWarp c.uid c.wi w).leaveHandler c.uid c.wi
      .next (if w.splits.isEmpty then s.returned c.uid c.wi else s)

end Sys2Proof.Machine
end

