-- ==== Sys2Proof/Machine/Progress.lean ====
section
/-! DEFINITION. The steps of the memory system: producers complete, store queues drain, writes reach their
home slices (file 05, R122 to R132; file 07, R184, R186). -/

namespace Sys2Proof.Machine

/-- Ends a producer: the values of the registers that it still fills are written, and they are full (R184, R186). -/
def Warp.finish (w : Warp) (p : Producer) (ws : List (RegKey × Word)) : Warp :=
  { ((w.wrKeys (ws.filter fun x => p.dests.contains x.1)).markFull p.dests) with producers := w.producers.filter fun q => q.id != p.id }

/-- Changes a producer of a warp. -/
def Warp.modProducer (w : Warp) (id : Nat) (f : Producer → Producer) : Warp :=
  { w with producers := w.producers.map fun p => if p.id = id then f p else p }

/-- The memory accesses of a warp are performed in issue order (R126): none comes before this one. -/
def Warp.firstMemory (w : Warp) (p : Producer) : Bool :=
  (w.producers.find? Producer.memory).map (·.id) == some p.id

/-- The trap of a load that met an uncorrectable line or scratchpad word: its producer is cancelled, and its registers keep
their old values (R67, R186). -/
def State.producerEcc (s : State) (u i : Nat) (g : WorkGroup) (w : Warp) (p : Producer) (va : Nat)
    (bad : Addr) (lanes : Lanes) : State :=
  let s := s.noteBad g w bad (eccCause bad).1
  let w := { (w.markFull p.dests) with producers := w.producers.filter fun q => q.id != p.id }
  (s.setWarp u i w).holdTrap u i (w.eccTrap p.split lanes (eccCause bad).1 va s.time)

/-! ### Loads -/

/-- Whether the core's L1 serves a byte to a lane. -/
def servedByte (k : Core) (launch : Nat) (l : LoadLane) (a : Addr) : Bool :=
  match a with
  | .phys pa => !l.home && (k.serves (pa / 128) launch).isSome
  | .scratch _ _ => false

/-- The byte a lane reads at an address, from the L1 or at the home slice or bank; a plain load of the core's own bank finds
what that shows (R138). -/
def State.readByte (s : State) (u : Nat) (k : Core) (launch : Nat) (l : LoadLane) (a : Addr) : Byte :=
  match a with
  | .phys pa =>
    if l.home then s.byteAt a
    else
      match k.serves (pa / 128) launch with
      | some x => x.bytes.getD (pa % 128) 0
      | none => s.byteAt a
  | .scratch v off =>
    match s.wgs.look v with
    | some g => if v = u && !l.home then g.scratch.byte off else g.bank.byte off
    | none => 0

/-- Merges the queued bytes of a lane over what it read (R126). -/
def forwarded (q : List StoreEntry) (order lane : Nat) (a : Addr) (b : Byte) : Byte :=
  q.foldl (fun b e =>
    if e.order < order then
      match e.op with
      | .bytes bs => bs.foldl (fun b x =>
          if x.addr = a ∧ x.lanes.getLsbD lane then mergeByte b x.byte x.mask else b) b
      | _ => b
    else b) b

/-- A `red` of the lane's own to the location stands in the queue: the load waits for it. -/
def waitsForRed (q : List StoreEntry) (order : Nat) (l : LoadLane) : Bool :=
  q.any fun e => e.order < order &&
    match e.op with
    | .red _ g => g.lanes.any (fun x => x.lane == l.lane) &&
        e.op.addrs.any fun a => l.addrs.any fun b => wordOf a == wordOf b
    | _ => false

/-- Merges a transaction's buffered bytes over what it read (R165). -/
def buffered (t : Option Txn) (a : Addr) (b : Byte) : Byte :=
  match t, a with
  | some t, .phys pa => t.writes.foldl (fun b x => if x.1 = pa then mergeByte b x.2.1 x.2.2 else b) b
  | _, _ => b

/-- The byte a lane reads, one of those that the location has held after a violation of an invariant load (R145; log
81). -/
def State.seenByte (s : State) (u : Nat) (k : Core) (launch : Nat) (l : LoadLane) (a : Addr) : Byte :=
  (s.heldByte launch l.lane a).getD (s.readByte u k launch l a)

/-- The bytes that a lane of a load reads, those of its own queued stores included (R126). -/
def State.laneReads (s : State) (u : Nat) (k : Core) (launch : Nat) (w : Warp) (order : Nat) (l : LoadLane) :
    List (Addr × Byte) :=
  l.addrs.map fun a => (a, forwarded w.storeQ order l.lane a (s.seenByte u k launch l a))

/-- The value a lane of a load gets, as a number of its bytes: in a transaction over them its buffered ones (R165). -/
def State.loadValue (s : State) (u : Nat) (k : Core) (launch : Nat) (w : Warp) (order : Nat) (l : LoadLane) : Nat :=
  natOfBytes ((s.laneReads u k launch w order l).map fun b =>
    buffered (if l.tx then w.txns.look l.lane else none) b.1 b.2)

/-- Register words of a loaded value (R301, R303). -/
def shapeValue (shape : Shape) (shift x : Nat) : Nat :=
  match shape with
  | .plain _ => x
  | .signed bits => ((BitVec.ofNat bits x).signExtend 32).toNat
  | .packed w count =>
    let per := if 32 < w then 1 else 32 / w
    let size := if 32 < w then 64 else 32
    ((List.range count).map fun j => x / 2 ^ (shift + j * per * w) % 2 ^ (per * w) * 2 ^ (size * j)).sum

/-- Registers a shape fills. -/
def Shape.regs : Shape → Nat
  | .plain n => n
  | .signed _ => 1
  | .packed w count => if 32 < w then 2 * count else count

/-- Records the bytes that a transactional load returned (R165, R167): of a byte that the lane's own buffered write covers,
the one that stands below it (DESIGN CHOICE, log 133). -/
def noteReads (w : Warp) (l : LoadLane) (bs : List (Addr × Byte)) : Warp :=
  if l.tx then
    { w with txns := w.txns.modify l.lane fun t => { t with reads := t.reads ++ bs.filterMap fun b =>
        match b.1 with
        | .phys pa => some (pa, b.2)
        | .scratch _ _ => none } }
  else w

/-- What a load leaves in the L1: lines read at home are dropped, the lines that it hit have been used, missed lines are
filled, under its hint (R49, R51, R124). -/
def State.afterLoad (s : State) (core launch : Nat) (inv : Bool) (acq hint : Nat) (homes hits misses : List Nat) :
    State :=
  let s := homes.foldl (fun s line => s.dropLine core line) s
  let s := if 2 ≤ acq then s.acquire core launch else s
  let s := hits.foldl (fun s line => s.modCore core fun k => k.touch line false) s
  misses.foldl (fun s line => s.fillL1 core line (if inv then some launch else none) (hint == 1)) s

/-- Notes the locations that an invariant load of a launch reads (R145). -/
def State.noteInvariant (s : State) (launch : Nat) (as : List Addr) : State :=
  let words := (as.filterMap fun a => match a with
    | .phys pa => some (pa / 4)
    | .scratch _ _ => none).eraseDups
  s.modLaunch launch fun l => { l with invRead := l.invRead ++ words.filter fun n => !l.invRead.contains n }

/-- The lines of bytes. -/
def linesOf (as : List Addr) : List Nat :=
  (as.filterMap fun a => match a with
    | .phys pa => some (pa / 128)
    | .scratch _ _ => none).eraseDups

/-- The word of the host window that a release narrower than the system has written early: readers of the device wait until
the warp's earlier accesses are performed at module scope (R129, R149). -/
def State.earlyHost (s : State) (as : List Addr) : Bool :=
  s.hostEarly.any fun e => as.any (fun a => wordOf a == .phys e.1) &&
    ((s.warp? e.2.2.1 e.2.2.2.1).map fun w => !s.performedAt e.2.1 e.2.2.1 e.2.2.2.1 e.2.2.2.2 2 w).getD false

/-- One attempt of a load: it waits for claims, for the core's travelling stores to a missed line and those sent before it
to its home slice, for strict stores before it, for its own `red`; else it is performed (R60, R126, R130, R141, R18). -/
def State.completeLoad (s : State) (u i : Nat) (g : WorkGroup) (w : Warp) (p : Producer)
    (lanes : List LoadLane) (d : BitVec 8) (shape : Shape) (inv : Bool) (acq : Nat) : Res :=
  let k := s.core g.core
  let lanes' := lanes.filter fun l => !l.zero
  let needed := lanes'.flatMap fun l => l.addrs.filter fun a => !servedByte k g.launch l a
  let locs := (needed.map locOf).eraseDups
  let away := locs.filter fun x => match x with
    | .line _ => true
    | .block v _ => v != u
  let sent := needed.filter fun a => away.contains (locOf a)
  let strictBefore := lanes'.any (·.strict) &&
    ((w.storeQ.any fun e => e.strict && e.order < p.order) ||
      k.outbound.any fun o => o.strict && o.wg == u && o.warp == i && o.order < p.order)
  if away.any k.travels || k.sentBefore p.order sent || strictBefore || lanes'.any (waitsForRed w.storeQ p.order) ||
      s.earlyHost needed then .fault .notEnabled
  else if s.claimed u i p.order p.arrived locs then
    match p.arrived with
    | some _ => .fault .notEnabled
    | none =>
      let (n, s) := s.stamp
      .next (s.setWarp u i (w.modProducer p.id fun p => { p with arrived := some n }))
  else
    match lanes'.find? fun l => l.addrs.any fun a => !servedByte k g.launch l a && s.badAddr a with
    | some l =>
      let met := l.addrs.filter fun a => !servedByte k g.launch l a
      .next (s.producerEcc u i g w p l.va (s.firstBad met) (maskOf (lanes.map (·.lane))))
    | none =>
      let values := lanes.map fun l =>
        (l.lane, if l.zero then 0 else shapeValue shape l.shift (s.loadValue u k g.launch w p.order l))
      let w := lanes'.foldl (fun w l => noteReads w l (s.laneReads u k g.launch w p.order l)) w
      let w := w.finish p (regWrites d shape.regs values)
      let w := if acq = 0 then w else w.sync s.order
      let homes := linesOf (lanes'.flatMap fun l => if l.home then l.addrs else [])
      let cached := linesOf (lanes'.flatMap fun l => if l.home then [] else l.addrs)
      let misses := linesOf (lanes'.flatMap fun l => if l.home then []
        else l.addrs.filter fun a => !servedByte k g.launch l a)
      let hint := (lanes.head?.map (·.hint)).getD 0
      let s := if inv then s.noteInvariant g.launch (lanes'.flatMap (·.addrs)) else s
      let s := (s.setWarp u i w).touchLines hint needed
      let s := s.afterLoad g.core g.launch inv acq hint homes (cached.filter fun x => !misses.contains x) misses
      .next (s.modWg u fun g => g.count 4 misses.length)

/-! ### Atomics in flight -/

/-- Whether a write with release scope plus one `release` may be performed (R129). -/
def State.releases (s : State) (core u i order release : Nat) (w : Warp) : Bool :=
  release == 0 || s.performedAt core u i order (release - 1) w

/-- The groups but the n-th. -/
def without {α : Type} (l : List α) (n : Nat) : List α := l.take n ++ l.drop (n + 1)

/-- The trap of a group of an atomic that met an uncorrectable line or word: that group is not performed, its lanes'
registers keep their values, and the others go on (R67, R314). -/
def State.atomEcc (s : State) (u i : Nat) (g : WorkGroup) (w : Warp) (p : Producer) (x : AtomGroup) (bad : Addr) :
    State :=
  let s := s.noteBad g w bad (eccCause bad).1
  s.holdTrap u i (w.eccTrap p.split (maskOf (x.lanes.map (·.lane))) (eccCause bad).1 x.va s.time)

/-- One attempt of an `atom` or `cas`: one of its groups is performed at its home slice or bank; the last
one writes the results (R131, R136). -/
def State.completeAtomic (s : State) (u i : Nat) (g : WorkGroup) (w : Warp) (p : Producer)
    (groups : List AtomGroup) (results : List (RegKey × Word)) (d : BitVec 8) (k : AtomKind) (release acq : Nat) :
    Res :=
  let core := s.core g.core
  let n := Config.pick s.tick % max 1 groups.length
  match groups[n]? with
  | none => .next (s.setWarp u i (w.finish p results))
  | some x =>
    let loc := locOf x.addr
    let strictBefore := core.outbound.any fun o => o.strict && o.wg == u && o.warp == i && o.order < p.order
    let w' := { w with producers := w.producers.filter fun q => q.id != p.id }
    let as := (List.range k.bytes).map x.addr.plus
    if (w.storeQ.any fun e => e.order < p.order) || core.travels loc || core.sentBefore p.order as || strictBefore ||
        s.earlyHost as || !s.releases g.core u i p.order release w' then .fault .notEnabled
    else if s.claimed u i p.order p.arrived [loc] then
      match p.arrived with
      | some _ => .fault .notEnabled
      | none =>
        let (n, s) := s.stamp
        .next (s.setWarp u i (w.modProducer p.id fun p => { p with arrived := some n }))
    else
      let (rets, t) := match as.find? s.badAddr with
        | some a => ([], s.atomEcc u i g w p x a)
        | none => s.performGroup g.core g.launch k x
      let results := results ++ regWrites d (k.bytes / 4) rets
      let rest := without groups n
      if rest.isEmpty then
        let t := t.modWarp u i fun w =>
          let w := w.finish p results
          if acq = 0 then w else w.sync s.order
        .next (if 2 ≤ acq then t.acquire g.core g.launch else t)
      else
        .next (t.modWarp u i fun w => w.modProducer p.id fun p =>
          { p with work := .atomic rest results d k release acq, arrived := none })

/-- PRODUCER_COMPLETE: a producer writes its result (R184). -/
def execProducerComplete (wg warp idx : Nat) (s : State) : Res :=
  match s.wgs.look wg, s.warp? wg warp with
  | some g, some w =>
    match w.producers[idx]? with
    | none => .fault .notEnabled
    | some p =>
      match p.work with
      | .values ws => .next (s.setWarp wg warp (w.finish p ws))
      | .queued _ => .fault .notEnabled
      | .load lanes d shape inv acq =>
        if w.firstMemory p then s.completeLoad wg warp g w p lanes d shape inv acq else .fault .notEnabled
      | .atomic groups results d k release acq =>
        if w.firstMemory p then s.completeAtomic wg warp g w p groups results d k release acq
        else .fault .notEnabled
  | _, _ => .fault .notEnabled

/-! ### Store queues -/

/-- Bytes of a store entry as a write. -/
def storeBytes (bs : List StoreByte) : List (Addr × Byte × Byte) := bs.map fun b => (b.addr, b.byte, b.mask)

/-- Performs an operation at its home slice or bank. -/
def State.performOp (s : State) (core launch hint : Nat) (op : StoreOp) : State :=
  match op with
  | .bytes bs => s.writeUnder hint (storeBytes bs)
  | .red k g => (s.performGroup core launch k g).2
  | .fence => s

/-- A write to another member's bank: the bank holds it, and shows it to its own core later (R138). -/
def State.holdRemote (s : State) (v : Nat) (bs : List StoreByte) : State :=
  s.modWg v fun g => { g with inbox := g.inbox ++ [bs.filterMap fun b => match b.addr with
    | .scratch x off => if x = v then some (off, b.byte, b.mask) else none
    | .phys _ => none] }

/-- The first address an operation touches. -/
def StoreOp.addr (op : StoreOp) : Addr := op.addrs.headD (.phys 0)

/-- Whether an operation is performed at the issuing core's own bank. -/
def StoreOp.own (op : StoreOp) (u : Nat) : Bool :=
  match op.addr with
  | .scratch v _ => v == u
  | .phys _ => false

/-- What a store leaves in the L1 as it leaves the queue: an update in place, or no copy (R49, R126). -/
def State.storeL1 (s : State) (core : Nat) (e : StoreEntry) : State :=
  if e.bypass then (linesOf e.op.addrs).foldl (fun s line => s.dropLine core line) s
  else
    match e.op with
    | .bytes bs => s.modCore core fun k => k.update bs
    | _ => s

/-- The address at which an operation meets damage: `badWrite` for bytes, any that a `red` cannot read (R67). -/
def State.refusedAt (s : State) (op : StoreOp) : Option Addr :=
  match op with
  | .bytes bs => s.badWrite (storeBytes bs)
  | _ => op.addrs.find? s.badAddr

/-- The lanes of an operation. -/
def StoreOp.lanes : StoreOp → Lanes
  | .bytes bs => bs.foldl (fun m b => m ||| b.lanes) 0
  | .red _ x => maskOf (x.lanes.map (·.lane))
  | .fence => 0

/-- The trap of a write that is not performed: uncorrectable-ECC (R67). -/
def State.writeEcc (s : State) (o : OutWrite) (bad : Addr) : State :=
  match s.wgs.look o.wg, s.warp? o.wg o.warp with
  | some g, some w =>
    let s := s.noteBad g w bad (eccCause bad).1
    s.holdTrap o.wg o.warp (w.eccTrap o.split o.op.lanes (eccCause bad).1 o.va s.time)
  | _, _ => s

/-- A write that its place cannot take (R67, R68, R463). -/
def State.refusesWrite (s : State) (o : OutWrite) : Bool := (s.refusedAt o.op).isSome

/-- Whether a release of a scope narrower than the system goes to the host window: it does not hold the write back there,
since the host is outside its scope (R133, R149). -/
def StoreEntry.outside (e : StoreEntry) : Bool :=
  e.release != 0 && e.release < 4 &&
    match e.op.addr with
    | .phys pa => isHost pa
    | .scratch _ _ => false

/-- STORE_QUEUE_DRAIN: the oldest entry leaves; a scratchpad write of the work-group's own is performed, any
other sets out to its home slice (R126, R128, R129, R132). -/
def execStoreQueueDrain (wg warp : Nat) (s : State) : Res :=
  match s.wgs.look wg, s.warp? wg warp with
  | some g, some w =>
    match w.storeQ with
    | [] => .fault .notEnabled
    | e :: rest =>
      let popped := { w with storeQ := rest }
      if (w.producers.any fun p => p.memory && p.order < e.order) ||
          !(e.outside || s.releases g.core wg warp e.order e.release w) then .fault .notEnabled
      else
        match e.op with
        | .fence => .next (s.setWarp wg warp popped)
        | op =>
          let o : OutWrite :=
            { op := op, va := e.va, wg := wg, warp := warp, strict := e.strict, full := e.full, hint := e.hint,
              split := e.split, order := e.order, arrived := none, left := s.order }
          if op.own wg then
            let locs := (op.addrs.map locOf).eraseDups
            if s.claimed wg warp e.order e.arrived locs then
              match e.arrived with
              | some _ => .fault .notEnabled
              | none =>
                let (n, s) := s.stamp
                .next (s.setWarp wg warp { w with storeQ := { e with arrived := some n } :: rest })
            else
              match s.refusedAt op with
              | some a => .next ((s.setWarp wg warp popped).writeEcc o a)
              | none => .next ((s.setWarp wg warp popped).performOp g.core g.launch e.hint op)
          else
            let s := (s.stamp.2.setWarp wg warp popped).storeL1 g.core e
            .next (s.modCore g.core fun k => { k with outbound := k.outbound ++ [o] })
  | _, _ => .fault .notEnabled

/-! ### Writes at their home slices -/

/-- Whether an earlier write of the core must be performed before the n-th on its way: one to the same place,
or a strict one of the same warp (R60, R18, R147). -/
def heldBack (os : List OutWrite) (o : OutWrite) : Bool :=
  os.any fun x => placeOf x.op.addr == placeOf o.op.addr ||
    (x.strict && o.strict && x.wg == o.wg && x.warp == o.warp)

/-- A write to a peer module waits for its acknowledgement (R128, R148). -/
def State.awaitPeer (s : State) (o : OutWrite) : State :=
  match o.op.addr with
  | .phys pa =>
    if isPeer pa then { s with peerPending := s.peerPending ++ [(peerOf pa, o.wg, o.warp, o.order)] } else s
  | .scratch _ _ => s

/-- A write to the host window that a narrower release sent ahead is noted, and a later one ends the note (R129, R149). -/
def State.noteEarly (s : State) (core : Nat) (o : OutWrite) : State :=
  match o.op.addr with
  | .phys pa =>
    if !isHost pa then s
    else
      let rest := s.hostEarly.filter fun e => e.1 != pa / 4 * 4
      let late := ((s.warp? o.wg o.warp).map fun w => !s.performedAt core o.wg o.warp o.order 2 w).getD false
      { s with hostEarly := if late then rest ++ [(pa / 4 * 4, core, o.wg, o.warp, o.order)] else rest }
  | .scratch _ _ => s

/-- The launch of a work-group. -/
def State.launchOf (s : State) (u : Nat) : Nat := ((s.wgs.look u).map (·.launch)).getD 0

/-- A write is performed at its home slice, or held by another member's bank (R128, R138). -/
def State.performOut (s : State) (core : Nat) (o : OutWrite) : State :=
  match o.op, o.op.addr with
  | .bytes bs, .scratch v _ => s.holdRemote v bs
  | op, _ => ((s.performOp core (s.launchOf o.wg) o.hint op).awaitPeer o).noteEarly core o

/-- WRITE_PERFORMED_AT_HOME_SLICE: a write on its way is performed, after the claims it met (R128, R141). -/
def execWritePerformedAtHomeSlice (core idx : Nat) (s : State) : Res :=
  let k := s.core core
  match k.outbound[idx]? with
  | none => .fault .notEnabled
  | some o =>
    if heldBack (k.outbound.take idx) o then .fault .notEnabled
    else
      let locs := (o.op.addrs.map locOf).eraseDups
      let gone := s.modCore core fun k => { k with outbound := without k.outbound idx }
      if s.claimed o.wg o.warp o.order o.arrived locs then
        match o.arrived with
        | some _ => .fault .notEnabled
        | none =>
          let (n, s) := s.stamp
          .next (s.modCore core fun k =>
            { k with outbound := k.outbound.set idx { o with arrived := some n } })
      else
        match s.refusedAt o.op with
        | some a => .next (gone.writeEcc o a)
        | none => .next (gone.performOut core o)

end Sys2Proof.Machine
end

