-- ==== Sys2Proof/Machine/Jobs.lean ====
section
/-! DEFINITION. Engine jobs at work: when a job may write, how it reads and writes, how it ends; the copy jobs
(file 01, R33; file 05, R139 to R143; file 06, R154; file 13, R315 to R318). -/

namespace Sys2Proof.Machine

/-! ### When a job may write (R140, R141) -/

/-- Whether an access that reached one of a job's lines before its claim waits there. -/
def Job.meetsArrival (j : Job) (arrived : Option Nat) (as : List Addr) : Bool :=
  match arrived with
  | some t => t < j.order && as.any fun a => j.claims.any (·.has (locOf a))
  | none => false

/-- The addresses a producer accesses. -/
def Producer.addrs (p : Producer) : List Addr :=
  match p.work with
  | .load lanes _ _ _ _ => lanes.flatMap (·.addrs)
  | .atomic groups _ _ k _ _ => groups.flatMap fun g => (List.range k.bytes).map g.addr.plus
  | _ => []

/-- Whether an access that reached some lines waits there for none of a job's claims, but the job for it (R141). -/
def Job.meetsLocs (j : Job) (order : Nat) (locs : List Loc) : Bool :=
  order < j.order && locs.any fun x => j.claims.any (·.has x)

/-- The lines of a run of physical bytes. -/
def runLocs (pa len : Nat) : List Loc :=
  (List.range ((pa % 128 + len + 127) / 128)).map fun i => .line (pa / 128 + i)

/-- Whether some access holds a job off: of a thread, the host, a peer, the command processor or firmware (R141). -/
def State.heldOff (s : State) (j : Job) : Bool :=
  (s.inbound.any fun x => j.meetsLocs x.order (runLocs x.addr x.len)) ||
    (s.waiting.any fun x => j.meetsLocs x.2.1 x.2.2) || (s.cores.any fun c => c.2.outbound.any fun o => j.meetsArrival o.arrived o.op.addrs) ||
    s.wgs.any fun g => g.2.warps.any fun w =>
      (w.storeQ.any fun e => j.meetsArrival e.arrived e.op.addrs) ||
      (w.producers.any fun p => j.meetsArrival p.arrived p.addrs) ||
      w.splits.any fun sp =>
        match sp.arrived with
        | some (t, locs) => j.meetsLocs t locs
        | none => false

/-- The lines that commits have locked (R168). -/
def State.lockedLines (s : State) : List Nat :=
  s.wgs.flatMap fun g => g.2.warps.flatMap fun w => w.txns.flatMap fun t =>
    match t.2.locks with
    | some n => t.2.lines.take n
    | none => []

/-- Whether a claim recorded earlier holds one of a job's lines (R140). -/
def State.queued (s : State) (j : Job) : Bool :=
  s.jobs.any fun p => !p.2.done && p.2.order < j.order && p.2.claims.any fun a => j.claims.any a.meets

/-- Whether a job may write now: in flight, not parked, first on its lines, none of which a commit has locked. -/
def State.jobReady (s : State) (j : Job) : Bool :=
  !j.done && j.parked.isNone && !s.queued j && !s.heldOff j &&
    s.lockedLines.all fun n => j.claims.all fun c => !c.has (.line n)

/-! ### What engines read and write (R142) -/

/-- How an engine's access ends. -/
inductive Stop where
  | ok
  /-- a line that a commit has locked: the job waits (R168) -/
  | waits
  /-- the Oxbow engine waits at lines that a job claims or a commit has locked (R118, R141, R168) -/
  | claimed (locs : List Loc)
  /-- a parked request (R33) -/
  | miss (m : Miss) (access : Access)
  /-- the job fails: kind, cause, address -/
  | fails (kind cause address : Nat)
  /-- the job meets an uncorrectable error: the address it asked for, and the place -/
  | damaged (address : Nat) (place : Addr)
  deriving DecidableEq, Repr

/-- The stop of an engine's failing translation: a table in a firmware reserve is an access fault (R56). -/
def Stop.ofMiss (m : Miss) (access : Access) : Stop := if m.type = 5 then .fails 17 4 m.va else .miss m access

/-- Translates the pages of a run for an engine (R34, R56). -/
def State.enginePages (s : State) (core ctx : Nat) (priv : Bool) (access : Access) (pages : List Nat) :
    Except Stop (List (Nat × Phys)) × State :=
  pages.foldl (fun (r : Except Stop (List (Nat × Phys)) × State) p =>
    match r.1 with
    | .error _ => r
    | .ok ps =>
      match r.2.translate core ctx p access priv with
      | (.error m, s) => (.error (.ofMiss m access), s)
      | (.ok x, s) =>
        if inReserve x.pa then (.error (.fails 17 4 p), s) else (.ok (ps ++ [(p / 65536, x)]), s))
    (.ok [], s)

/-- Translates the pages of a run for an engine, or says why not. -/
def State.engineAddrs (s : State) (core ctx : Nat) (priv : Bool) (access : Access) (va len : Nat) :
    Except Stop (List Addr) × State :=
  match s.enginePages core ctx priv access (pagesOf va len) with
  | (.error e, s) => (.error e, s)
  | (.ok ps, s) => (.ok (physBytes ps va len), s)

/-- What an engine reads at an address: for a launch whose invariant loads a write has violated, any value that the location
has held (R145). -/
def State.engineByte (s : State) (launch : Nat) (a : Addr) : Byte := (s.heldByte launch 128 a).getD (s.byteAt a)

/-- Reads a run of global bytes for an engine of a launch, each line whole (R142). -/
def State.engineRead (s : State) (core ctx launch : Nat) (priv : Bool) (va len : Nat) :
    Except Stop (List Byte) × State :=
  match s.engineAddrs core ctx priv .engineRead va len with
  | (.error e, s) => (.error e, s)
  | (.ok as, s) =>
    match as.find? s.badAddr with
    | some a => (.error (.damaged va a), s)
    | none =>
      if (as.map locOf).any s.lockedLoc then (.error .waits, s)
      else (.ok (as.map (s.engineByte launch)), s.touchLines 0 as)

/-- Writes bytes for an engine under a cache hint: what a damaged line cannot take ends the job (R67, R68). -/
def State.engineWrite (s : State) (hint : Nat) (bs : List (Addr × Byte × Byte)) : Except Stop State :=
  match s.badWrite bs with
  | some a => .error (.damaged 0 a)
  | none => .ok (s.writeUnder hint bs)

/-- Bytes at consecutive addresses as a write. -/
def plainBytes (as : List Addr) (bs : List Byte) : List (Addr × Byte × Byte) :=
  (as.zip bs).map fun p => (p.1, p.2, 0xFF)

/-- The addresses of one end of a copy, from byte `from_` of it on; a global destination's pages were translated at
issue. -/
def End.addrs (e : End) (u : Nat) (pages : List PageMap) (from_ len : Nat) : List Addr :=
  match e with
  | .scratch off => (List.range len).map fun i => .scratch u (off + from_ + i)
  | .global va => (List.range len).filterMap fun i =>
      (pages.find? fun m => m.page == (va + from_ + i) / 65536).map fun m =>
        .phys (m.pa + (va + from_ + i) % 65536)

/-! ### The end of a job -/

/-- A trap record body for a job's fault; the receiving wait fills in where it stands. -/
def jobTrap (kind cause address time : Nat) : Trap :=
  { kind := kind, cause := cause, detail := 0, lanes := 0, pc := 0, entry := 0, counter := 0, address := address,
    reg := 0, unit := 0, time := time, splits := [] }

/-- The count-downs a job makes when it ends: offset and bytes, one update per object (R154). -/
def Job.countDowns (j : Job) : List (Nat × Nat) :=
  match j.kind with
  | .cpa lanes next _ =>
    let offs := (lanes.take next).filterMap (·.object)
    (offs.eraseDups).map fun o => (o, 32 * (offs.filter (· == o)).length)
  | .copy _ _ _ _ next =>
    match j.object with
    | some o => [(o, next)]
    | none => []
  | _ => []

/-- Applies count-downs; answers the fault of the first object that is malformed or uncorrectable: kind and cause. -/
def State.countAll (s : State) (u : Nat) : (l : List (Nat × Nat)) → Option (Nat × Nat) × State
  | [] => (none, s)
  | (off, n) :: r =>
    let o := s.barObj u off
    let (bad, s) := if (valueBytes (.scratch u off) 16 0).any fun b => s.badAddr b.1 then (some (20, 4), s)
      else if o.malformed then (some (11, 0), s) else (none, s.setBarObj u off (o.countDown n))
    let (bads, s) := s.countAll u r
    (bad.or bads, s)

/-- A `cpa` job leaves its tag's count (R316). -/
def State.leaveTag (s : State) (j : Job) : State :=
  match j.kind with
  | .cpa _ _ tag => s.modWarp j.wg j.warp fun w => { w with tags := w.tags.set 0 tag (Sparse.get 0 w.tags tag - 1) }
  | _ => s

/-- An encode job that ends leaves its die's Viterbi engine (R360). -/
def State.leaveEngine (s : State) (n : Nat) (j : Job) : State :=
  match j.kind, s.wgs.look j.wg with
  | .trenc _ _, some g => s.modDie (g.core / 64) fun d => { d with viterbi := d.viterbi.filter (· != n) }
  | _, _ => s

/-- Ends a job: count-downs, its tag, its claims, its place at an engine; a failed job stays until a wait receives its fault
(R33, R154). -/
def State.endJob (s : State) (n : Nat) (fail : Option Trap) : State :=
  match s.jobs.look n with
  | none => s
  | some j =>
    let s := (s.leaveTag j).leaveEngine n j
    let (bad, s) := s.countAll j.wg j.countDowns
    let fail := fail.or (bad.map fun k => jobTrap k.1 k.2 0 s.time)
    match fail with
    | none => { s with jobs := s.jobs.del n }
    | some t => s.modJob n fun j => { j with failed := some t, done := true, parked := none, claims := [] }

/-- The core, sub-core and slot that a job's requests name (Table 1.7). -/
def State.requester (s : State) (j : Job) : Requester :=
  match s.wgs.look j.wg, s.warp? j.wg j.warp with
  | some g, some w => ⟨g.core, w.sub, w.slot, true⟩
  | _, _ => ⟨0, 0, 0, true⟩

/-- Parks a job's request (R33). -/
def State.parkJob (s : State) (n : Nat) (m : Miss) (access : Access) : State :=
  match s.jobs.look n with
  | none => s
  | some j =>
    let r := s.requester j
    let ctx := ((s.wgs.look j.wg).map (·.ctx)).getD 0
    let (entry, s) := s.postFault r ctx m access
    s.modJob n fun j => { j with parked := some (r.core / 64, entry, m, access) }

/-- The record and the log of an uncorrectable error that a job of a warp meets, cause 4 (R67). -/
def State.noteJobEcc (s : State) (u i : Nat) (place : Addr) : State :=
  match s.wgs.look u, s.warp? u i with
  | some g, some w => s.noteBad g w place 4
  | _, _ => s

/-- What a stop does to a job. -/
def State.stopJob (s : State) (n : Nat) (x : Stop) : State :=
  match x with
  | .ok => s.endJob n none
  | .waits => s
  | .claimed _ => s
  | .miss m access => s.parkJob n m access
  | .fails kind cause address => s.endJob n (some (jobTrap kind cause address s.time))
  | .damaged address place =>
    let s := match s.jobs.look n with
      | some j => s.noteJobEcc j.wg j.warp place
      | none => s
    s.endJob n (some (jobTrap 20 4 address s.time))

/-! ### Copies

A copy reads its source line by line and writes what it has read location by location. The events CPA_JOB_COMPLETE and
KICK_REQUEST_COMPLETE do all that is left in order; the turn `Turn.engine` reads one line ahead, or writes one location that
has been read, so that reads and writes of jobs meet in any order (R142). -/

/-- The bytes of a run of addresses for a job, and the source lines it has read: a line is read once, as a whole (R142). -/
def State.readOnce (s : State) (launch : Nat) (lines : Sparse (List Byte)) (as : List Addr) :
    List Byte × Sparse (List Byte) :=
  let lines := (linesOf as).foldl (fun (m : Sparse (List Byte)) n =>
    if (m.look n).isSome then m
    else m.put n (some ((List.range 128).map fun i => s.engineByte launch (.phys (n * 128 + i))))) lines
  (as.map fun a => match a with
    | .phys pa => ((lines.look (pa / 128)).bind fun l => l[pa % 128]?).getD 0
    | .scratch _ _ => s.engineByte launch a, lines)

/-- Reads a run of global bytes for a job that keeps the lines it reads: it accesses each line once (R105, R142). -/
def State.lineRead (s : State) (g : WorkGroup) (job : Nat) (priv : Bool) (va len : Nat) :
    Except Stop (List Byte) × State :=
  match s.engineAddrs g.core g.ctx priv .engineRead va len with
  | (.error e, s) => (.error e, s)
  | (.ok as, s) =>
    let held : Sparse (List Byte) := ((s.jobs.look job).map (·.lines)).getD []
    let new := as.filter fun a => match a with
      | .phys pa => (held.look (pa / 128)).isNone
      | .scratch _ _ => true
    match new.find? s.badAddr with
    | some a => (.error (.damaged va a), s)
    | none =>
      if (new.map locOf).any s.lockedLoc then (.error .waits, s)
      else
        let (bs, lines) := s.readOnce g.launch held as
        (.ok bs, (s.touchLines 0 new).modJob job fun j => { j with lines := lines })

/-- Reads a run of a source for a job: its bytes, or the stop. -/
def State.readSource (s : State) (g : WorkGroup) (n : Nat) (e : End) (from_ len : Nat) :
    Except Stop (List Byte) × State :=
  match s.jobs.look n with
  | none => (.error .ok, s)
  | some j =>
    let (r, s) := match e with
      | .scratch off => ((.ok ((List.range len).map fun i => .scratch j.wg (off + from_ + i)) : Except Stop (List Addr)), s)
      | .global va => s.engineAddrs g.core g.ctx j.privileged .engineRead (va + from_) len
    let at_ := match e with
      | .scratch off => off + from_
      | .global va => va + from_
    match r with
    | .error x => (.error x, s)
    | .ok as =>
      match as.find? s.badAddr with
      | some a => (.error (.damaged at_ a), s)
      | none =>
        if (as.map locOf).any s.lockedLoc then (.error .waits, s)
        else
          let s := s.touchLines (match j.kind with
            | .cpa _ _ _ => j.hint
            | _ => 0) as
          let (bs, lines) := s.readOnce g.launch j.lines as
          let keep := match j.kind with
            | .cpa _ _ _ => lines
            | _ => []
          (.ok bs, s.modJob n fun j => { j with lines := keep })

/-- The next run that a copy reads: its source, where it starts there, how many bytes; a lane of a `cpa`, or a piece of one
source line. -/
def Job.nextRead (j : Job) : Option (End × Nat × Nat) :=
  match j.kind with
  | .cpa lanes next _ => (lanes[next]?).map fun x => (.global x.source, 0, x.valid)
  | .copy src _ _ len next =>
    if len ≤ next then none
    else
      let at_ := next + match src with
        | .scratch off => off
        | .global va => va
      some (src, next, min (len - next) (128 - at_ % 128))
  | _ => none

/-- What a run that has been read writes, and the job with it counted as read (R315, R318). -/
def Job.took (j : Job) (bs : List Byte) : Job :=
  match j.kind with
  | .cpa lanes next tag =>
    match lanes[next]? with
    | some x =>
      let as := (List.range 32).map fun i => Addr.scratch j.wg (x.dest + i)
      { j with kind := .cpa lanes (next + 1) tag,
               buf := j.buf ++ plainBytes as (bs ++ List.replicate (32 - bs.length) 0) }
    | none => j
  | .copy src dst pages len next =>
    { j with kind := .copy src dst pages len (next + bs.length),
             buf := j.buf ++ plainBytes (dst.addrs j.wg pages next bs.length) bs }
  | _ => j

/-- The pages of its destination that a job has translated. -/
def Job.pages (j : Job) : List PageMap :=
  match j.kind with
  | .copy _ _ pages _ _ => pages
  | .trenc run _ => run.pages
  | .caprd _ _ _ pages _ _ => pages
  | _ => []

/-- A job with other pages of its destination. -/
def Job.setPages (j : Job) (ms : List PageMap) : Job :=
  { j with kind := match j.kind with
      | .copy a b _ t k => .copy a b ms t k
      | .trenc r k => .trenc { r with pages := ms } k
      | .caprd o l v _ d x => .caprd o l v ms d x
      | k => k }

/-- Translates pages of a job's destination of `total` bytes from `va` up anew: its claims cover their lines from then
on. -/
def State.renewPages (s : State) (g : WorkGroup) (n va total : Nat) (priv : Bool) :
    (missing : List Nat) → Option Stop × State
  | [] => (none, s)
  | p :: r =>
    match s.translate g.core g.ctx p .engineWrite priv with
    | (.error m, s) => (some (.ofMiss m .engineWrite), s)
    | (.ok x, s) =>
      if inReserve x.pa then (some (.fails 17 4 p), s)
      else
        let m : PageMap := ⟨p / 65536, x.pa / 65536 * 65536⟩
        (s.modJob n fun j => { j.setPages (j.pages ++ [m]) with claims := j.claims ++ [lineClaim m va total] }).renewPages
          g n va total priv r

/-- The pages of a run of a job's destination whose translations an invalidate has dropped since the issue are translated
again (R26). -/
def State.renew (s : State) (g : WorkGroup) (n : Nat) (j : Job) (va from_ len total : Nat) : Option Stop × State :=
  s.renewPages g n va total j.privileged
    ((pagesOf (va + from_) len).filter fun p => !j.pages.any fun m => m.page == p / 65536)

/-- The destination of a copy's next piece. -/
def State.renewPage (s : State) (g : WorkGroup) (n : Nat) (j : Job) (from_ len : Nat) : Option Stop × State :=
  match j.kind with
  | .copy _ (.global va) _ total _ => s.renew g n j va from_ len total
  | _ => (none, s)

/-- A copy reads its next run (R142). -/
def State.readNext (s : State) (g : WorkGroup) (n : Nat) : Option Stop × State :=
  match s.jobs.look n with
  | none => (none, s)
  | some j =>
    match j.nextRead with
    | none => (none, s)
    | some (e, from_, len) =>
      match s.renewPage g n j from_ len with
      | (some x, s) => (some x, s)
      | (none, s) =>
        if len = 0 then (none, s.modJob n fun j => j.took [])
        else
          match s.readSource g n e from_ len with
          | (.error x, s) => (some x, s)
          | (.ok bs, s) => (none, s.modJob n fun j => j.took bs)

/-- Writes all that a copy has read (R142). -/
def State.flush (s : State) (n : Nat) : Option Stop × State :=
  match s.jobs.look n with
  | none => (none, s)
  | some j =>
    match s.engineWrite (match j.kind with
        | .copy _ _ _ _ _ => j.hint
        | _ => 0) j.buf with
    | .error x => (some x, s.modJob n fun j => { j with buf := [] })
    | .ok s => (none, s.modJob n fun j => { j with buf := [] })

/-- Copies runs until one stops; `fuel` bounds how many are left. What was read is written before the job parks or ends. -/
def State.copyRuns (s : State) (g : WorkGroup) (n : Nat) : (fuel : Nat) → Stop × State
  | 0 => (.ok, s)
  | fuel + 1 =>
    match s.flush n with
    | (some x, s) => (x, s)
    | (none, s) =>
      match (s.jobs.look n).bind (·.nextRead) with
      | none => (.ok, s)
      | some _ =>
        match s.readNext g n with
        | (some x, s) => (x, s)
        | (none, s) => s.copyRuns g n fuel

/-- Runs that a copy has left, and one more. -/
def Job.runs (j : Job) : Nat :=
  2 + match j.kind with
    | .cpa lanes next _ => lanes.length - next
    | .copy _ _ _ len next => (len - next) / 128 + 1
    | _ => 0

/-- The rest of a copy job: it ends or parks (R33, R154). -/
def State.finishCopy (s : State) (job : Nat) (j : Job) : Res :=
  match s.wgs.look j.wg with
  | none => .fault .notEnabled
  | some g =>
    if !s.jobReady j then .fault .notEnabled
    else
      let (e, s) := s.copyRuns g job j.runs
      .next (s.stopJob job e)

/-- CPA_JOB_COMPLETE: the rest of a `cpa` job's lanes are written, in ascending order, and it ends or parks (R33, R315,
R316). -/
def execCpaJobComplete (job : Nat) (s : State) : Res :=
  match s.jobs.look job with
  | none => .fault .notEnabled
  | some j =>
    match j.kind with
    | .cpa _ _ _ => s.finishCopy job j
    | _ => .fault .notEnabled

/-- KICK_REQUEST_COMPLETE: the rest of one request's bytes are copied, and it ends or parks (R154, R318). -/
def execKickRequestComplete (job : Nat) (s : State) : Res :=
  match s.jobs.look job with
  | none => .fault .notEnabled
  | some j =>
    match j.kind with
    | .copy _ _ _ _ _ => s.finishCopy job j
    | _ => .fault .notEnabled

/-- One move of a copy on its own: it reads its next run, or writes one location that it has read (R142); at a stop what it
has read is written first. -/
def State.engineTurn (s : State) (job : Nat) (put : Option Nat) : Res :=
  match s.jobs.look job with
  | none => .fault .notEnabled
  | some j =>
    match s.wgs.look j.wg, put with
    | some g, none =>
      if j.done || j.parked.isSome || j.nextRead.isNone then .fault .notEnabled
      else
        match s.readNext g job with
        | (none, s) => .next s
        | (some .waits, _) => .fault .notEnabled
        | (some x, s) =>
          if j.buf.isEmpty then .next (s.stopJob job x)
          else if !s.jobReady j then .fault .notEnabled
          else
            match s.flush job with
            | (some y, s) => .next (s.stopJob job y)
            | (none, s) => .next (s.stopJob job x)
    | some _, some k =>
      match ((j.buf.map fun b => wordOf b.1).eraseDups)[k]? with
      | none => .fault .notEnabled
      | some a =>
        if !s.jobReady j then .fault .notEnabled
        else
          match s.engineWrite (match j.kind with
              | .copy _ _ _ _ _ => j.hint
              | _ => 0) (j.buf.filter fun b => wordOf b.1 == a) with
          | .error x => .next ((s.modJob job fun j => { j with buf := [] }).stopJob job x)
          | .ok s => .next (s.modJob job fun j => { j with buf := j.buf.filter fun b => wordOf b.1 != a })
    | none, _ => .fault .notEnabled

end Sys2Proof.Machine
end

