-- ==== Sys2Proof/Machine/Trellis.lean ====
section
/-! DEFINITION. Trellis streams: window registers, decoding, decode and encode jobs (file 04, R98 to R105; file 16,
R352 to R361). -/

namespace Sys2Proof.Machine

/-! ### Descriptors (Table 16.1) -/

namespace Window

def bits (x : Window) (lo n : Nat) : Nat := entryBits x.desc.toNat lo n

def streamBase (x : Window) : Nat := x.bits 0 64
def scaleBase (x : Window) : Nat := x.bits 64 64

/-- Weights per group, G. -/
def groupSize (x : Window) : Nat := 64 * 2 ^ x.bits 128 2

/-- Bits per weight, k. -/
def step (x : Window) : Nat := x.bits 130 2 + 1

/-- Window length, L. -/
def length (x : Window) : Nat := x.bits 132 5

/-- Computed value function. -/
def computed (x : Window) : Bool := x.bits 137 1 = 1

def valSlot (x : Window) : Nat := x.bits 138 4
def scaleSlot (x : Window) : Nat := x.bits 142 4
def tabOff (x : Window) : Nat := x.bits 160 21

/-- Bytes of a group. -/
def groupBytes (x : Window) : Nat := x.groupSize * x.step / 8

/-- Check 2 of Table 16.3. -/
def badDescriptor (x : Window) : Bool :=
  x.bits 146 14 != 0 || x.bits 181 75 != 0 || x.length < 4 || 16 < x.length || x.length < x.step ||
    (!x.computed && 10 < x.length) || (x.computed && (x.valSlot != 0 || x.tabOff != 0)) ||
    x.bits 57 7 != 0 || x.bits 121 7 != 0

/-- Check 3 on sampled records. -/
def badSlots (x : Window) (slots : List Dword) : Bool :=
  let bad (n : Nat) : Bool := Rec.check (slots.getD n 0) != 0 || 16 < Rec.w (slots.getD n 0)
  (!x.computed && bad x.valSlot) || bad x.scaleSlot

/-- Bytes of the value table. -/
def tableBytes (x : Window) (slots : List Dword) : Nat :=
  (2 ^ x.length * Rec.w (slots.getD x.valSlot 0) + 7) / 8

/-- Check 4. -/
def badTable (x : Window) (slots : List Dword) (size : Nat) : Bool :=
  !x.computed && size < x.tabOff + x.tableBytes slots

/-- The first of checks 2 to 4 that fails, as its cause. -/
def cause (x : Window) (slots : List Dword) (size : Nat) : Option Nat :=
  if x.badDescriptor then some 2
  else if x.badSlots slots then some 3
  else if x.badTable slots size then some 4
  else none

/-- Byte address of a group (R356). -/
def groupAddr (x : Window) (g : Nat) : Nat := (x.streamBase + g * x.groupBytes) % 2 ^ 64

/-- First bit of a group's scale, from bit 0 of ScaleBase on (R102). -/
def scaleBit (x : Window) (slots : List Dword) (g : Nat) : Nat := g * Rec.w (slots.getD x.scaleSlot 0)

/-- Byte address and length of the bytes that hold a group's scale. -/
def scaleAddr (x : Window) (slots : List Dword) (g : Nat) : Nat × Nat :=
  let b := x.scaleBit slots g
  ((x.scaleBase + b / 8) % 2 ^ 64, (b % 8 + Rec.w (slots.getD x.scaleSlot 0) + 7) / 8)

/-- Window i of a group's bits (R100). -/
def window (x : Window) (group i : Nat) : Nat :=
  let n := x.groupSize * x.step
  (group / 2 ^ (i * x.step) + group * 2 ^ (n - i * x.step)) % 2 ^ x.length

end Window

/-- The computed value function (R101). -/
def computedValue (win : Nat) : Int :=
  let h := win * 0x02076F59 % 2 ^ 32
  ((h % 256 + h / 2 ^ 8 % 256 + h / 2 ^ 16 % 256 + h / 2 ^ 24 % 256 : Nat) : Int) - 510

/-- Bits of a work-group's scratchpad from a bit offset up. -/
def State.scratchBits (s : State) (u off bit n : Nat) : Nat :=
  s.valueAt (.scratch u (off + bit / 8)) ((bit % 8 + n + 7) / 8) / 2 ^ (bit % 8) % 2 ^ n

/-- The scratchpad bytes that hold the value of a window, none for a computed one. -/
def Window.valueAddrs (x : Window) (u : Nat) (slots : List Dword) (win : Nat) : List Addr :=
  let w := Rec.w (slots.getD x.valSlot 0)
  if x.computed then []
  else (List.range ((win * w % 8 + w + 7) / 8)).map fun i => .scratch u (x.tabOff + win * w / 8 + i)

/-- The value of a window (R101). -/
def State.windowValue (s : State) (u : Nat) (x : Window) (slots : List Dword) (win : Nat) : Val :=
  if x.computed then .ofQ (.ofInt (computedValue win))
  else
    let r := slots.getD x.valSlot 0
    decodeCode r (s.scratchBits u x.tabOff (win * Rec.w r) (Rec.w r))

/-- A scale from the bytes that hold it (R102). -/
def Window.scaleOf (x : Window) (slots : List Dword) (g bytes : Nat) : Val :=
  decodeCode (slots.getD x.scaleSlot 0) (bytes / 2 ^ (x.scaleBit slots g % 8))

/-- A weight from its group's bits and scale (R102, R356). -/
def State.weight (s : State) (u : Nat) (x : Window) (slots : List Dword) (group i : Nat) (scale : Val) : Val :=
  (s.windowValue u x slots (x.window group i)).mul scale

/-! ### wset, wget -/

/-- The trellis fault (R359). -/
def Ctx.trellisFault (c : Ctx) (i : Instr) (cause window : Nat) : Res :=
  c.takes { c.mkTrap 12 cause (c.execs i) (some c.sp.pc) with unit := window }

/-- The bytes plain loads of a warp read, from the L1 where it serves them, and what they leave there; misses count (R389,
event 4). -/
def Ctx.loadTargets (c : Ctx) (s : State) (ts : List Target) : List (Nat × Nat) × State :=
  let k := s.core c.g.core
  let lane (t : Target) : LoadLane := ⟨t.lane, t.va, t.addrs, 0, false, 0, t.type != 0, t.type == 2, false⟩
  let values := ts.map fun t => (t.lane, s.loadValue c.uid k c.g.launch c.w s.order (lane t))
  let homes := linesOf (ts.flatMap fun t => if t.type != 0 then t.addrs else [])
  let cached := linesOf (ts.flatMap fun t => if t.type != 0 then [] else t.addrs)
  let needed := ts.flatMap fun t => t.addrs.filter fun a => !servedByte k c.g.launch (lane t) a
  let misses := cached.filter fun n => (linesOf needed).contains n
  let s := (s.touchLines 0 needed).afterLoad c.g.core c.g.launch false 0 0 homes
    (cached.filter fun n => !misses.contains n) misses
  (values, s.modWg c.uid fun g => g.count 4 misses.length)

/-- wset: reads, checks and installs a descriptor (R353). -/
def execWset (f : FmtS) (s : State) : Res :=
  issue (.wset f) s fun c =>
    let lanes := c.execs (.wset f)
    let n := f.sel.toNat % 8
    let va := c.w.rd64 f.a 0
    let xs : List Span := (lanesOf lanes).map fun l => ⟨l, va, 32, 32⟩
    if lanes = 0 then c.skip (.wset f)
    else
      match c.failing readHow 0 xs with
      | some (_, b, bad) => c.faultOf b bad .read false
      | none =>
        let (ts, s) := c.targets c.s readHow 0 (xs.take 1)
        c.reachRead ts
          (let (values, s) := c.loadTargets s ts
           let x : Window := ⟨BitVec.ofNat 256 ((values.head?.map (·.2)).getD 0), va⟩
           match x.cause c.slots c.g.scratchSize with
           | some k => { c with s := s }.trellisFault (.wset f) k n
           | none =>
             match c.done (.wset f) s c.w with
             | .next s => .next (s.modWg c.uid fun g => { g with windows := g.windows.put n (some x) })
             | r => r)

/-- wget: a word of a window register, zero when it is invalid (R355). -/
def execWget (f : FmtS) (s : State) : Res :=
  issue (.wget f) s fun c =>
    c.write (.wget f) f.d 1 fun _ =>
      match c.g.windows.look (f.sel.toNat % 8) with
      | none => 0
      | some x =>
        match f.sel.toNat / 8 % 4 with
        | 0 => x.bits 128 32
        | 1 => x.bits 160 32
        | 2 => x.addr % 2 ^ 32
        | _ => x.addr / 2 ^ 32

/-- The window register an instruction names, after checks 1, 3 and 4 on its own samples; `dest` is a destination record that
check 3 refuses (R354). -/
def Ctx.windowOf (c : Ctx) (i : Instr) (n : Nat) (dest : Bool) (go : Window → Res) : Res :=
  match c.g.windows.look n with
  | none => c.trellisFault i 1 n
  | some x =>
    if x.badSlots c.slots || dest then c.trellisFault i 3 n
    else if x.badTable c.slots c.g.scratchSize then c.trellisFault i 4 n
    else go x

/-! ### trdec (R357) -/

/-- The spans a lane of `trdec` reads: its group's bytes and its scale's. -/
def Window.spans (x : Window) (slots : List Dword) (l n : Nat) : List Span :=
  let g := n / x.groupSize
  let (a, len) := x.scaleAddr slots g
  [⟨l, x.groupAddr g, x.groupBytes, 1⟩, ⟨l, a, len, 1⟩]

/-- The weight of a lane from the values its two spans read. -/
def Ctx.laneWeight (c : Ctx) (x : Window) (n : Nat) (values : List Nat) : Val :=
  c.s.weight c.uid x c.slots (values.getD 0 0) (n % x.groupSize)
    (x.scaleOf c.slots (n / x.groupSize) (values.getD 1 0))

/-- The lanes of a span list that fail every check, for helper lanes (R177). -/
def badLanes (ts : List Target) : List Nat := (ts.filter (·.bad)).map (·.lane)

/-- trdec: one weight per lane, D empty until it is written. -/
def execTrdec (f : FmtR) (s : State) : Res :=
  issue (.trdec f) s fun c =>
    let r := c.record f.f.toNat
    let i : Instr := .trdec f
    if c.execs i = 0 then c.skip i
    else
      c.windowOf i (f.c.toNat % 8) false fun x =>
        let index (l : Nat) : Nat := (c.w.rd f.a l).toNat
        let xs := (lanesOf (c.execs i)).flatMap fun l => x.spans c.slots l (index l)
        let units := unitsOf f.d (c.execs i)
        match c.failing readHow 0 xs with
        | some (_, b, bad) => c.faultOf b bad .read false
        | none =>
          let (ts, s) := c.targets c.s readHow 0 (xs.filter fun t => units.contains t.lane)
          if c.w.storeQ.any fun e => e.op.addrs.any fun a => match a with
              | .scratch _ _ => !x.computed
              | .phys _ => false then c.block
          else c.reachRead ts
            (let (values, s) := c.loadTargets s ts
             let weight (l : Nat) : Nat :=
               if (badLanes ts).contains l then 0
               else encodeVal r (c.laneWeight x (index l)
                 ((values.filter fun p => p.1 == l).map (·.2))) (c.draw l 0)
             let table (l : Nat) : Target :=
               let bits := ((values.filter fun p => p.1 == l).map (·.2)).getD 0 0
               ⟨l, x.tabOff, if (badLanes ts).contains l then []
                 else x.valueAddrs c.uid c.slots (x.window bits (index l % x.groupSize)), 0, false⟩
             ({ c with s := s }.eccTrap (units.map table)).getD
               ({ c with s := s }.writeLater i f.d (recRegs r) weight (c.drawn r 1 units)))

/-! ### Jobs (R358, R360) -/

/-- The three scalar values of a trellis job and its window, the checks of window and slots made. -/
def Ctx.trellisRun (c : Ctx) (x : Window) (first count off : Nat) (record : Dword) (targets : Nat)
    (pages : List PageMap) : TrellisRun :=
  { desc := x.desc, first := first, count := count, off := off, record := record, slots := c.slots, pages := pages,
    targets := targets, number := c.g.trellis.toNat, key := c.w.key }

/-- Records a trellis job, and counts it. -/
def Ctx.startTrellis (c : Ctx) (i : Instr) (s : State) (kind : JobKind) (claims : List Claim) (queue : Bool) : Res :=
  let (n, s) := c.addJob s kind claims none
  let s := s.modWg c.uid fun g => { g with trellis := g.trellis + 1 }
  let s := if queue then s.modDie (c.g.core / 64) fun d => { d with viterbi := d.viterbi ++ [n] } else s
  c.doneRegion i s c.w

/-- trdecn: a job that decodes a run of weights into scratchpad; helper lanes alone issue none (R177). -/
def execTrdecn (f : FmtS) (s : State) : Res :=
  issue (.trdecn f) s fun c =>
    let i : Instr := .trdecn f
    let n := f.sel.toNat % 8
    let off := (c.w.rd f.a 0).toNat
    let first := (c.w.rd f.b 0).toNat
    let count := (c.w.rd f.c 0).toNat
    let r := c.record (f.sel.toNat / 8 % 16)
    let len := (count * Rec.w r + 7) / 8
    if c.execs i &&& ~~~c.w.helpers = 0 then c.doneRegion i c.s c.w
    else
      c.windowOf i n (decide (32 < Rec.w r)) fun x =>
        if 1048576 < count then c.trellisFault i 5 n
        else if count = 0 then c.doneRegion i c.s c.w
        else if c.g.scratchSize < off + len then c.access 0 (c.execs i) off
        else if !c.quiet then c.block
        else c.startTrellis i c.s (.trdec (c.trellisRun x first count off r 0 []) 0)
          [blockClaim c.uid off len] false

/-- trenc: a job of the die's Viterbi engine that encodes groups anew; helper lanes alone issue none (R177). -/
def execTrenc (f : FmtS) (s : State) : Res :=
  issue (.trenc f) s fun c =>
    let i : Instr := .trenc f
    let n := f.sel.toNat % 8
    let targets := c.w.rd64 f.a 0
    let first := (c.w.rd f.b 0).toNat
    let count := (c.w.rd f.c 0).toNat
    if c.execs i &&& ~~~c.w.helpers = 0 then c.doneRegion i c.s c.w
    else
      c.windowOf i n false fun x =>
        let va := x.groupAddr first
        let len := count * x.groupBytes
        if 65536 < count then c.trellisFault i 5 n
        else if count = 0 then c.doneRegion i c.s c.w
        else if targets % 4 ≠ 0 then c.access 2 (c.execs i) targets
        else if 2 ^ 57 < targets + 4 * count * x.groupSize then c.access 3 (c.execs i) targets
        else if 2 ^ 57 < va + len then c.access 3 (c.execs i) va
        else if !c.quiet then c.block
        else
          let (y, s) := c.s.claimPages c.g.core c.g.ctx c.privileged va len
          match y with
          | .error m => c.faultOf (.miss m) (c.execs i) .engineWrite true
          | .ok pages =>
            let claims := pages.map fun m => lineClaim m va len
            if pages.any fun m => inReserve m.pa then c.access 4 (c.execs i) va
            else
              match c.s.ownersFull claims with
              | some die => c.blockOwner die
              | none => c.startTrellis i s (.trenc (c.trellisRun x first count 0 0 targets pages) 0) claims true

/-- Whether a job is a trellis job of a warp. -/
def Job.isTrellis (j : Job) (u i : Nat) : Bool :=
  j.wg == u && j.warp == i &&
    match j.kind with
    | .trdec _ _ => true
    | .trenc _ _ => true
    | _ => false

/-- trwait: waits for the warp's trellis jobs recorded before it; a failed one's fault is taken (R361). -/
def execTrwait (f : FmtC) (s : State) : Res :=
  issue (.trwait f) s fun c =>
    let before := match c.sp.wait with
      | some (.trwait n) => n
      | _ => c.s.order
    if c.execs (.trwait f) = 0 then c.skip (.trwait f)
    else
      match c.s.failedJob fun _ j => j.isTrellis c.uid c.wi with
      | some (n, t) => c.receive (.trwait f) n t
      | none =>
        if c.s.jobs.any fun p => p.2.isTrellis c.uid c.wi && !p.2.done && p.2.order < before then
          c.waitFor (.trwait before)
        else c.skip (.trwait f)

/-! ### Decode jobs at work -/

/-- Reads a group's bits and scale for a job of a work-group, each line once for the job (R105). -/
def State.readGroup (s : State) (wg : WorkGroup) (job : Nat) (priv : Bool) (x : Window) (slots : List Dword)
    (g : Nat) : Except Stop (Nat × Val) × State :=
  let va := x.groupAddr g
  let (a, len) := x.scaleAddr slots g
  if 2 ^ 57 < va + x.groupBytes then (.error (.fails 17 3 va), s)
  else if 2 ^ 57 < a + len then (.error (.fails 17 3 a), s)
  else
    match s.lineRead wg job priv va x.groupBytes with
    | (.error e, s) => (.error e, s)
    | (.ok bs, s) =>
      match s.lineRead wg job priv a len with
      | (.error e, s) => (.error e, s)
      | (.ok cs, s) => (.ok (natOfBytes bs, x.scaleOf slots g (natOfBytes cs)), s)

/-- The word of the draw of element j of a decode job (R358). -/
def TrellisRun.word (t : TrellisRun) (s : State) (g : WorkGroup) (j : Nat) : Nat :=
  let ctr := [(s.launchId g).truncate 32, BitVec.ofNat 32 g.id,
    BitVec.ofNat 32 (0x40000000 + t.number % 2 ^ 30), BitVec.ofNat 32 (j / 4)]
  ((fount ctr (wordsOfNat 4 t.key.toNat)).getD (j % 4) 0).toNat

/-- Decodes weights of a job group by group until a read stops: codes so far. `elems` are the element numbers that
are left, with their group. -/
def State.decodeRun (s : State) (u : Nat) (g : WorkGroup) (job : Nat) (priv : Bool) (x : Window) (t : TrellisRun) :
    (elems : List Nat) → Option (Nat × Nat × Val) → Stop × List Nat × State
  | [], _ => (.ok, [], s)
  | j :: r, held =>
    let n := t.first + j
    let grp := n / x.groupSize
    let go (s : State) (bits : Nat) (scale : Val) : Stop × List Nat × State :=
      let code := encodeVal t.record (s.weight u x t.slots bits (n % x.groupSize) scale) (t.word s g j)
      match (x.valueAddrs u t.slots (x.window bits (n % x.groupSize))).find? s.badAddr with
      | some a => (.damaged x.tabOff a, [], s)
      | none =>
        let (e, cs, s) := s.decodeRun u g job priv x t r (some (grp, bits, scale))
        (e, code :: cs, s)
    match held with
    | some (h, bits, scale) =>
      if h = grp then go s bits scale
      else
        match s.readGroup g job priv x t.slots grp with
        | (.error e, s) => (e, [], s)
        | (.ok (bits, scale), s) => go s bits scale
    | none =>
      match s.readGroup g job priv x t.slots grp with
      | (.error e, s) => (e, [], s)
      | (.ok (bits, scale), s) => go s bits scale

/-- The addresses of the 128-byte pieces that hold a group and its scale. -/
def Window.pieces (x : Window) (slots : List Dword) (g : Nat) : List Nat :=
  let va := x.groupAddr g
  let (a, len) := x.scaleAddr slots g
  let cut (a n : Nat) : List Nat := (List.range ((a % 128 + n + 127) / 128)).map fun i => max a ((a / 128 + i) * 128)
  (cut va x.groupBytes ++ cut a len).filter fun p => p < 2 ^ 57

/-- A decode reads the first line of some groups that it has not read, ahead of its end: decodes and writes of other agents
meet line by line (R105). -/
def State.readAhead (s : State) (g : WorkGroup) (job : Nat) (priv : Bool) (x : Window) (slots : List Dword)
    (groups : List Nat) : Res :=
  match s.jobs.look job with
  | none => .fault .notEnabled
  | some j =>
    let unread (p : Nat) : Bool :=
      match (s.translate g.core g.ctx p .engineRead priv).1 with
      | .ok y => (Sparse.look j.lines (y.pa / 128)).isNone
      | .error _ => true
    match groups.findSome? fun n => (x.pieces slots n).find? unread with
    | none => .fault .notEnabled
    | some p =>
      match s.lineRead g job priv p 1 with
      | (.ok _, s) => .next s
      | (.error _, _) => .fault .notEnabled

/-- The groups that a decode job has not finished. -/
def TrellisRun.groupsLeft (t : TrellisRun) (next : Nat) : List Nat :=
  let x : Window := ⟨t.desc, 0⟩
  let lo := (t.first + next) / x.groupSize
  let hi := (t.first + t.count - 1) / x.groupSize
  (List.range (hi + 1 - lo)).map (lo + ·)

/-- Codes as bits of a packed stream of a work-group's scratchpad from element `from_` on (R90, R92). -/
def streamBytes (u off w from_ : Nat) (codes : List Nat) : List (Addr × Byte × Byte) :=
  let lo := from_ * w
  let hi := (from_ + codes.length) * w
  let value := packElems w codes * 2 ^ (lo % 8)
  let mask := (2 ^ (codes.length * w) - 1) * 2 ^ (lo % 8)
  let as := (List.range ((hi + 7) / 8 - lo / 8)).map fun i => Addr.scratch u (off + lo / 8 + i)
  if codes.isEmpty then [] else laneBytes as value mask

/-- A decode job's step. -/
def State.decodeJob (s : State) (n : Nat) (j : Job) (g : WorkGroup) (t : TrellisRun) (next : Nat) : State :=
  let x : Window := ⟨t.desc, 0⟩
  let (e, codes, s) := s.decodeRun j.wg g n j.privileged x t ((List.range t.count).drop next) none
  let bs := streamBytes j.wg t.off (Rec.w t.record) next codes
  match s.merges bs with
  | some a => s.stopJob n (.damaged t.off a)
  | none =>
    let s := s.writeBytes bs
    (s.modJob n fun j => { j with kind := .trdec t (next + codes.length) }).stopJob n e

/-! ### The Viterbi engine (R360) -/

/-- A cost in units of 2^−149; none is unreachable. -/
abbrev Cost := Option Nat

/-- The cost of a value against a target: the squared difference as binary32, NaN the largest finite. -/
def costOf (v target : Val) : Nat :=
  let d := v.add false target.neg
  let units (q : Q) : Nat := (q.scale 149).floor.toNat
  match decodeVal binary32 false (encodeVal binary32 (d.mul d) 0) with
  | .fin q => units q
  | .zero _ => 0
  | _ => units (Rec.maxFinite binary32)

/-- The best predecessor window of a state: least cost, least window on a tie. -/
def bestOf (k p : Nat) (cost : List Cost) (c : Nat → Nat) (s' : Nat) : Cost × Nat :=
  (List.range (2 ^ k)).foldl (fun (best : Cost × Nat) r =>
    let x := s' * 2 ^ k + r
    match cost.getD (x % p) none, best.1 with
    | none, _ => best
    | some a, none => (some (a + c x), x)
    | some a, some b => if a + c x < b then (some (a + c x), x) else best) (none, s' * 2 ^ k)

/-- One step over every state: the new costs and the windows chosen. -/
def viterbiStep (k p : Nat) (cost : List Cost) (c : Nat → Nat) : List Cost × List Nat :=
  let bs := (List.range p).map (bestOf k p cost c)
  (bs.map (·.1), bs.map (·.2))

/-- The state of least cost, least number on a tie. -/
def leastState (cost : List Cost) : Nat :=
  ((cost.zipIdx).foldl (fun (best : Cost × Nat) p =>
    match p.1, best.1 with
    | none, _ => best
    | some a, none => (some a, p.2)
    | some a, some b => if a < b then (some a, p.2) else best) (none, 0)).2

/-- Traces back from a state through the chosen windows, last step first. -/
def traceBack (p : Nat) : (chosen : List (List Nat)) → (state : Nat) → List Nat
  | [], _ => []
  | ch :: r, state =>
    let x := ch.getD state 0
    traceBack p r (x % p) ++ [x]

/-- enc(g): the bits of a group, from its targets' costs. -/
def encodeGroup (x : Window) (cost : Nat → Nat → Nat) : Nat :=
  let k := x.step
  let p := 2 ^ (x.length - k)
  let g := x.groupSize
  let warm := (List.range (g + x.length)).foldl (fun (cs : List Cost) t =>
    (viterbiStep k p cs (cost (t % g))).1) (List.replicate p (some 0))
  let s := leastState warm
  let start := (List.range p).map fun i => if i = s then some 0 else none
  let run := (List.range g).foldl (fun (acc : List Cost × List (List Nat)) t =>
    let (cs, ch) := viterbiStep k p acc.1 (cost t)
    (cs, ch :: acc.2)) (start, [])
  packElems k ((traceBack p run.2 s).map (· % 2 ^ k))

/-- Encodes one group of a job and writes its bytes whole, or says why not. The scale and the table are read when the group
starts, the lines of the targets once for the job (R142, R360). -/
def State.encodeOne (s : State) (u : Nat) (g : WorkGroup) (job : Nat) (x : Window) (t : TrellisRun) (n : Nat) :
    Stop × State :=
  let grp := t.first + n
  let (a, len) := x.scaleAddr t.slots grp
  match s.jobs.look job with
  | none => (.ok, s)
  | some j =>
    match s.renew g job j (x.groupAddr t.first) (n * x.groupBytes) x.groupBytes (t.count * x.groupBytes) with
    | (some e, s) => (e, s)
    | (none, s) =>
      let pages := ((s.jobs.look job).map (·.pages)).getD []
      if 2 ^ 57 < a + len then (.fails 17 3 a, s)
      else if !x.computed && g.badRange x.tabOff (x.tableBytes t.slots) then
        (.damaged x.tabOff (.scratch u x.tabOff), s)
      else
        match s.engineRead g.core g.ctx g.launch j.privileged a len with
        | (.error e, s) => (e, s)
        | (.ok cs, s) =>
          match s.lineRead g job j.privileged (t.targets + 4 * n * x.groupSize) (4 * x.groupSize) with
          | (.error e, s) => (e, s)
          | (.ok bs, s) =>
            let scale := x.scaleOf t.slots grp (natOfBytes cs)
            let target (i : Nat) : Val := decodeVal binary32 false (natOfBytes ((bs.drop (4 * i)).take 4))
            let bits := encodeGroup x fun i win => costOf ((s.windowValue u x t.slots win).mul scale) (target i)
            let va := x.groupAddr t.first
            let as := End.addrs (.global va) u pages (n * x.groupBytes) x.groupBytes
            match s.engineWrite 0 (plainBytes as (bytesOfNat x.groupBytes bits)) with
            | .error e => (e, s)
            | .ok s => (.ok, s)

/-- Encodes groups until one stops. -/
def State.encodeRun (s : State) (u : Nat) (g : WorkGroup) (job : Nat) (x : Window) (t : TrellisRun) :
    (groups : List Nat) → Stop × Nat × State
  | [] => (.ok, 0, s)
  | n :: r =>
    match s.encodeOne u g job x t n with
    | (.ok, s) =>
      let (e, k, s) := s.encodeRun u g job x t r
      (e, k + 1, s)
    | (e, s) => (e, 0, s)

/-- A job with the groups it has encoded counted. -/
def Job.encoded (j : Job) (k : Nat) : Job :=
  match j.kind with
  | .trenc t next => { j with kind := .trenc t (next + k) }
  | _ => j

/-- An encode job's step. -/
def State.encodeJob (s : State) (n : Nat) (j : Job) (g : WorkGroup) (t : TrellisRun) (next : Nat) : State :=
  let (e, k, s) := s.encodeRun j.wg g n ⟨t.desc, 0⟩ t ((List.range t.count).drop next)
  (s.modJob n fun j => j.encoded k).stopJob n e

/-- TRELLIS_JOB_COMPLETE: a decode or encode job does the rest of its work (R358, R360, R361). -/
def execTrellisJobComplete (job : Nat) (s : State) : Res :=
  match s.jobs.look job with
  | none => .fault .notEnabled
  | some j =>
    match s.wgs.look j.wg with
    | none => .fault .notEnabled
    | some g =>
      if !s.jobReady j then .fault .notEnabled
      else
        match j.kind with
        | .trdec t next => .next (s.decodeJob job j g t next)
        | .trenc t next =>
          if (s.die (g.core / 64)).viterbi.head? = some job then .next (s.encodeJob job j g t next)
          else .fault .notEnabled
        | _ => .fault .notEnabled

end Sys2Proof.Machine
end

