-- ==== Sys2Proof/Machine/Product.lean ====
section
/-! DEFINITION. The arithmetic of the matrix engine: operand layouts, block products, tile stores, delayed-scaling
updates (file 15, R332 to R343; file 04, R93 to R97, R107). -/

namespace Sys2Proof.Machine

/-! ### Codes (R332, R333) -/

/-- The value of the top q bits of a code of an integer record, in place (R332, R95). -/
def topBits (r : Dword) (q code : Nat) : Int :=
  let c := code % 2 ^ Rec.w r / 2 ^ (Rec.w r - q)
  let n : Int := if Rec.s r = 1 ∧ 2 ^ (q - 1) ≤ c then (c : Int) - 2 ^ q else c
  n * 2 ^ (Rec.w r - q)

/-- Planes that a Planes field of an instruction asks for (R332). -/
def planesOf (r : Dword) (planes : Nat) : Nat := if planes = 0 then Rec.w r else planes

/-- n codes of w bits of a packed stream, as a function of their number. -/
def streamCode (stream w : Nat) (i : Nat) : Nat := stream / 2 ^ (i * w) % 2 ^ w

/-- The code of element e of a nested tensor of w planes, the planes after the first q read as 0 (R93, R95). -/
def nestedCode (planes : List Nat) (w e : Nat) : Nat :=
  (planes.zipIdx.map fun p => p.1 / 2 ^ e % 2 * 2 ^ (w - 1 - p.2)).sum

/-- Rows and columns of A as codes: row i, element k. -/
def State.codesA (s : State) (u base k : Nat) (r : Dword) (q : Nat) (nested : Bool) : List (List Nat) :=
  let w := Rec.w r
  if nested then
    let planes := (List.range q).map fun p => s.valueAt (.scratch u (base + 4 * k * p)) (4 * k)
    (List.range 32).map fun i => (List.range k).map fun j => nestedCode planes w (i * k + j)
  else
    (List.range 32).map fun i =>
      let row := s.valueAt (.scratch u (base + i * k * w / 8)) (k * w / 8)
      (List.range k).map (streamCode row w)

/-- K of an operation (Table 15.4). -/
def depthOf (n : Option Nat) : Nat :=
  match n with
  | none => 256
  | some n => 64 * (256 / n)

/-- The physical row of each present position of a column, with its logical row (R333). -/
def BankCopy.present (b : BankCopy) (n : Option Nat) (col : Nat) : List (Nat × Nat) :=
  match n with
  | none => (List.range 256).map fun k => (k, k)
  | some n => (List.range (n * (256 / n))).map fun r => (64 * (r / n) + Sparse.get 0 b.index (128 * r + col), r)

/-- Columns a copy holds. -/
def BankCopy.cols (b : BankCopy) : Nat := if b.paired then 64 else 128

/-- Whether the indices of every group of every column ascend (R333, R341 check 5). -/
def BankCopy.ascends (b : BankCopy) (n : Nat) : Bool :=
  (List.range b.cols).all fun col => (List.range (n * (256 / n))).all fun r =>
    r % n == 0 || Sparse.get 0 b.index (128 * (r - 1) + col) < Sparse.get 0 b.index (128 * r + col)

/-! ### Floating blocks (R334, R335) -/

/-- Rounding to the nearest integer, ties to even. -/
def Q.rne (x : Q) : Int :=
  let f := x.floor
  let lo := x.sub (.ofInt f)
  let hi := (Q.ofInt (f + 1)).sub x
  if lo.lt hi then f else if hi.lt lo then f + 1 else if f % 2 = 0 then f else f + 1

/-- Values of a block aligned to their largest exponent: the exponent of the unit u, and the kept integers
(R334). A value that is not finite and nonzero is kept as 0. -/
def alignBlock (r : Dword) (xs : List Val) : Int × List Int :=
  let ex (x : Val) : Option Int := match x with
    | .fin q => some (max q.abs.log2 (1 - Rec.bias r))
    | _ => none
  let es := xs.filterMap ex
  let e := es.foldl max (es.headD 0)
  let u := e - (Rec.m r + 1) - 1
  (u, xs.map fun x => (x.toQ.scale (-u)).rne)

/-- The value of a special block (R335); none when no pair is special. -/
def specialBlock (pairs : List (Val × Val)) : Option Val :=
  let ps := pairs.map fun p => p.1.mul p.2
  if ps.any Val.isNan then some .nan
  else
    match ps.filter Val.isInf with
    | [] => none
    | x :: rest => some (if rest.all (· == x) then x else .nan)

/-- One block of one element: every A value of the block, the present B values with their positions, and the
exponent of the scale factors; none marks a scale code 0xFF (R334, R335, R97). -/
def blockValue (r : Dword) (as : List Val) (bs : List (Nat × Val)) (scale : Option Int) : Val :=
  match scale with
  | none => .nan
  | some sc =>
    match specialBlock (bs.map fun p => (as.getD p.1 .nan, p.2)) with
    | some v => v
    | none =>
      let (ua, ka) := alignBlock r as
      let (ub, kb) := alignBlock r (bs.map (·.2))
      let sum := ((bs.zip kb).map fun p => ka.getD p.1.1 0 * p.2).sum
      .ofQ (.dyadic sum (ua + ub + sc))

/-- The exponent of two scale codes, none when one is 0xFF (R97, R337). -/
def scaleExp (a b : Nat) : Option Int :=
  if a = 255 ∨ b = 255 then none else some ((a : Int) + b - 254)

/-- acc := encode(acc ± blk, binary32, RNE). -/
def addBlock (sub : Bool) (acc : Nat) (blk : Val) : Nat :=
  encodeVal binary32 ((decodeVal binary32 false acc).add false (if sub then blk.neg else blk)) 0

/-! ### Products (R334 to R337, R341) -/

/-- A product, as its instruction names it. -/
structure Mul where
  record : Dword
  planes : Nat
  nested : Bool
  scaled : Bool
  /-- N of a sparse product -/
  nonzeros : Option Nat
  /-- 0 overwrite, 1 add, 2 subtract -/
  acc : Nat
  base : Nat
  deriving DecidableEq, Repr

/-- The part of a list that belongs to block β of 32. -/
def blockPart {α : Type} (l : List α) (b : Nat) : List α := (l.drop (32 * b)).take 32

/-- The present positions of a column by block: position in the block, physical row. -/
def blockRows (present : List (Nat × Nat)) (b : Nat) : List (Nat × Nat) :=
  (present.filter fun p => p.1 / 32 == b).map fun p => (p.1 % 32, p.2)

/-- One element of a floating product. -/
def Mul.float (m : Mul) (row : List Val) (col : List (List (Nat × Val))) (scales : List (Option Int)) (old : Nat) :
    Nat :=
  (col.zipIdx).foldl (fun acc p =>
    addBlock (m.acc = 2) acc (blockValue m.record (blockPart row p.2) p.1 (scales.getD p.2 none)))
    (if m.acc = 0 then 0 else old)

/-- One element of an integer product: its value and whether it was clamped (R336). -/
def Mul.int (m : Mul) (row : List Int) (col : List (List (Nat × Int))) (old : Nat) : Nat × Bool :=
  let start : Int := if m.acc = 0 then 0 else (BitVec.ofNat 32 old).toInt
  let (x, flag) := (col.zipIdx).foldl (fun (a : Int × Bool) p =>
    let as := blockPart row p.2
    let sum := (p.1.map fun b => as.getD b.1 0 * b.2).sum
    let t := if m.acc = 2 then a.1 - sum else a.1 + sum
    if Rec.intOvf m.record = 1 ∧ (t < -(2 ^ 31) ∨ 2 ^ 31 - 1 < t) then (if t < 0 then -(2 ^ 31) else 2 ^ 31 - 1, true)
    else ((BitVec.ofInt 32 t).toInt, a.2)) (start, false)
  ((BitVec.ofInt 32 x).toNat, flag)

/-- A tile's element: word 4,096 z + 128 i + j. -/
def WorkGroup.tileWord (g : WorkGroup) (z e : Nat) : Word := Sparse.get (0 : Word) g.tiles (4096 * z + e)

/-- Replaces a tile's elements. -/
def WorkGroup.setTile (g : WorkGroup) (z : Nat) (words : List Word) : WorkGroup :=
  let new := (words.zipIdx.filter fun p => p.1 != 0).map fun p => (4096 * z + p.2, p.1)
  { g with tiles := (g.tiles.filter fun p => p.1 < 4096 * z) ++ new ++
             g.tiles.filter fun p => 4096 * (z + 1) ≤ p.1 }

/-- A tile's saturation flag is bit 0 of its entry, its kind bit, 1 for i32, bit 1 (R326). -/
def WorkGroup.setFlags (g : WorkGroup) (z : Nat) (flag int : Bool) : WorkGroup :=
  { g with tileFlags := g.tileFlags.set 0 z ((if flag then 1 else 0) + if int then 2 else 0) }

/-- Whether a word of a tile is uncorrectable, among the elements that a test selects (R67). -/
def WorkGroup.badTile (g : WorkGroup) (z : Nat) (p : Nat → Bool) : Bool :=
  g.damaged.any fun x => match x with
    | .scratch _ => false
    | .tile k => k / 4096 == z && p (k % 4096)

/-- A tile after the elements that a test selects have been written: they are sound (R67). -/
def WorkGroup.soundTile (g : WorkGroup) (z : Nat) (p : Nat → Bool) : WorkGroup :=
  { g with damaged := g.damaged.filter fun x => match x with
      | .scratch _ => true
      | .tile k => !(k / 4096 == z && p (k % 4096)) }

def WorkGroup.tileFlag (g : WorkGroup) (z : Nat) : Bool := Sparse.get 0 g.tileFlags z % 2 = 1

def WorkGroup.tileInt (g : WorkGroup) (z : Nat) : Bool := 2 ≤ Sparse.get 0 g.tileFlags z

/-- The decoded columns of a copy, by block. -/
def BankCopy.columns {α : Type} (b : BankCopy) (m : Mul) (value : Nat → α) : List (List (List (Nat × α))) :=
  let codes := b.codes.foldl (fun (a : Array Nat) p => a.set! p.1 p.2) (Array.replicate 32768 0)
  (List.range b.cols).map fun n =>
    let rows := b.present m.nonzeros n
    (List.range (depthOf m.nonzeros / 32)).map fun β =>
      (blockRows rows β).map fun p => (p.1, value (codes.getD (128 * p.2 + n) 0))

/-- The new words of a tile after a product, with its saturation flag. The columns a pair does not hold stay. -/
def State.product (s : State) (u : Nat) (g : WorkGroup) (z : Nat) (m : Mul) (b : BankCopy) : List Word × Bool :=
  let k := depthOf m.nonzeros
  let codes := s.codesA u m.base k m.record (planesOf m.record m.planes) m.nested
  let tile := ((g.tiles.filter fun p => p.1 / 4096 == z)).foldl
    (fun (a : Array Word) p => a.set! (p.1 % 4096) p.2) (Array.replicate 4096 (0 : Word))
  if Rec.isInt m.record then
    let cols := b.columns m (topBits m.record (Rec.w m.record))
    let out := codes.zipIdx.map fun row =>
      let as := row.1.map (topBits m.record (planesOf m.record m.planes))
      (List.range 128).map fun n =>
        let old := tile.getD (128 * row.2 + n) 0
        match cols[n]? with
        | some col =>
          let (x, f) := m.int as col old.toNat
          (BitVec.ofNat 32 x, f)
        | none => (old, false)
    (out.flatten.map (·.1), out.flatten.any (·.2) || (m.acc != 0 && g.tileFlag z))
  else
    let cols := b.columns m (decodeVal m.record false)
    let blocks := k / 32
    let out := codes.zipIdx.map fun row =>
      let as := row.1.map (decodeVal m.record false)
      (List.range 128).map fun n =>
        let old := tile.getD (128 * row.2 + n) 0
        match cols[n]? with
        | some col =>
          let scales := (List.range blocks).map fun β =>
            if m.scaled then scaleExp (g.fifoA.getD (row.2 * blocks + β) 255) (g.fifoB.getD (n * blocks + β) 255)
            else some 0
          BitVec.ofNat 32 (m.float as col scales old.toNat)
        | none => old
    (out.flatten, g.tileFlag z)

/-! ### Loading banks (R338, R339) -/

/-- The stored code of an element: of an integer record its top q bits in place. -/
def storedCode (r : Dword) (q code : Nat) : Nat :=
  if Rec.isInt r then code / 2 ^ (Rec.w r - q) * 2 ^ (Rec.w r - q) else code

/-- The elements of 256 rows as a map by row × 128 + column, in rising order. -/
def rowMap (rows : List (List Nat)) : Sparse Nat :=
  rows.zipIdx.flatMap fun r => (r.1.zipIdx.filter fun c => c.1 != 0).map fun c => (128 * r.2 + c.2, c.1)

/-- B in a scratchpad of `size` bytes as a copy (R333, R338). A code of an integer record that lies past the scratchpad, where
the extent by bw accepts the load, is a free value (log 82). -/
def State.readBank (s : State) (u size base stride : Nat) (r : Dword) (q : Nat) (sparse : Bool) : BankCopy :=
  let cols := if 9 ≤ q then 64 else 128
  let row (at_ w : Nat) (k : Nat → Nat) : List Nat :=
    let x := s.valueAt (.scratch u at_) ((cols * w + 7) / 8)
    (List.range cols).map fun n => k (if 8 * size < 8 * at_ + (n + 1) * w
      then Config.unread (1000 + n) (s.tick + at_) % 2 ^ w else streamCode x w n)
  { valid := true, record := r, paired := 9 ≤ q, sparse := sparse, width := q,
    codes := rowMap ((List.range 256).map fun k => row (base + k * stride) (Rec.w r) (storedCode r q)),
    index := if sparse then
      rowMap ((List.range 256).map fun k => row (base + 256 * stride + k * (6 * cols) / 8) 6 id) else [],
    damaged := [] }

/-- Puts a copy in a bank: the loads of pairs and of single banks (R338). `old` are the copies of one kind. -/
def putCopy (old : Sparse BankCopy) (bank : Nat) (b : BankCopy) : Sparse BankCopy :=
  let pairOf := bank / 2 * 2
  if b.paired then (old.put pairOf (some b)).put (pairOf + 1) (some { b with codes := [], index := [] })
  else
    let old := if (match old.look bank with | some x => x.paired | none => false)
      then (old.del pairOf).del (pairOf + 1) else old
    old.put bank (some b)

/-! ### Storing tiles (R343, R107) -/

/-- A tile's element as a value, by its kind. -/
def tileVal (int : Bool) (x : Word) : Val :=
  if int then .ofQ (.ofInt x.toInt) else decodeVal binary32 false x.toNat

/-- The code an element is written as. -/
def storeCode (r : Dword) (clip : Bool) (factor v : Val) (word : Nat) : Nat :=
  let x := v.mul factor
  encodeVal r (if clip then clampVal r 3 x else x) word

/-- m of R107: none when a NaN or an infinity is among the values. -/
def amaxOf (vs : List Val) : Option Val :=
  if vs.any fun v => v.isNan || v.isInf then none
  else some (vs.foldl (fun m v => m.max v.abs) (.zero false))

/-- An entry after an `mst.amax` (R107). -/
def amaxEntry (e : Nat) (m : Option Val) : Nat :=
  match m with
  | none => setEntry e 440 1 1
  | some v =>
    let old := decodeVal binary32 false (entryBits e 384 32)
    let code := encodeVal binary32Up v 0
    let new := decodeVal binary32 false code
    if !old.isNan && old.below new then setEntry e 384 32 code else e

/-- The word an element draws under a stochastic record: words 4 by 4 of the calls of R343 and R339. -/
def opWord (id : Dword) (wg x2 x3 j : Nat) (key : BitVec 128) : Nat :=
  ((fount [id.truncate 32, BitVec.ofNat 32 wg, BitVec.ofNat 32 x2, BitVec.ofNat 32 (x3 + j / 4)]
    (wordsOfNat 4 key.toNat)).getD (j % 4) 0).toNat

end Sys2Proof.Machine
end

