-- ==== Sys2Proof/Machine/Matrix.lean ====
section
/-! DEFINITION. The matrix engine: its instructions, convergence rounds, the operation queue and its steps (file 15;
file 07, R188 to R191). -/

namespace Sys2Proof.Machine

/-! ### Faults (R349) -/

/-- The record of a matrix fault (type 0x42). -/
def State.noteMatrix (s : State) (g : WorkGroup) (w : Warp) (number : Word) (cause : Nat) (executed : Bool) : State :=
  s.varveWarp g w 0x42 (field 48 32 number.toNat + field 80 4 cause + bit executed (84 - 48))

/-- The lanes a matrix fault names: those that execute, or the split's where none does. -/
def Ctx.matrixLanes (c : Ctx) (i : Instr) : Lanes := if c.execs i = 0 then c.sp.lanes else c.execs i

/-- A matrix-operand fault found at issue. -/
def Ctx.matrixFault (c : Ctx) (i : Instr) (cause unit : Nat) : Res :=
  { c with s := c.s.noteMatrix c.g c.w c.g.queueNo cause false }.fault 7 cause (c.matrixLanes i) unit

/-- What comes before every matrix instruction: a fault or an uncorrectable error found at execution that the warp has
not taken (R349, R67), then the declaration of matrix use (R45). -/
def Ctx.matrix (c : Ctx) (i : Instr) (go : Res) : Res :=
  match c.w.matFaults with
  | t :: rest =>
    { c with s := c.s.modWarp c.uid c.wi fun w => { w with matFaults := rest } }.takes
      { c.mkTrap t.kind t.cause (c.matrixLanes i) (if trapClass t.kind = 1 then some c.sp.pc else none) with
        unit := t.unit }
  | [] => if !c.g.desc.matrix then c.matrixFault i 0 0 else go

/-- R45: a tile past the work-group's extension tiles. -/
def Ctx.badTile (c : Ctx) (z : Nat) : Bool := 32 ≤ z && c.g.desc.extGran ≤ z - 32

/-- A scratchpad range and the alignment of its parts (R9, R94, R299): the access fault's cause. -/
def Ctx.badScratch (c : Ctx) (end_ : Nat) (aligned : List Nat) : Option Nat :=
  if c.g.scratchSize < end_ then some 0
  else if aligned.any fun a => a % 4 != 0 then some 2
  else none

/-! ### Queueing (R327 to R331) -/

/-- What an instruction asks of the engine: the scalar values it reads, the records it names, the window register of
`mldt`, the claims, and whether firmware performs it (R331). -/
structure Asked where
  scalars : List Nat
  records : List Dword
  window : Option Window
  claims : List Claim
  /-- the delayed-scaling entry of `mst`, and whether it is updated -/
  entry : Option (Nat × Bool)
  emulated : Bool
  deriving DecidableEq, Repr

/-- The word apart from its guard (R189). -/
def bareWord (i : Instr) : Dword := (encode i).headD 0 &&& ~~~(0x3F#64 <<< 50)

/-- Tile and bank of a word (Table 9.10), for records. -/
def wordTile (x : Dword) : Nat := (x.extractLsb' 44 6).toNat
def wordBank (x : Dword) : Nat := (x.extractLsb' 34 2).toNat

/-- The line of an entry, translated for its operation: a read, and a write for `amax` (R22, R107). A page that maps the host
window, where no home slice stands, is no fault here: the entry is read and updated as one in HBM is (log 137). -/
def State.entryLine (s : State) (core ctx : Nat) (priv : Bool) (va : Nat) (amax : Bool) : Except Miss Nat × State :=
  match s.translate core ctx va .engineRead priv with
  | (.error m, s) => (.error m, s)
  | (.ok p, s) =>
    if amax then
      match s.translate core ctx va .engineWrite priv with
      | (.error m, s) => (.error m, s)
      | (.ok p, s) => (.ok (p.pa / 128), s)
    else (.ok (p.pa / 128), s)

/-- The claims of what an instruction asks (R329); an entry that does not translate now is claimed later. -/
def Ctx.claimsOf (c : Ctx) (a : Asked) : List Claim × State :=
  match a.entry with
  | none => (a.claims, c.s)
  | some (va, amax) =>
    match c.s.entryLine c.g.core c.g.ctx c.privileged va amax with
    | (.ok line, s) => (a.claims ++ [⟨.line line, 1⟩], s)
    | (.error _, s) => (a.claims, s)

/-- Goes on with the claims of what is asked, once the slices have room for them (R55). -/
def Ctx.withClaims (c : Ctx) (a : Asked) (go : List Claim → State → Res) : Res :=
  match c.s.ownersFull (c.claimsOf a).1 with
  | some die => c.blockOwner die
  | none => go (c.claimsOf a).1 (c.claimsOf a).2

/-- Queues an operation: its number, its engine job with the claims, its record (type 0x40). -/
def Ctx.queueOp (c : Ctx) (s : State) (i : Instr) (a : Asked) (claims : List Claim) (elems : List (Nat × Nat × Nat))
    (tokens : List (Nat × Word)) (key : BitVec 128) : State :=
  let number := c.g.queueNo
  let x := bareWord i
  let (job, s) := c.addJob s (.matrix number tokens) claims none
  let op : MatOp :=
    { number := number, instr := i, warp := c.wi, scalars := a.scalars, elems := elems, slots := c.slots,
      window := a.window, tokens := tokens, key := key, job := job, executed := false }
  let s := s.modWg c.uid fun g => { g with ops := g.ops ++ [op], queueNo := g.queueNo + 1 }
  s.varveWarp c.g c.w 0x40 (field 48 32 number.toNat + field 80 8 (x.extractLsb' 56 8).toNat +
    field 88 6 (wordTile x) + field 94 2 (wordBank x))

/-- The token of the instruction that issues now. -/
def Ctx.token (c : Ctx) : Word := c.w.tokens + 1

/-- The end of an instruction that has a token: it counts, and the region closes (R328, R330). -/
def Ctx.counted (c : Ctx) (i : Instr) (s : State) : Res :=
  c.doneRegion i s { c.w with tokens := c.token, badTokens := c.w.badTokens.del c.token.toNat }

/-! ### Convergence rounds (R188, R189) -/

/-- An unset register. -/
def ConvReg.unset : ConvReg := ⟨0, [], [], [], none, none⟩

def WorkGroup.convReg (g : WorkGroup) (k : Nat) : ConvReg := (g.conv.look k).getD .unset

def WorkGroup.setConv (g : WorkGroup) (k : Nat) (r : ConvReg) : WorkGroup := { g with conv := g.conv.put k (some r) }

/-- The tokens of a round that no operation will come from. -/
def State.spoil (s : State) (u cause : Nat) (tokens : List (Nat × Word)) : State :=
  tokens.foldl (fun s t => s.modWarp u t.1 fun w => { w with badTokens := w.badTokens.put t.2.toNat (some cause) }) s

/-- Abandons the round of a register with a cause. -/
def Ctx.abandons (c : Ctx) (k cause : Nat) (r : ConvReg) (lanes : Lanes) : Res :=
  let s := c.s.spoil c.uid cause r.tokens
  let s := s.modWg c.uid fun g => g.setConv k { ConvReg.unset with n := r.n, abandoned := some cause }
  let s := s.noteMatrix c.g c.w c.g.queueNo cause false
  { c with s := s }.takes { c.mkTrap 7 cause lanes (some c.sp.pc) with unit := k }

/-- The key of the lowest warp of a round. -/
def lowestKey (keys : List (Nat × BitVec 128)) : BitVec 128 :=
  ((keys.foldl (fun (b : Option (Nat × BitVec 128)) p =>
    match b with
    | none => some p
    | some q => if p.1 < q.1 then some p else b) none).map (·.2)).getD 0

/-- Signs a register: the lanes' threads, with the operation they name. The last signature queues it. A signature that names
another operation is a mismatch, also where its lanes have signed the round before (R189, Table 17.7). -/
def Ctx.signs (c : Ctx) (i : Instr) (k : Nat) (lanes : Lanes) (a : Asked) : Res :=
  let r := c.g.convReg k
  let threads := (lanesOf lanes).map fun l => (l, c.wi * c.width + l)
  let again := threads.filter fun t => r.signed.contains t.2
  let sig := (bareWord i, a.scalars, a.records)
  if r.n = 0 then c.matrixFault i 13 k
  else
    match r.abandoned with
    | some cause => c.matrixFault i cause k
    | none =>
      if r.first.any (· != sig) then c.abandons k 2 r (c.execs i)
      else if !again.isEmpty then c.abandons k 3 r (maskOf (again.map (·.1)))
      else
        let r' : ConvReg := { r with signed := r.signed ++ threads.map (·.2), tokens := r.tokens ++ [(c.wi, c.token)],
                                     keys := r.keys ++ [(c.wi, c.w.key)], first := some (r.first.getD sig) }
        if r.n ≤ r'.signed.length then
          if a.emulated && c.emul.isNone then c.emulate i
          else
            c.withClaims a fun claims s =>
              let s := c.queueOp s i a claims [] r'.tokens (lowestKey r'.keys)
              c.counted i (s.modWg c.uid fun g => g.setConv k { ConvReg.unset with n := r.n })
        else
          match c.counted i (c.s.modWg c.uid fun g => g.setConv k r') with
          | .next s => .next (s.convTest c.uid)
          | x => x

/-- An instruction of Table 15.2 with a token: it signs or queues, once for its split (R327). Helper lanes alone do
neither (R177); earlier accesses of the warp come first (R139, R329). -/
def Ctx.orders (c : Ctx) (i : Instr) (f : FmtX) (a : Asked) : Res :=
  if !c.quiet then c.block
  else if f.useK then c.signs i f.k.toNat (c.execs i &&& ~~~c.w.helpers) a
  else if a.emulated && c.emul.isNone then c.emulate i
  else c.withClaims a fun claims s => c.counted i (c.queueOp s i a claims [] [(c.wi, c.token)] c.w.key)

/-- The common start: with no thread that executes, only the token counts. -/
def Ctx.matrixOp (c : Ctx) (i : Instr) (go : Res) : Res :=
  c.matrix i (if c.execs i &&& ~~~c.w.helpers = 0 then c.counted i c.s else go)

/-- The value of the scalar register a field names, or of the pair from it. -/
def Ctx.scalar (c : Ctx) (f : BitVec 8) : Nat := (c.w.rd f 0).toNat

/-! ### Instructions that queue operations -/

/-- Both loads from scratchpad (R338). The extent that is checked takes bw bits for each element: q of an integer record. -/
def Ctx.bankLoad (c : Ctx) (i : Instr) (f : FmtX) : Res :=
  c.matrixOp i (
    let r := c.record f.f.toNat
    let q := planesOf r f.planes.toNat
    let base := c.scalar f.base
    let stride := c.scalar (xReg f 11)
    let cols := if 9 ≤ q then 64 else 128
    let dense := base + 255 * stride + (cols * q + 7) / 8
    let end_ := if f.sparse then max dense (base + 256 * stride + 256 * (6 * cols / 8)) else dense
    if f.planes ≠ 0 ∧ (!Rec.isInt r ∨ Rec.w r < f.planes.toNat) then c.matrixFault i 4 0
    else if 9 ≤ q ∧ f.bank.toNat % 2 = 1 then c.matrixFault i 6 0
    else
      match c.badScratch end_ [base, stride] with
      | some cause => c.access cause (c.execs i) base
      | none => c.orders i f ⟨[base, stride], [r], none, [], none, 16 < q⟩)

/-- mldb: the active copy. -/
def execMldb (f : FmtX) (s : State) : Res := issue (.mldb f) s fun c => c.bankLoad (.mldb f) f

/-- mldbs: the shadow copy. -/
def execMldbs (f : FmtX) (s : State) : Res := issue (.mldbs f) s fun c => c.bankLoad (.mldbs f) f

/-- The window register of `mldt`: Table 9.10 names it in [18:16]. -/
def mldtWindow (f : FmtX) : Nat := (f.low.extractLsb' 16 3).toNat

/-- mldt: 32,768 trellis weights (R339). -/
def execMldt (f : FmtX) (s : State) : Res :=
  issue (.mldt f) s fun c =>
    c.matrixOp (.mldt f) (
      let r := c.record f.f.toNat
      if 8 < Rec.w r then c.matrixFault (.mldt f) 6 0
      else
        c.windowOf (.mldt f) (mldtWindow f) false fun x =>
          let named := (if x.computed then [] else [c.record x.valSlot]) ++ [c.record x.scaleSlot]
          c.orders (.mldt f) f ⟨[c.scalar (xReg f 8)], r :: named, some x, [], none, false⟩)

/-- The product a word names. -/
def mulOf (f : FmtX) (sparse : Bool) (record : Dword) (base : Nat) : Mul :=
  { record := record, planes := f.planes.toNat, nested := f.low.getLsbD 18, scaled := f.low.getLsbD 17,
    nonzeros := if sparse then some (8 * ((f.low.extractLsb' 14 3).toNat + 1)) else none,
    acc := f.acc.toNat, base := base }

/-- Bytes of A from its base up (R332). -/
def Mul.bytesA (m : Mul) : Nat :=
  let k := depthOf m.nonzeros
  if m.nested then 4 * k * planesOf m.record m.planes else 4 * k * Rec.w m.record

/-- sw of A (R331). -/
def serialOf (r : Dword) (planes : Nat) : Nat := if Rec.isInt r then planesOf r planes else Rec.m r + 4

/-- A bank copy of which only the kind is known. -/
def stubCopy (r : Dword) (q : Nat) (sparse : Bool) : BankCopy :=
  ⟨true, r, 9 ≤ q, sparse, q, [], [], []⟩

/-- `msig` (R340). -/
def WorkGroup.swapCopies (g : WorkGroup) (bank : Nat) : WorkGroup :=
  { g with banks := g.banks.put bank (g.shadows.look bank), shadows := g.shadows.put bank (g.banks.look bank) }

/-- Whether either copy of a bank is paired. -/
def WorkGroup.pairedBank (g : WorkGroup) (bank : Nat) : Bool :=
  [g.banks.look bank, g.shadows.look bank].any fun x => match x with
    | some b => b.paired
    | none => false

/-- `msig` at work: with a pair, both banks (R340). -/
def WorkGroup.exchange (g : WorkGroup) (bank : Nat) : WorkGroup :=
  if g.pairedBank bank then (g.swapCopies bank).swapCopies (bank ^^^ 1) else g.swapCopies bank

/-- The kinds of the bank copies once a queued operation has executed. -/
def WorkGroup.foresee (g : WorkGroup) (op : MatOp) : WorkGroup :=
  let r (f : FmtX) : Dword := op.slots.getD f.f.toNat 0
  let copy (f : FmtX) : BankCopy := stubCopy (r f) (planesOf (r f) f.planes.toNat) f.sparse
  if op.executed then g
  else
    match op.instr with
    | .mldb f => { g with banks := putCopy g.banks f.bank.toNat (copy f) }
    | .mldbs f => { g with shadows := putCopy g.shadows f.bank.toNat (copy f) }
    | .mldt f => { g with banks := putCopy g.banks f.bank.toNat (stubCopy (r f) (Rec.w (r f)) false) }
    | .msig f => g.exchange f.bank.toNat
    | _ => g

/-- bw of the copy that a product queued now will read: 0 with none (R331). -/
def WorkGroup.widthAhead (g : WorkGroup) (bank : Nat) : Nat :=
  (((g.ops.foldl WorkGroup.foresee g).banks.look bank).map (·.width)).getD 0

/-- Both products (R341): firmware performs one whose serial width, or whose bank's width, is above 16 (R331; log 138). -/
def Ctx.multiply (c : Ctx) (i : Instr) (f : FmtX) (sparse : Bool) : Res :=
  c.matrixOp i (
    let r := c.record f.f.toNat
    let base := c.scalar f.base
    let m := mulOf f sparse r base
    let p := f.planes.toNat
    if c.badTile f.z.toNat then c.matrixFault i 1 f.z.toNat
    else if p ≠ 0 ∧ (!Rec.isInt r ∨ Rec.w r < p ∨ 16 < p) then c.matrixFault i 4 0
    else if m.nested ∧ (!Rec.isInt r ∨ 8 < Rec.w r) then c.matrixFault i 5 0
    else if m.scaled ∧ Rec.isInt r then c.matrixFault i 7 0
    else
      match c.badScratch (base + m.bytesA) [base] with
      | some cause => c.access cause (c.execs i) base
      | none => c.orders i f
          ⟨[base], [r], none, [], none, 16 < serialOf r p || 16 < c.g.widthAhead f.bank.toNat⟩)

/-- mma: a dense product. -/
def execMma (f : FmtX) (s : State) : Res := issue (.mma f) s fun c => c.multiply (.mma f) f false

/-- mmas: a sparse product. -/
def execMmas (f : FmtX) (s : State) : Res := issue (.mmas f) s fun c => c.multiply (.mmas f) f true

/-- An operation that reads nothing at issue. -/
def plainAsk : Asked := ⟨[], [], none, [], none, false⟩

/-- msig (R340). -/
def execMsig (f : FmtX) (s : State) : Res :=
  issue (.msig f) s fun c => c.matrixOp (.msig f) (c.orders (.msig f) f plainAsk)

/-- mzero (R342). -/
def execMzero (f : FmtX) (s : State) : Res :=
  issue (.mzero f) s fun c =>
    c.matrixOp (.mzero f) (
      if c.badTile f.z.toNat then c.matrixFault (.mzero f) 1 f.z.toNat else c.orders (.mzero f) f plainAsk)

/-- Scale operand of `mst`: [10:9], and its argument [8:2]. -/
def mstScale (f : FmtX) : Nat := (f.low.extractLsb' 9 2).toNat
def mstArg (f : FmtX) : BitVec 7 := f.low.extractLsb' 2 7
def mstAmax (f : FmtX) : Bool := f.low.getLsbD 1
def mstClip (f : FmtX) : Bool := f.low.getLsbD 0

/-- Whether `mst` names a delayed-scaling entry. -/
def mstEntry (f : FmtX) : Bool := mstAmax f || mstScale f == 3

/-- mst (R343): its rows and entry are claimed when it is queued; an entry that does not translate then is claimed
once it does (R140). -/
def execMst (f : FmtX) (s : State) : Res :=
  issue (.mst f) s fun c =>
    let i : Instr := .mst f
    c.matrixOp i (
      let r := c.record f.f.toNat
      let base := c.scalar f.base
      let va := c.w.rd64 (xReg f 11) 0
      if c.badTile f.z.toNat then c.matrixFault i 1 f.z.toNat
      else
        match c.badScratch (base + 512 * Rec.w r) [] with
        | some cause => c.access cause (c.execs i) base
        | none =>
          if mstEntry f ∧ va % 64 ≠ 0 then c.access 2 (c.execs i) va
          else if mstEntry f ∧ 2 ^ 57 < va + 64 then c.access 3 (c.execs i) va
          else
            c.orders i f
              { scalars := if mstEntry f then [base, va] else [base], records := [r], window := none,
                claims := [blockClaim c.uid base (512 * Rec.w r)],
                entry := if mstEntry f then some (va, mstAmax f) else none, emulated := 32 < Rec.w r })

/-- mscl (R346): codes from scratchpad, at most 256. -/
def execMscl (f : FmtX) (s : State) : Res :=
  issue (.mscl f) s fun c =>
    c.matrixOp (.mscl f) (
      let base := c.scalar f.base
      match c.badScratch (base + (f.low.extractLsb' 11 8).toNat + 1) [] with
      | some cause => c.access cause (c.execs (.mscl f)) base
      | none => c.orders (.mscl f) f { plainAsk with scalars := [base] })

/-- The element an index of `mrd` and `mwr` selects: the tile's, or the scaling table's from 4,096 on (R344). -/
def goodIndex (z x : Nat) : Bool := x < 4096 || (x < 4224 && z == 0)

/-- The lanes whose index selects nothing. -/
def Ctx.badIndex (c : Ctx) (i : Instr) (f : FmtX) (units : List Nat) : Lanes :=
  maskOf (units.filter fun l => (c.execs i).getLsbD l && !c.helper l &&
    !goodIndex f.z.toNat (c.w.rd (xReg f 3) l).toNat)

/-- mrd (R344): D is empty until the operation has executed; earlier stores of the warp come first (R139, R329). -/
def execMrd (f : FmtX) (s : State) : Res :=
  issue (.mrd f) s fun c =>
    c.matrix (.mrd f) (
      let d := xReg f 11
      let units := unitsOf d (c.execs (.mrd f))
      if c.execs (.mrd f) = 0 then c.skip (.mrd f)
      else if c.badTile f.z.toNat then c.matrixFault (.mrd f) 1 f.z.toNat
      else
        let bad := c.badIndex (.mrd f) f units
        if bad ≠ 0 then
          { c with s := c.s.noteMatrix c.g c.w c.g.queueNo 8 false }.fault 7 8 bad f.z.toNat
        else if !c.quiet then c.block
        else
          let elems := units.map fun l => (keyOf d l, (c.w.rd (xReg f 3) l).toNat, 0)
          let s := c.queueOp c.s (.mrd f) plainAsk [] elems [] c.w.key
          c.done (.mrd f) s (c.produce c.w (destKeys d 1 units) (.queued c.g.queueNo) c.s.order))

/-- mwr (R344): in ascending lane order, so that the highest lane's value stays. -/
def execMwr (f : FmtX) (s : State) : Res :=
  issue (.mwr f) s fun c =>
    c.matrix (.mwr f) (
      let lanes := lanesOf (c.execs (.mwr f) &&& ~~~c.w.helpers)
      if lanes.isEmpty then c.skip (.mwr f)
      else if c.badTile f.z.toNat then c.matrixFault (.mwr f) 1 f.z.toNat
      else
        let bad := c.badIndex (.mwr f) f lanes
        if bad ≠ 0 then
          { c with s := c.s.noteMatrix c.g c.w c.g.queueNo 8 false }.fault 7 8 bad f.z.toNat
        else if !c.quiet then c.block
        else
          let elems := lanes.map fun l => (0, (c.w.rd (xReg f 3) l).toNat, (c.w.rd (xReg f 11) l).toNat)
          c.done (.mwr f) (c.queueOp c.s (.mwr f) plainAsk [] elems [] c.w.key) c.w)

/-! ### mkset, mwait, mstat -/

/-- mkset (R345): the count, and a fresh round; the partly signed one is abandoned. -/
def execMkset (f : FmtX) (s : State) : Res :=
  issue (.mkset f) s fun c =>
    c.matrix (.mkset f) (
      let k := f.k.toNat
      let n := (f.low.extractLsb' 7 12).toNat
      let s := c.s.spoil c.uid 9 (c.g.convReg k).tokens
      let s := s.modWg c.uid fun g => g.setConv k { ConvReg.unset with n := n }
      match s.warp? c.uid c.wi with
      | none => .next s
      | some w =>
        match c.doneRegion (.mkset f) s w with
        | .next s => .next (if n = 0 ∨ c.g.threads.length < n then s.convDeadlock c.uid k else s.convTest c.uid)
        | x => x)

/-- Whether a queue number comes before another. -/
def numberBefore (a b : Word) : Bool := a != b && (b - a).toNat < 2 ^ 31

/-- Whether a job is a matrix operation of a work-group, and its number and tokens. -/
def Job.matrixOf (j : Job) (u : Nat) (p : Word → List (Nat × Word) → Bool) : Bool :=
  j.wg == u &&
    match j.kind with
    | .matrix n ts => p n ts
    | _ => false

/-- The queue number an `mwait all` or `mstat` waits below: that of its issue. -/
def Ctx.waitNumber (c : Ctx) : Word :=
  match c.sp.wait with
  | some (.mwait n) => n
  | _ => c.g.queueNo

/-- Whether an operation queued before a number has not completed. -/
def WorkGroup.opsBefore (g : WorkGroup) (n : Word) : Bool := g.ops.any fun o => numberBefore o.number n

/-- `mwait all` (R347). -/
def Ctx.mwaitAll (c : Ctx) (i : Instr) : Res :=
  let n := c.waitNumber
  match c.s.failedJob fun _ j => j.matrixOf c.uid fun m _ => numberBefore m n with
  | some (job, t) => c.receive i job t
  | none =>
    if c.g.opsBefore n then c.waitFor (.mwait n)
    else if c.g.fifoA.isEmpty && c.g.fifoB.isEmpty then c.skip i
    else
      let s := c.s.modWg c.uid fun g => { g with fifoA := [], fifoB := [] }
      { c with s := s }.fault 8 0 (c.matrixLanes i)

/-- `mwait` on a token (R347, R189, R345). -/
def Ctx.mwaitToken (c : Ctx) (i : Instr) (t : Word) : Res :=
  if t = 0 ∨ 2 ^ 31 ≤ (c.w.tokens - t).toNat then c.fault 9 0 (c.matrixLanes i)
  else
    match c.w.badTokens.look t.toNat with
    | some cause => c.fault 7 cause (c.matrixLanes i)
    | none =>
      match c.s.failedJob fun _ j => j.matrixOf c.uid fun _ ts => ts.contains (c.wi, t) with
      | some (job, x) => c.receive i job x
      | none =>
        if c.g.ops.any (fun o => o.tokens.contains (c.wi, t)) ||
            c.g.conv.any (fun r => r.2.tokens.contains (c.wi, t)) then c.waitFor (.mtoken t)
        else c.skip i

/-- mwait (R347). -/
def execMwait (f : FmtX) (s : State) : Res :=
  issue (.mwait f) s fun c =>
    c.matrix (.mwait f) (
      if c.execs (.mwait f) = 0 then c.skip (.mwait f)
      else if f.low.getLsbD 10 then c.mwaitAll (.mwait f)
      else c.mwaitToken (.mwait f) (c.w.rd (xReg f 11) 0))

/-- The flags of 32 tiles from z up, as a word. -/
def WorkGroup.flagWord (g : WorkGroup) (z : Nat) : Nat :=
  ((List.range 32).map fun n => if g.tileFlag (z + n) then 2 ^ n else 0).sum

/-- mstat (R348): items 1 to 3 wait as `mwait all` does. -/
def execMstat (f : FmtX) (s : State) : Res :=
  issue (.mstat f) s fun c =>
    c.matrix (.mstat f) (
      let item := (f.low.extractLsb' 7 4).toNat
      let n := c.waitNumber
      if item ≠ 0 ∧ c.execs (.mstat f) ≠ 0 ∧ c.g.opsBefore n then c.waitFor (.mwait n)
      else
        c.write (.mstat f) (xReg f 11) 1 fun _ =>
          match item with
          | 0 => c.w.tokens.toNat
          | 1 => c.g.flagWord 0
          | 2 => c.g.flagWord 32
          | _ => c.g.fifoA.length % 65536 + c.g.fifoB.length % 65536 * 65536)

/-! ### Operations at work (R191, R327) -/

/-- How an operation ends. -/
inductive Ended where
  | done (s : State)
  /-- the operation stops at a memory access, as an engine job does -/
  | stopped (x : Stop) (s : State)
  /-- a fault of Table 15.6: kind and cause -/
  | faulty (kind cause : Nat)
  /-- an uncorrectable word: 0 of the scratchpad, 3 of a bank or tile, its place and structure (R67) -/
  | damaged (cause place : Nat) (cell : Cell)
  /-- a claim was recorded late, or waits: the job goes on later -/
  | claimed (s : State)
  deriving DecidableEq, Repr

/-- A damaged word of a copy that a product with some logical depth reads: of a row that it uses, or of its indices (R67;
log 139). -/
def BankCopy.badFor (b : BankCopy) (n : Option Nat) : Option Nat :=
  let rows := match n with
    | none => 256
    | some n => n * (256 / n)
  b.damaged.find? fun k => k % 4096 / 16 < rows && (k < 4096 || n.isSome)

/-- A product at work: the checks of R341 in order, the codes it pops, its tile. -/
def State.runMul (s : State) (u : Nat) (g : WorkGroup) (f : FmtX) (op : MatOp) (sparse : Bool) : Ended :=
  let m := mulOf f sparse (op.slots.getD f.f.toNat 0) (op.scalars.headD 0)
  let bank := f.bank.toNat
  let k := depthOf m.nonzeros
  let z := f.z.toNat
  match g.banks.look bank with
  | none => .faulty 7 10
  | some b =>
    let needA := if m.scaled then k else 0
    let needB := if m.scaled then b.cols * (k / 32) else 0
    if !b.valid then .faulty 7 10
    else if b.record ≠ m.record then .faulty 7 11
    else if b.paired ∧ bank % 2 = 1 then .faulty 7 6
    else if b.sparse ≠ sparse then .faulty 7 12
    else if (match m.nonzeros with | some n => !b.ascends n | none => false) then .faulty 7 12
    else if g.fifoA.length < needA ∨ g.fifoB.length < needB then .faulty 8 0
    else if g.badRange m.base m.bytesA then .damaged 0 m.base .scratchpad
    else if (b.badFor m.nonzeros).isSome then .damaged 3 (8192 * bank + (b.badFor m.nonzeros).getD 0) .banks
    else if m.acc ≠ 0 ∧ g.badTile z (fun e => e % 128 < b.cols) then .damaged 3 (4096 * z) .tiles
    else
      let (words, flag) := s.product u g z m b
      .done (s.modWg u fun g =>
        { ((g.setTile z words).setFlags z flag (Rec.isInt m.record)).soundTile z (fun e => e % 128 < b.cols) with
          fifoA := g.fifoA.drop needA, fifoB := g.fifoB.drop needB })

/-- Whether a word that a bank load reads is uncorrectable: rows of elements, and of indices of 6 bits (R333, R338). -/
def WorkGroup.badRows (g : WorkGroup) (base stride : Nat) (r : Dword) (q : Nat) (sparse : Bool) : Bool :=
  let cols := if 9 ≤ q then 64 else 128
  (List.range 256).any fun k => g.badRange (base + k * stride) ((cols * Rec.w r + 7) / 8) ||
    (sparse && g.badRange (base + 256 * stride + k * (6 * cols) / 8) ((6 * cols + 7) / 8))

/-- A load from scratchpad at work. -/
def State.runLoad (s : State) (u : Nat) (g : WorkGroup) (f : FmtX) (op : MatOp) (shadow : Bool) : Ended :=
  let r := op.slots.getD f.f.toNat 0
  let b := s.readBank u g.scratchSize (op.scalars.getD 0 0) (op.scalars.getD 1 0) r (planesOf r f.planes.toNat) f.sparse
  if g.badRows (op.scalars.getD 0 0) (op.scalars.getD 1 0) r (planesOf r f.planes.toNat) f.sparse then
    .damaged 0 (op.scalars.getD 0 0) .scratchpad
  else .done (s.modWg u fun g =>
    if shadow then { g with shadows := putCopy g.shadows f.bank.toNat b }
    else { g with banks := putCopy g.banks f.bank.toNat b })

/-- The code of weight e of a trellis load, from the value of the weight (R339). -/
def State.loadCode (s : State) (g : WorkGroup) (op : MatOp) (r : Dword) (e : Nat) (v : Val) : Nat :=
  encodeVal r v (opWord (s.launchId g) g.id (0xC0000000 + e / 256) (64 * op.number.toNat) (e % 256) op.key)

/-- The codes of groups for a trellis load, group by group, until a read stops; groups by their place in the load. -/
def State.loadGroups (s : State) (u : Nat) (g : WorkGroup) (op : MatOp) (priv : Bool) (x : Window) (r : Dword) :
    (groups : List Nat) → Stop × List Nat × State
  | [] => (.ok, [], s)
  | n :: rest =>
    match s.readGroup g op.job priv x op.slots (op.scalars.headD 0 + n) with
    | (.error e, s) => (e, [], s)
    | (.ok (bits, scale), s) =>
      match ((List.range x.groupSize).flatMap fun i => x.valueAddrs u op.slots (x.window bits i)).find? s.badAddr with
      | some a => (.damaged x.tabOff a, [], s)
      | none =>
        let codes := (List.range x.groupSize).map fun i =>
          s.loadCode g op r (n * x.groupSize + i) (s.weight u x op.slots bits i scale)
        let (e, more, s) := s.loadGroups u g op priv x r rest
        (e, codes ++ more, s)

/-- The codes that the job of a trellis load has decoded, in order. -/
def Job.decoded (j : Job) : List Nat := j.buf.map (·.2.1.toNat)

/-- The job of a trellis load keeps more codes, each of at most 8 bits. -/
def Job.keeps (j : Job) (codes : List Nat) : Job :=
  { j with buf := j.buf ++ codes.map fun c => (.scratch j.wg 0, BitVec.ofNat 8 c, 0xFF) }

/-- The groups of a trellis load that its job has not decoded (R33). -/
def Job.groupsLeft (j : Job) (x : Window) : List Nat :=
  (List.range (32768 / x.groupSize)).drop (j.buf.length / x.groupSize)

/-- A trellis load at work (R339); a request that parks is where it goes on (R33). -/
def State.runTrellis (s : State) (u : Nat) (g : WorkGroup) (f : FmtX) (op : MatOp) (priv : Bool) : Ended :=
  match op.window, s.jobs.look op.job with
  | some x, some j =>
    let r := op.slots.getD f.f.toNat 0
    match s.loadGroups u g op priv x r (j.groupsLeft x) with
    | (.ok, more, s) =>
      let codes := (j.decoded ++ more).zipIdx.map fun p => (128 * (p.2 % 256) + p.2 / 256, p.1)
      let b : BankCopy :=
        { valid := true, record := r, paired := false, sparse := false, width := Rec.w r,
          codes := (List.range 128).foldl (fun m n =>
            Sparse.setMany 0 m (codes.filter fun p => p.1 % 128 == n)) [], index := [], damaged := [] }
      .done (s.modWg u fun g => { g with banks := putCopy g.banks f.bank.toNat b })
    | (e, more, s) => .stopped e (s.modJob op.job fun j => j.keeps more)
  | _, _ => .faulty 7 10

/-- The rows `mst` writes, as one number of 512 w bytes. -/
def WorkGroup.storeRows (g : WorkGroup) (f : FmtX) (op : MatOp) (r : Dword) (factor : Val) (id : Dword) : Nat :=
  let z := f.z.toNat
  let codes := (List.range 4096).map fun e =>
    let i := e / 128
    let j := e % 128
    storeCode r (mstClip f) factor (tileVal (g.tileInt z) (g.tileWord z e))
      (opWord id g.id (0x80000000 + i) (32 * op.number.toNat) j op.key)
  packElems (Rec.w r) codes

/-- The bytes of an entry as an engine of a launch reads them, as one number (R107, R145). -/
def State.entryBytes (s : State) (launch pa : Nat) : Nat :=
  natOfBytes ((List.range 64).map fun i => s.engineByte launch (.phys (pa + i)))

/-- A tile store at work (R343): the entry's scale is read before its update. -/
def State.runStore (s : State) (u : Nat) (g : WorkGroup) (f : FmtX) (op : MatOp) (entry : Option Nat) : Ended :=
  let r := op.slots.getD f.f.toNat 0
  let z := f.z.toNat
  let base := op.scalars.headD 0
  let va := op.scalars.getD 1 0
  let e := (entry.map (s.entryBytes g.launch)).getD 0
  let s := s.touchLines 0 (entry.toList.map .phys)
  let factor : Val := match mstScale f with
    | 0 => .fin (.ofInt 1)
    | 1 => .ofQ (.dyadic 1 (mstArg f).toInt)
    | 2 => decodeVal binary32 false (Sparse.get (0 : Word) g.scaleTab (mstArg f).toNat).toNat
    | _ => .ofQ (.dyadic 1 (BitVec.ofNat 8 (entryBits e 424 8)).toInt)
  let rows := bytesOfNat (512 * Rec.w r) (g.storeRows f op r factor (s.launchId g))
  let as := (List.range (512 * Rec.w r)).map fun i => Addr.scratch u (base + i)
  let written := s.writeBytes (plainBytes as rows)
  if g.badTile z (fun _ => true) then .damaged 3 (4096 * z) .tiles
  else if (s.merges (plainBytes as rows)).isSome then .damaged 0 base .scratchpad
  else
    match entry.filter fun pa => s.badAddr (.phys pa) with
    | some pa => .stopped (.damaged va (.phys pa)) s
    | none =>
    match entry, mstAmax f with
    | some pa, true =>
      let vs := (List.range 4096).map fun x => tileVal (g.tileInt z) (g.tileWord z x)
      .done (written.writeBytes (valueBytes (.phys pa) 64 (amaxEntry e (amaxOf vs))))
    | _, _ => .done written

/-- `mscl` at work (R346): codes pushed in byte order, within the FIFO's capacity. -/
def State.runScale (s : State) (u : Nat) (g : WorkGroup) (f : FmtX) (op : MatOp) : Ended :=
  let n := (f.low.extractLsb' 11 8).toNat + 1
  let codes := (bytesOfNat n (s.valueAt (.scratch u (op.scalars.headD 0)) n)).map (·.toNat)
  if g.badRange (op.scalars.headD 0) n then .damaged 0 (op.scalars.headD 0) .scratchpad
  else if f.low.getLsbD 10 then
    if 16384 < g.fifoB.length + n then .faulty 8 0
    else .done (s.modWg u fun g => { g with fifoB := g.fifoB ++ codes })
  else if 4096 < g.fifoA.length + n then .faulty 8 0
  else .done (s.modWg u fun g => { g with fifoA := g.fifoA ++ codes })

/-- `mrd` at work: the raw words, which its producer then writes (R344). -/
def State.runRead (s : State) (u : Nat) (g : WorkGroup) (f : FmtX) (op : MatOp) : State :=
  let word (x : Nat) : Word := if x < 4096 then g.tileWord f.z.toNat x
    else if goodIndex f.z.toNat x then Sparse.get (0 : Word) g.scaleTab (x - 4096) else 0
  let values : Work := .values (op.elems.map fun e => (e.1, word e.2.1))
  let fill (p : Producer) : Producer := if p.work = Work.queued op.number then { p with work := values } else p
  s.modWarp u op.warp fun w => { w with producers := w.producers.map fill }

/-- `mwr` at work (R344). -/
def WorkGroup.runWrite (g : WorkGroup) (f : FmtX) (op : MatOp) : WorkGroup :=
  op.elems.foldl (fun g e =>
    let x := BitVec.ofNat 32 e.2.2
    if e.2.1 < 4096 then
      { g with tiles := g.tiles.set (0 : Word) (4096 * f.z.toNat + e.2.1) x }.soundTile f.z.toNat (· == e.2.1)
    else { g with scaleTab := g.scaleTab.set (0 : Word) (e.2.1 - 4096) x }) g

/-- Performs an operation. -/
def State.runOp (s : State) (u : Nat) (g : WorkGroup) (op : MatOp) (priv : Bool) (entry : Option Nat) : Ended :=
  match op.instr with
  | .mldb f => s.runLoad u g f op false
  | .mldbs f => s.runLoad u g f op true
  | .mldt f => s.runTrellis u g f op priv
  | .mma f => s.runMul u g f op false
  | .mmas f => s.runMul u g f op true
  | .msig f => .done (s.modWg u fun g => g.exchange f.bank.toNat)
  | .mzero f =>
    .done (s.modWg u fun g =>
      ((g.setTile f.z.toNat []).setFlags f.z.toNat false (g.tileInt f.z.toNat)).soundTile f.z.toNat fun _ => true)
  | .mst f => s.runStore u g f op entry
  | .mscl f => s.runScale u g f op
  | .mrd f =>
    if g.badTile f.z.toNat (fun e => op.elems.any fun x => x.2.1 == e) then
      .damaged 3 (4096 * f.z.toNat) .tiles
    else .done (s.runRead u g f op)
  | .mwr f => .done (s.modWg u fun g => g.runWrite f op)
  | _ => .faulty 7 10

/-- The entry address of an operation, its line claimed: a miss parks the job, a late claim is recorded as a job of
its own, or waits for room at its slice, which is counted once (R55, R140, R329). -/
def State.claimEntry (s : State) (u : Nat) (g : WorkGroup) (op : MatOp) (j : Job) : Except Ended (Option Nat) × State :=
  match op.instr with
  | .mst f =>
    if !mstEntry f then (.ok none, s)
    else
      let va := op.scalars.getD 1 0
      match s.entryLine g.core g.ctx j.privileged va (mstAmax f) with
      | (.error m, s) => (.error (.stopped (.ofMiss m (if mstAmax f then .engineWrite else .engineRead)) s), s)
      | (.ok line, s) =>
        let pa := line * 128 + va % 128
        let mine := s.jobs.any fun p =>
          (p.2.matrixOf u fun n _ => n == op.number) && p.2.claims.any (·.has (.line line))
        if inReserve pa then (.error (.stopped (.fails 17 4 va) s), s)
        else if mine then (.ok (some pa), s)
        else if (s.ownersFull [⟨.line line, 1⟩]).isSome then
          let count := if j.hint = 0 then 1 else 0
          (.error (.claimed ((s.modJob op.job fun j => { j with hint := 1 }).modDie (homeDie pa) fun d =>
            { d with ownerWaits := d.ownerWaits + count })), s)
        else
          let (_, s) := s.addJob g.core u op.warp 0 (.matrix op.number op.tokens) [⟨.line line, 1⟩] none j.privileged
          (.error (.claimed s), s)
  | _ => (.ok none, s)

/-- Drops operations from a queue, with their jobs. -/
def State.dropOps (s : State) (u : Nat) (p : MatOp → Bool) : State :=
  match s.wgs.look u with
  | none => s
  | some g =>
    let out := g.ops.filter p
    let s := s.setWg u { g with ops := g.ops.filter fun o => !p o }
    { s with jobs := s.jobs.filter fun x =>
        x.2.failed.isSome || !(x.2.matrixOf u fun n _ => out.any (·.number == n)) }

/-- The warps that queued or signed an operation. -/
def MatOp.warps (o : MatOp) : List Nat := o.warp :: o.tokens.map (·.1)

/-- Operations leave the queue with nothing done: their warps take the trap later, and the registers of their reads keep
their old values (R186, R349). -/
def State.dropAll (s : State) (u : Nat) (gone : List MatOp) (t : Trap) : State :=
  let s := s.dropOps u fun o => gone.any fun x => x.number == o.number
  ((gone.flatMap MatOp.warps).eraseDups).foldl (fun s i => s.modWarp u i fun w =>
    let isLost (p : Producer) : Bool := gone.any fun o => p.work == .queued o.number
    let w := w.markFull ((w.producers.filter isLost).flatMap (·.dests))
    { w with producers := w.producers.filter (fun p => !isLost p), matFaults := w.matFaults ++ [t] }) s

/-- A fault found at execution (R349): the operation and those behind it are discarded. -/
def State.discard (s : State) (u : Nat) (g : WorkGroup) (op : MatOp) (kind cause : Nat) : State :=
  let s := match g.warps[op.warp]? with
    | some w => s.noteMatrix g w op.number cause true
    | none => s
  s.dropAll u (g.ops.filter fun o => !o.executed) (jobTrap kind cause 0 s.time)

/-- An operation that reads an uncorrectable word: it is cancelled, and the error is logged (R67). -/
def State.cancelOp (s : State) (u : Nat) (g : WorkGroup) (op : MatOp) (cause place : Nat) (cell : Cell) : State :=
  let s := match g.warps[op.warp]? with
    | some w => s.noteEcc g w place cause (some cell)
    | none => s
  s.dropAll u [op] (jobTrap 20 cause 0 s.time)

/-- The jobs of an operation may go on. -/
def State.opReady (s : State) (u : Nat) (op : MatOp) : Bool :=
  s.jobs.all fun p => !(p.2.matrixOf u fun n _ => n == op.number) || s.jobReady p.2

/-- MATRIX_OP_EXECUTE: the next operation of the queue executes, parks, fails or faults (R191, R327, R349). -/
def execMatrixOpExecute (wg : Nat) (s : State) : Res :=
  match s.wgs.look wg with
  | none => .fault .notEnabled
  | some g =>
    match g.ops.find? fun o => !o.executed with
    | none => .fault .notEnabled
    | some op =>
      match s.jobs.look op.job with
      | none => .fault .notEnabled
      | some j =>
        if !s.opReady wg op then .fault .notEnabled
        else
          let mark (o : MatOp) : MatOp := if o.number = op.number then { o with executed := true } else o
          let ended := match s.claimEntry wg g op j with
            | (.error e, _) => e
            | (.ok entry, s) => s.runOp wg g op j.privileged entry
          match ended with
          | .done s => .next (s.modWg wg fun g => { g with ops := g.ops.map mark })
          | .stopped (.miss m access) s => .next (s.parkJob op.job m access)
          | .stopped .waits _ => .fault .notEnabled
          | .stopped x s => .next ((s.stopJob op.job x).dropOps wg fun o => o.number == op.number)
          | .faulty kind cause => .next (s.discard wg g op kind cause)
          | .damaged cause place cell => .next (s.cancelOp wg g op cause place cell)
          | .claimed s => .next s

/-- One move of an engine on its own: a copy reads a run or writes a location (R142); a decode, or a trellis load whose turn in
its queue has come, reads a line ahead (R105); the Viterbi engine encodes one group (R360). -/
def State.engineMove (s : State) (job : Nat) (put : Option Nat) : Res :=
  match s.jobs.look job with
  | none => .fault .notEnabled
  | some j =>
    match j.kind, s.wgs.look j.wg with
    | .trdec t next, some g =>
      if put.isSome || j.done || j.parked.isSome then .fault .notEnabled
      else s.readAhead g job j.privileged ⟨t.desc, 0⟩ t.slots (t.groupsLeft next)
    | .trenc t next, some g =>
      if put.isSome || !s.jobReady j || (s.die (g.core / 64)).viterbi.head? != some job || t.count ≤ next + 1 then
        .fault .notEnabled
      else
        match s.encodeOne j.wg g job ⟨t.desc, 0⟩ t next with
        | (.ok, s) => .next (s.modJob job fun j => j.encoded 1)
        | (_, _) => .fault .notEnabled
    | .matrix _ _, some g =>
      match put, g.ops.find? fun o => !o.executed with
      | none, some op =>
        match op.window with
        | some x =>
          if op.job != job || j.done || j.parked.isSome then .fault .notEnabled
          else s.readAhead g job j.privileged x op.slots ((j.groupsLeft x).map (op.scalars.headD 0 + ·))
        | none => .fault .notEnabled
      | _, _ => .fault .notEnabled
    | _, _ => s.engineTurn job put

/-- MATRIX_OP_COMPLETE: the oldest operation that has executed completes; its claims are released (R143, R347). -/
def execMatrixOpComplete (wg : Nat) (s : State) : Res :=
  match s.wgs.look wg with
  | none => .fault .notEnabled
  | some g =>
    match g.ops with
    | op :: _ =>
      if op.executed then
        let s := s.dropOps wg fun o => o.number == op.number
        .next (match g.warps[op.warp]? with
          | some w => s.varveWarp g w 0x41 (field 48 32 op.number.toNat)
          | none => s)
      else .fault .notEnabled
    | [] => .fault .notEnabled

end Sys2Proof.Machine
end

