-- ==== Sys2Proof/Machine/Tape.lean ====
section
/-! DEFINITION. Oxbow tapes: the control block, chunks and records, and the tape instructions (file 04, R110 to R118;
file 16, R362 to R374; file 01, R34). -/

namespace Sys2Proof.Machine

/-! ### Engine accesses (R118, R363) -/

/-- A run of global bytes that is canonical (R13). -/
def canonicalRun (va len : Nat) : Bool := va + len ≤ 2 ^ 57

/-- Whose tape the engine accesses: core, context, launch, privilege, the warp, and the number under which its instruction has
reached claimed lines before (R141). -/
structure Oxbow where
  core : Nat
  ctx : Nat
  launch : Nat
  priv : Bool
  wg : Nat
  warp : Nat
  arrived : Option Nat
  deriving DecidableEq, Repr

namespace Oxbow

/-- The lines of an access where the engine waits: claimed by jobs before it reached them, or locked by a commit (R118, R141,
R168). -/
def waitsAt (o : Oxbow) (s : State) (as : List Addr) : Option (List Loc) :=
  let locs := (linesOf as).map Loc.line
  if s.claimed o.wg o.warp s.order o.arrived locs then some locs else none

/-- Reads bytes. -/
def read (o : Oxbow) (s : State) (va len : Nat) : Except Stop (List Byte × State) :=
  if !canonicalRun va len then .error (.fails 17 3 va)
  else
    match s.engineAddrs o.core o.ctx o.priv .engineRead va len with
    | (.error e, _) => .error e
    | (.ok as, s) =>
      match o.waitsAt s as with
      | some locs => .error (.claimed locs)
      | none =>
        match s.engineRead o.core o.ctx o.launch o.priv va len with
        | (.error e, _) => .error e
        | (.ok bs, s) => .ok (bs, s)

/-- Translates a run for an access (R34). -/
def probe (o : Oxbow) (s : State) (access : Access) (va len : Nat) : Except Stop State :=
  if !canonicalRun va len then .error (.fails 17 3 va)
  else
    match s.engineAddrs o.core o.ctx o.priv access va len with
    | (.error e, _) => .error e
    | (.ok _, s) => .ok s

/-- Writes bytes, once no other job claims their lines, and drops the core's L1 copies of them (R118, R140). -/
def write (o : Oxbow) (s : State) (va : Nat) (bytes : List Byte) : Except Stop State :=
  if !canonicalRun va bytes.length then .error (.fails 17 3 va)
  else
    match s.engineAddrs o.core o.ctx o.priv .engineWrite va bytes.length with
    | (.error e, _) => .error e
    | (.ok as, s) =>
      match o.waitsAt s as, s.engineWrite 0 (plainBytes as bytes) with
      | some locs, _ => .error (.claimed locs)
      | none, .error e => .error e
      | none, .ok s => .ok ((linesOf as).foldl (fun s line => s.dropLine o.core line) s)

/-- A field of a chunk's header (Table 4.6): offset and bytes. -/
def header (o : Oxbow) (s : State) (chunk off n : Nat) : Except Stop (Nat × State) :=
  match o.read s (chunk + off) n with
  | .error e => .error e
  | .ok (bs, s) => .ok (natOfBytes bs, s)

def setHeader (o : Oxbow) (s : State) (chunk off n x : Nat) : Except Stop State :=
  o.write s (chunk + off) (bytesOfNat n x)

/-- Writes End into a chunk's header; of a chunk that is exhausted at its header's page nothing is written (R34; log 92). -/
def setEnd (o : Oxbow) (s : State) (chunk off : Nat) : Except Stop State :=
  match o.setHeader s chunk 20 4 off with
  | .error (.miss _ _) => .ok s
  | r => r

def prev (o : Oxbow) (s : State) (chunk : Nat) := o.header s chunk 0 8
def next (o : Oxbow) (s : State) (chunk : Nat) := o.header s chunk 8 8
def size (o : Oxbow) (s : State) (chunk : Nat) := o.header s chunk 16 4
def end_ (o : Oxbow) (s : State) (chunk : Nat) := o.header s chunk 20 4
def seq (o : Oxbow) (s : State) (chunk : Nat) := o.header s chunk 24 4

/-- Writes a whole header. -/
def newHeader (o : Oxbow) (s : State) (chunk prev size seq : Nat) : Except Stop State :=
  o.write s chunk (bytesOfNat 32 (prev + size * 2 ^ 128 + 32 * 2 ^ 160 + seq % 2 ^ 32 * 2 ^ 192))

end Oxbow

/-! ### The control block (Table 4.5, R110) -/

/-- Bytes of a control block. -/
def blockBytes : Nat := 32832

def Bound.bits (b : Bound) : Nat :=
  b.first + b.cur * 2 ^ 64 + b.off % 2 ^ 32 * 2 ^ 128 + b.seq.toNat * 2 ^ 160 + b.dropped.toNat * 2 ^ 192 +
    b.state * 2 ^ 224 + bit b.lost 228 + b.width * 2 ^ 229 + b.sites.toNat * 2 ^ 232

/-- A binding read from a control block. -/
def Bound.ofBits (block x : Nat) (priv : Bool) : Bound :=
  { block := block, first := entryBits x 0 64, cur := entryBits x 64 64, off := entryBits x 128 32,
    seq := BitVec.ofNat 32 (entryBits x 160 32), dropped := BitVec.ofNat 32 (entryBits x 192 32),
    state := entryBits x 224 4, lost := entryBits x 228 1 = 1, width := entryBits x 229 2,
    sites := BitVec.ofNat 16 (entryBits x 232 16), refs := [], privileged := priv }

/-- Writes bytes 0 to 63 back (R110). -/
def Oxbow.writeBack (o : Oxbow) (s : State) (b : Bound) : Except Stop State := o.write s b.block (bytesOfNat 64 b.bits)

/-- Writes the snapshot. -/
def Oxbow.snapshot (o : Oxbow) (s : State) (b : Bound) : Except Stop State :=
  o.write s (b.block + 64) ((List.range 8192).flatMap fun i => bytesOfNat 4 (Sparse.get (0 : Word) b.refs i).toNat)

/-- The first n little-endian words of some bytes. -/
def bytesToWords : (n : Nat) → List Byte → List Word
  | 0, _ => []
  | n + 1, bs => BitVec.ofNat 32 (natOfBytes (bs.take 4)) :: bytesToWords n (bs.drop 4)

/-- Loads the references from the snapshot. -/
def Oxbow.loadRefs (o : Oxbow) (s : State) (b : Bound) : Except Stop (Bound × State) :=
  match o.read s (b.block + 64) 32768 with
  | .error e => .error e
  | .ok (bs, s) =>
    .ok ({ b with refs := ((bytesToWords 8192 bs).zipIdx.map fun p => (p.2, p.1)).filter fun p => p.2 != 0 }, s)

/-- The width code of a launch. -/
def widthCode (w : Nat) : Nat := if w = 32 then 0 else if w = 64 then 1 else 2

/-- Key of a reference. -/
def refKey (site lane j : Nat) : Nat := (128 * site + lane) * 4 + j

/-! ### Records (R112 to R114) -/

/-- Head and tail word. -/
def headWord (len type site words : Nat) (multi : Bool) : Nat :=
  len + type * 2 ^ 16 + site * 2 ^ 20 + words * 2 ^ 24 + bit multi 26

/-- Groups of 8 bytes; `fuel` is above their number. -/
def byteGroups : (fuel : Nat) → List Byte → List (List Byte)
  | 0, _ => []
  | n + 1, bs => if bs.isEmpty then [] else bs.take 8 :: byteGroups n (bs.drop 8)

/-- Compressed deltas: a presence byte and the nonzero bytes of each group (R113). -/
def packBytes (bs : List Byte) : List Byte :=
  (byteGroups (bs.length + 1) bs).flatMap fun g =>
    let present := (g.zipIdx.map fun p => if p.1 = 0 then 0 else 2 ^ p.2).sum
    BitVec.ofNat 8 present :: g.filter (· != 0)

/-- One group of n bytes from its presence byte: the bytes, and what follows; none where it does not match. -/
def unpackGroup (present : Nat) : (n : Nat) → List Byte → Option (List Byte × List Byte)
  | 0, bs => if present = 0 then some ([], bs) else none
  | n + 1, bs =>
    match (if present % 2 = 1 then bs.head? else some 0) with
    | none => none
    | some b =>
      (unpackGroup (present / 2) n (if present % 2 = 1 then bs.tail else bs)).map fun r => (b :: r.1, r.2)

/-- n bytes from their compressed form, and what follows; `fuel` is above their number. -/
def unpackBytes : (fuel n : Nat) → List Byte → Option (List Byte × List Byte)
  | 0, _, _ => none
  | fuel + 1, n, bs =>
    if n = 0 then some ([], bs)
    else
      match bs with
      | [] => none
      | p :: r =>
        match unpackGroup p.toNat (min n 8) r with
        | none => none
        | some (g, r) => (unpackBytes fuel (n - min n 8) r).map fun x => (g ++ x.1, x.2)

/-- A record around a body, filled up to whole words. -/
def recordBytes (type site words : Nat) (multi : Bool) (body : List Byte) : List Byte :=
  let pad := (4 - body.length % 4) % 4
  let head := bytesOfNat 4 (headWord (8 + body.length + pad) type site words multi)
  head ++ body ++ List.replicate pad 0 ++ head

/-! ### Writing records (R115) -/

/-- What writing a record comes to. -/
inductive Written where
  /-- it stands in a chunk -/
  | done (b : Bound) (s : State)
  /-- no room, fault mode: End and the control block are written; the tape stands where the block says -/
  | full (b : Bound) (s : State)
  /-- no room, lost mode: the marker is written, the record discarded -/
  | lost (b : Bound) (s : State)
  /-- an access stops -/
  | stops (x : Stop)
  /-- the engine keeps moving along the chain -/
  | circles
  deriving DecidableEq, Repr

/-- Where the chunk's room ends for a record of n bytes at Off: its size, the marker's room in the last chunk of a lost
mode tape, a page that fails translation (R34, R115). -/
def Oxbow.limit (o : Oxbow) (s : State) (b : Bound) (size next n : Nat) : Nat :=
  let room := if b.lost ∧ next = 0 then size - 16 else size
  let pages := pagesOf (b.cur + b.off) n
  match pages.find? fun p => match o.probe s .engineWrite p 1 with
      | .error (.miss _ _) => true
      | _ => false with
  | some p => min room (max (p - b.cur) b.off)
  | none => room

/-- The chain's end in lost mode: the marker where the chunk has room for it (log 93), State 1, snapshot, End; this record is
the first discarded. -/
def Oxbow.lose (o : Oxbow) (s : State) (b : Bound) (size : Nat) : Except Stop (Bound × State) := do
  let marker := recordBytes 3 0 0 false (bytesOfNat 4 b.seq.toNat ++ bytesOfNat 4 0)
  let (b, s) ← if size < b.off + 16 then .ok (b, s)
    else
      match o.write s (b.cur + b.off) marker with
      | .ok s => .ok ({ b with off := b.off + 16 }, s)
      | .error (.miss _ _) => .ok (b, s)
      | .error x => .error x
  let b := { b with state := 1, dropped := b.dropped + 1 }
  let s ← o.snapshot s b
  let s ← o.setEnd s b.cur b.off
  let s ← o.writeBack s b
  .ok (b, s)

/-- The overflow action on a chunk of some size; 0 when its header's page fails, so that it is exhausted whole (R34, R115). -/
def Oxbow.overflow (o : Oxbow) (s : State) (b : Bound) (size : Nat) : Except Stop Written := do
  let s ← o.probe s .engineWrite b.block blockBytes
  let s ← o.setEnd s b.cur b.off
  if b.lost then
    let (b, s) ← o.lose s b size
    .ok (.lost b s)
  else
    let s ← o.writeBack s b
    .ok (.full b s)

/-- Size and Next of a chunk; none when its header's page fails translation (R34). -/
def Oxbow.extent (o : Oxbow) (s : State) (chunk : Nat) : Except Stop (Option (Nat × Nat) × State) :=
  match o.read s chunk 32 with
  | .error (.miss _ _) => .ok (none, s)
  | .error x => .error x
  | .ok (bs, s) => .ok (some (natOfBytes ((bs.drop 16).take 4), natOfBytes ((bs.drop 8).take 8)), s)

/-- Moves to the chunk that Next names, and writes its Prev and Seq; none when its header's page fails translation. -/
def Oxbow.moveTo (o : Oxbow) (s : State) (b : Bound) (next : Nat) : Except Stop (Option State) := do
  let s ← o.setEnd s b.cur b.off
  let (n, s) ← o.seq s b.cur
  match o.setHeader s next 0 8 b.cur with
  | .error (.miss _ _) => .ok none
  | .error x => .error x
  | .ok s =>
    let s ← o.setHeader s next 24 4 (n + 1)
    .ok (some s)

/-- Addresses of 128-byte lines: no chain of chunks without a repeat is longer. -/
def chainFuel : Nat := 2 ^ 50

/-- Writes a record in the chunk named by Cur, or moves on; `seen` are the chunks this record has not fitted in, `fuel` bounds
their number. -/
def Oxbow.emit (o : Oxbow) (bytes : List Byte) : (fuel : Nat) → (seen : List Nat) → State → Bound → Written
  | 0, _, _, _ => .circles
  | fuel + 1, seen, s, b =>
    let r : Except Stop Written := do
      match ← o.extent s b.cur with
      | (none, s) => o.overflow s b 0
      | (some (size, next), s) =>
        if b.off + bytes.length ≤ o.limit s b size next bytes.length then
          let s ← o.write s (b.cur + b.off) bytes
          .ok (.done { b with off := b.off + bytes.length, seq := b.seq + 1 } s)
        else if next = 0 then o.overflow s b size
        else if seen.contains next then .ok .circles
        else
          match ← o.moveTo s b next with
          | none => o.overflow s b size
          | some s => .ok (o.emit bytes fuel (next :: seen) s { b with cur := next, off := 32 })
    match r with
    | .ok w => w
    | .error x => .stops x

/-! ### Faults -/

/-- The tape-use fault (R363). -/
def Ctx.tapeUse (c : Ctx) (i : Instr) (cause site : Nat) : Res := c.fault 13 cause (c.execs i) site

/-- A tape-divergence fault (R370), with its record (type 0x53). -/
def Ctx.diverges (c : Ctx) (i : Instr) (b : Bound) (cause site : Nat) : Res :=
  let s := c.s.varveWarp c.g c.w 0x53 (field 48 4 cause + field 52 4 site + field 56 32 b.seq.toNat)
  { c with s := s }.fault 14 cause (c.execs i) site

/-- What a stop of the engine does to the instruction: a translation fault (R27), an access fault, an uncorrectable
line. The instruction changes nothing. -/
def Ctx.tapeStop (c : Ctx) (i : Instr) (x : Stop) : Res :=
  match x with
  | .ok => c.skip i
  | .waits => c.block
  | .claimed locs => c.blockAt locs
  | .miss m access => c.faultOf (.miss m) (c.execs i) access true
  | .fails kind cause address =>
    c.takes { c.mkTrap kind cause (c.execs i) none with address := address }
  | .damaged address place =>
    { c with s := c.s.noteBad c.g c.w place 4 }.takes
      { c.mkTrap 20 4 (c.execs i) none with address := address }

/-- The engine as the instruction uses it. -/
def Ctx.oxbow (c : Ctx) : Oxbow :=
  ⟨c.g.core, c.g.ctx, c.g.launch, c.privileged, c.uid, c.wi, c.sp.arrived.map (·.1)⟩

/-- The engine for a tape of a warp, with no instruction: at its retirement or when it is saved. -/
def WorkGroup.oxbow (g : WorkGroup) (u i : Nat) (b : Bound) : Oxbow := ⟨g.core, g.ctx, g.launch, b.privileged, u, i, none⟩

/-- The record of a tape's state (type 0x50). -/
def State.noteTape (s : State) (g : WorkGroup) (w : Warp) (b : Bound) : State :=
  s.varveWarp g w 0x50 (field 48 4 b.state + field 52 32 b.seq.toNat)

/-- The end of a tape instruction: the binding, and the region closes (R363). -/
def Ctx.taped (c : Ctx) (i : Instr) (s : State) (w : Warp) (old : Option Nat) (b : Bound) : Res :=
  let s := if old = some b.state then s else s.noteTape c.g c.w b
  c.doneRegion i s { w with tape := some b }

/-- The site of a tape instruction. -/
def siteOf (f : FmtS) : Nat := f.sel.toNat % 16

/-- The recorded mask (R364). -/
def Ctx.recorded (c : Ctx) (i : Instr) : Lanes := c.execs i &&& ~~~c.w.helpers

/-- The common start of a tape instruction: a bound tape in one of the states (Table 16.5), earlier accesses of the
warp performed (R139, R363). Helper lanes alone act on no tape (R177): `alone` is the warp then (log 140). -/
def Ctx.onTape (c : Ctx) (i : Instr) (site : Nat) (states : List Nat) (alone : Warp) (go : Bound → Res) : Res :=
  if c.recorded i = 0 then c.doneRegion i c.s alone
  else
    match c.w.tape with
    | none => c.tapeUse i 0 site
    | some b =>
      if !states.contains b.state then c.tapeUse i 2 site
      else if !c.quiet then c.block
      else go b

/-! ### topen, tgrant, tclose (R365 to R367) -/

/-- R111. -/
def badChunk (addr size : Nat) : Bool := addr % 128 != 0 || size % 128 != 0 || size < 4096 || 2 ^ 24 < size

/-- Opens a new tape: probes, header, control block. -/
def Oxbow.open_ (o : Oxbow) (s : State) (block chunk size width : Nat) (lost : Bool) : Except Stop (Bound × State) := do
  let s ← o.probe s .engineWrite chunk size
  let s ← o.probe s .engineWrite block blockBytes
  let s ← o.newHeader s chunk 0 size 0
  let b : Bound :=
    { block := block, first := chunk, cur := chunk, off := 32, seq := 0, dropped := 0, state := 0, lost := lost,
      width := width, sites := 0, refs := [], privileged := o.priv }
  let s ← o.writeBack s b
  .ok (b, s)

/-- Reads the control block of a tape to attach to. -/
def Oxbow.attach (o : Oxbow) (s : State) (block : Nat) : Except Stop (Bound × State) := do
  let s ← o.probe s .engineRead block blockBytes
  let s ← o.probe s .engineWrite block blockBytes
  let (bs, s) ← o.read s block 64
  .ok (Bound.ofBits block (natOfBytes bs) o.priv, s)

/-- topen: a new tape, or one that is closed (R365); helper lanes alone open none (R177). -/
def execTopen (f : FmtS) (s : State) : Res :=
  issue (.topen f) s fun c =>
    let i : Instr := .topen f
    let block := c.w.rd64 f.a 0
    let chunk := c.w.rd64 f.b 0
    let size := (c.w.rd f.c 0).toNat
    let width := widthCode c.width
    let old := c.w.tape.map (·.state)
    if c.recorded i = 0 then c.doneRegion i c.s c.w
    else if old = some 0 ∨ old = some 1 ∨ old = some 3 then c.tapeUse i 1 0
    else if block % 128 ≠ 0 then c.tapeUse i 3 0
    else if !(chunk == 0 && size == 0) && badChunk chunk size then c.tapeUse i 4 0
    else if !c.quiet then c.block
    else if chunk = 0 ∧ size = 0 then
      match c.oxbow.attach c.s block with
      | .error x => c.tapeStop i x
      | .ok (b, s) =>
        if b.state = 2 ∧ b.width = width then c.taped i s c.w none b else c.tapeUse i 5 0
    else
      match c.oxbow.open_ c.s block chunk size width (f.o.getLsbD 0) with
      | .error x => c.tapeStop i x
      | .ok (b, s) => c.taped i s (c.warpIn s) none b

/-- The last chunk of a chain: the one whose Next is 0, or whose Next leads back into the chain (log 94). -/
def Oxbow.lastChunk (o : Oxbow) : (fuel : Nat) → (seen : List Nat) → State → Nat → Except Stop (Nat × State)
  | 0, _, s, chunk => .ok (chunk, s)
  | fuel + 1, seen, s, chunk =>
    match o.next s chunk with
    | .error e => .error e
    | .ok (n, s) => if n = 0 ∨ seen.contains n then .ok (chunk, s) else o.lastChunk fuel (n :: seen) s n

/-- Appends a chunk (R366). -/
def Oxbow.grant (o : Oxbow) (s : State) (b : Bound) (chunk size : Nat) : Except Stop State := do
  let s ← o.probe s .engineWrite chunk size
  let (last, s) ← o.lastChunk chainFuel [b.first] s b.first
  let (n, s) ← o.seq s last
  let s ← o.newHeader s chunk last size (n + 1)
  o.setHeader s last 8 8 chunk

/-- tgrant (R366). -/
def execTgrant (f : FmtS) (s : State) : Res :=
  issue (.tgrant f) s fun c =>
    let i : Instr := .tgrant f
    let chunk := c.w.rd64 f.a 0
    let size := (c.w.rd f.b 0).toNat
    c.onTape i 0 [0] c.w fun b =>
      if badChunk chunk size then c.tapeUse i 4 0
      else
        match c.oxbow.grant c.s b chunk size with
        | .error x => c.tapeStop i x
        | .ok s => c.taped i s (c.warpIn s) (some b.state) b

/-- Closes a tape (R116): End, the snapshot unless it was written at a loss, State 2. -/
def Oxbow.close (o : Oxbow) (s : State) (b : Bound) : Except Stop (Bound × State) := do
  let s ← o.probe s .engineWrite b.block blockBytes
  let s ← o.setHeader s b.cur 20 4 b.off
  let s ← if b.state = 0 then o.snapshot s b else .ok s
  let b := { b with state := 2 }
  let s ← o.writeBack s b
  .ok (b, s)

/-- tclose (R367). -/
def execTclose (f : FmtS) (s : State) : Res :=
  issue (.tclose f) s fun c =>
    let i : Instr := .tclose f
    c.onTape i 0 [0, 1, 2] c.w fun b =>
      if b.state = 2 then c.doneRegion i c.s c.w
      else
        match c.oxbow.close c.s b with
        | .error x => c.tapeStop i x
        | .ok (b', s) => c.taped i s (c.warpIn s) (some b.state) b'

/-! ### Recording (R368, R369) -/

/-- Records an instruction: a lost tape counts it, an empty mask records nothing. `after` is what a record that is
written changes besides (R113). -/
def Ctx.records (c : Ctx) (i : Instr) (b : Bound) (site : Nat) (bytes : List Byte) (after : Bound → Bound) : Res :=
  if c.recorded i = 0 then c.doneRegion i c.s c.w
  else if b.state = 1 then c.taped i c.s c.w (some 1) { b with dropped := b.dropped + 1 }
  else
    match c.oxbow.emit bytes chainFuel [] c.s b with
    | .done b' s => c.taped i s (c.warpIn s) (some 0) (after b')
    | .lost b' s =>
      c.taped i (s.varveWarp c.g c.w 0x52 (field 48 32 b.seq.toNat)) (c.warpIn s) (some 0) b'
    | .full b' s =>
      let s := s.modWarp c.uid c.wi fun w => { w with tape := some b' }
      { c with s := s.varveWarp c.g c.w 0x51 (field 48 32 b.seq.toNat + field 80 4 site) }.takes
        { c.mkTrap 19 0 (c.execs i) none with unit := site }
    | .stops x => c.tapeStop i x
    | .circles => c.block

/-- The value word j of a lane: a scalar past the last one is not stated (log 22). -/
def Ctx.tapeWord (c : Ctx) (a : BitVec 8) (l j : Nat) : Nat :=
  if isScalar a ∧ 255 < a.toNat + j then Config.unread (16 + j) c.s.order else (c.w.rd (plusReg a j) l).toNat

/-- trec: a value record (R113, R368). -/
def execTrec (f : FmtS) (s : State) : Res :=
  issue (.trec f) s fun c =>
    let i : Instr := .trec f
    let site := siteOf f
    c.onTape i site [0, 1] c.w fun b =>
      let m := c.recorded i
      let new := (lanesOf m).flatMap fun l => (List.range (f.o.toNat + 1)).map fun j =>
        (refKey site l j, BitVec.ofNat 32 (c.tapeWord f.a l j))
      let deltas := new.flatMap fun p => bytesOfNat 4 (p.2 ^^^ Sparse.get (0 : Word) b.refs p.1).toNat
      let body := bytesOfNat (c.width / 8) m.toNat ++ packBytes deltas
      c.records i b site (recordBytes 0 site f.o.toNat false body) fun b =>
        { b with refs := b.refs.setMany (0 : Word) new, sites := b.sites ||| (1#16 <<< site) }

/-- tbr: a branch record (R114, R369). -/
def execTbr (f : FmtS) (s : State) : Res :=
  issue (.tbr f) s fun c =>
    let i : Instr := .tbr f
    let site := siteOf f
    let multi := f.o.getLsbD 0
    let d := if multi then 4 else 1
    c.onTape i site [0, 1] c.w fun b =>
      let m := c.recorded i
      let decision (l : Nat) : Nat :=
        let x := (c.w.rd f.a l).toNat
        if multi then x % 16 else if x = 0 then 0 else 1
      let bits := ((lanesOf m).map fun l => decision l * 2 ^ (l * d)).sum
      let body := bytesOfNat (c.width / 8) m.toNat ++ bytesOfNat (c.width * d / 8) bits
      c.records i b site (recordBytes 1 site 0 multi body) id

/-! ### Reverse play (R116, R117, R370 to R373) -/

/-- A record that reverse play reads: what its head says, and its parts. -/
structure TapeRec where
  len : Nat
  type : Nat
  site : Nat
  words : Nat
  multi : Bool
  body : List Byte
  /-- the recorded mask of a value or branch record -/
  mask : Lanes
  /-- the deltas of a value record, lowest lane and word first -/
  deltas : List Word
  deriving DecidableEq, Repr

/-- The words of bytes, 4 by 4. -/
def wordsOf (n : Nat) (bs : List Byte) : List Word :=
  (List.range n).map fun i => BitVec.ofNat 32 (natOfBytes ((bs.drop (4 * i)).take 4))

/-- The record that ends at Off, none where R117 finds it corrupt. -/
def Oxbow.peek (o : Oxbow) (s : State) (b : Bound) : Except Stop (Option TapeRec × State) := do
  let (size, s) ← o.size s b.cur
  if size < b.off ∨ b.off < 44 then .ok (none, s)
  else
    let (tail, s) ← o.read s (b.cur + b.off - 4) 4
    let x := natOfBytes tail
    let len := x % 65536
    let type := entryBits x 16 4
    if len % 4 ≠ 0 ∨ len < 12 ∨ b.off < len + 32 then .ok (none, s)
    else
      let (bytes, s) ← o.read s (b.cur + b.off - len) (len - 4)
      let body := bytes.drop 4
      let m := 4 * 2 ^ b.width
      let mask : Lanes := BitVec.ofNat 128 (natOfBytes (body.take m))
      let words := entryBits x 24 2
      let r : TapeRec :=
        { len := len, type := type, site := entryBits x 20 4, words := words, multi := entryBits x 26 1 = 1,
          body := body, mask := mask, deltas := [] }
      if natOfBytes (bytes.take 4) ≠ x ∨ 4 ≤ type then .ok (none, s)
      else if type ≠ 0 then .ok (some r, s)
      else
        let n := countLanes mask * (words + 1)
        match unpackBytes (4 * n + 1) (4 * n) (body.drop m) with
        | none => .ok (none, s)
        | some (raw, rest) =>
          if body.length < m ∨ 4 ≤ rest.length then .ok (none, s) else .ok (some { r with deltas := wordsOf n raw }, s)

/-- Where reverse play stands after a move: at offset 32 of a chunk it goes on in the one before it, of the first one
it is complete (R116). None: the chain keeps crossing. -/
def Oxbow.cross (o : Oxbow) : (fuel : Nat) → (seen : List Nat) → State → Bound → Except Stop (Option Bound × State)
  | 0, _, s, _ => .ok (none, s)
  | fuel + 1, seen, s, b =>
    if b.off ≠ 32 then .ok (some b, s)
    else if b.cur = b.first then .ok (some { b with state := 4 }, s)
    else if seen.contains b.cur then .ok (none, s)
    else
      match o.prev s b.cur with
      | .error e => .error e
      | .ok (p, s) =>
        match o.end_ s p with
        | .error e => .error e
        | .ok (off, s) => o.cross fuel (b.cur :: seen) s { b with cur := p, off := off }

/-- Ends a reverse instruction with a tape moved to where its chain leads. -/
def Ctx.crosses (c : Ctx) (i : Instr) (s : State) (b : Bound) (go : State → Bound → Res) : Res :=
  match c.oxbow.cross chainFuel [] s b with
  | .error x => c.tapeStop i x
  | .ok (none, _) => c.block
  | .ok (some b, s) => go s b

/-- trev (R370): the tape is as the control block in memory says, also where the program has overwritten it (R117). -/
def execTrev (f : FmtS) (s : State) : Res :=
  issue (.trev f) s fun c =>
    let i : Instr := .trev f
    c.onTape i 0 [2] c.w fun b =>
      let r : Except Stop (Bound × State) := do
        let (bs, s) ← c.oxbow.read c.s b.block 64
        let found := Bound.ofBits b.block (natOfBytes bs) b.privileged
        let (off, s) ← c.oxbow.end_ s found.cur
        c.oxbow.loadRefs s { found with state := 3, off := off }
      match r with
      | .error x => c.tapeStop i x
      | .ok (b', s) => c.crosses i s b' fun s b' => c.taped i s c.w (some b.state) b'

/-- A lost marker: it is consumed, and the instruction takes the recompute trap (R373). -/
def Ctx.recomputes (c : Ctx) (i : Instr) (s : State) (b : Bound) (site : Nat) (r : TapeRec) : Res :=
  c.crosses i s { b with off := b.off - 16 } fun s b =>
    let s := s.varveWarp c.g c.w 0x53 (field 48 4 15 + field 52 4 site + field 56 32 b.seq.toNat)
    let s := if b.state = 4 then s.noteTape c.g c.w b else s
    let s := s.modWarp c.uid c.wi fun w => { w with tape := some b }
    { c with s := s }.takes { c.mkTrap 15 0 (c.execs i) (some c.sp.pc) with
      unit := site, address := natOfBytes (r.body.take 4), detail := b.dropped.toNat % 65536 }

/-- The common start of `tget`, `tbrp` and `tmark` in reverse: the record, of the instruction's type and site
(Table 16.6). -/
def Ctx.reverses (c : Ctx) (i : Instr) (b : Bound) (type site : Nat) (go : State → TapeRec → Res) : Res :=
  if b.state = 4 then c.diverges i b 1 site
  else
    match c.oxbow.peek c.s b with
    | .error x => c.tapeStop i x
    | .ok (none, _) => c.diverges i b 0 site
    | .ok (some r, s) =>
      if r.type = 3 then c.recomputes i s b site r
      else if r.type ≠ type then c.diverges i b 2 site
      else if r.site ≠ site then c.diverges i b 3 site
      else go s r

/-- Consumes a record (R116). -/
def Ctx.consumes (c : Ctx) (i : Instr) (s : State) (w : Warp) (b : Bound) (r : TapeRec) : Res :=
  c.crosses i s { b with off := b.off - r.len } fun s b' => c.taped i s w (some b.state) b'

/-- tmark: a mark record, or its check in reverse (R369). -/
def execTmark (f : FmtS) (s : State) : Res :=
  issue (.tmark f) s fun c =>
    let i : Instr := .tmark f
    let site := siteOf f
    let x := (c.w.rd f.a 0).toNat
    c.onTape i site [0, 1, 3, 4] c.w fun b =>
      if b.state ≤ 1 then c.records i b site (recordBytes 2 site 0 false (bytesOfNat 4 x)) id
      else
        c.reverses i b 2 site fun s r =>
          if natOfBytes (r.body.take 4) ≠ x then c.diverges i b 7 site else c.consumes i s c.w b r

/-- tget: the references of the record's lanes, which step back (R371); helper lanes alone receive zero. -/
def execTget (f : FmtS) (s : State) : Res :=
  issue (.tget f) s fun c =>
    let i : Instr := .tget f
    let site := siteOf f
    let n := f.o.toNat + 1
    let own := lanesOf (c.execs i)
    let zeros := own.flatMap fun l => (List.range n).map fun j => (keyOf (plusReg f.d j) l, (0 : Word))
    let alone := if own.isEmpty then c.w else c.produce c.w (destKeys f.d n own) (.values zeros) c.s.order
    c.onTape i site [3, 4] alone fun b =>
      c.reverses i b 0 site fun s r =>
        if r.words ≠ f.o.toNat then c.diverges i b 4 site
        else
          let keys := (lanesOf r.mask).flatMap fun l => (List.range n).map fun j => refKey site l j
          let ref (k : Nat) : Word := Sparse.get (0 : Word) b.refs k
          let back := (keys.zip r.deltas).map fun p => (p.1, ref p.1 ^^^ p.2)
          let out := own.flatMap fun l => (List.range n).map fun j =>
            (keyOf (plusReg f.d j) l, if r.mask.getLsbD l then ref (refKey site l j) else 0)
          let w := c.produce c.w (destKeys f.d n own) (.values out) c.s.order
          c.consumes i s w { b with refs := b.refs.setMany (0 : Word) back } r

/-- tbrp: the recorded decisions (R372); helper lanes alone receive zero. -/
def execTbrp (f : FmtS) (s : State) : Res :=
  issue (.tbrp f) s fun c =>
    let i : Instr := .tbrp f
    let site := siteOf f
    let multi := f.o.getLsbD 0
    let d := if multi then 4 else 1
    c.onTape i site [3, 4] (c.writeEach i f.d 1 fun _ => 0) fun b =>
      c.reverses i b 1 site fun s r =>
        if r.multi ≠ multi then c.diverges i b 5 site
        else if r.mask ≠ c.recorded i then c.diverges i b 6 site
        else
          let bits := natOfBytes (r.body.drop (c.width / 8))
          let w := c.writeEach i f.d 1 fun l => if c.helper l then 0 else bits / 2 ^ (l * d) % 2 ^ d
          c.consumes i s w b r

/-! ### tstat (R374) -/

/-- The head word of the record that reverse play reads next. -/
def Oxbow.nextHead (o : Oxbow) (s : State) (b : Bound) : Except Stop (Nat × State) := do
  let (tail, s) ← o.read s (b.cur + b.off - 4) 4
  let len := natOfBytes tail % 65536
  let (head, s) ← o.read s (b.cur + b.off - len) 4
  .ok (natOfBytes head, s)

/-- tstat: it never faults on the tape's state; with no tape bound, items 1 to 6 are not stated (log 22). -/
def execTstat (f : FmtS) (s : State) : Res :=
  issue (.tstat f) s fun c =>
    let i : Instr := .tstat f
    let item := f.sel.toNat % 8
    match c.w.tape with
    | none => c.write i f.d 1 fun _ =>
      if item = 0 then 2 ^ 32 - 1 else if item = 7 then 0 else Config.unread (20 + item) c.s.order
    | some b =>
      if item = 7 ∧ b.state = 3 ∧ c.execs i ≠ 0 then
        match c.oxbow.nextHead c.s b with
        | .error x => c.tapeStop i x
        | .ok (x, s) => c.done i s (c.writeEach i f.d 1 fun _ => x)
      else
        c.write i f.d 1 fun _ =>
          match item with
          | 0 => b.state
          | 1 => b.seq.toNat
          | 2 => b.dropped.toNat
          | 3 => b.off
          | 4 => b.cur % 2 ^ 32
          | 5 => b.cur / 2 ^ 32
          | 6 => b.sites.toNat
          | _ => 0

end Sys2Proof.Machine
end

