-- ==== Sys2Proof/Machine/Retire.lean ====
section
/-! DEFINITION. Retirement of work-groups, successors, completion of launches (file 07, R194, R195; file 08, R201,
R202, R222, R225). -/

namespace Sys2Proof.Machine

/-! ### Retirement (R194) -/

/-- Whether everything a work-group issued has ended: warps, store queues, accesses, engine jobs, operations. Writes
of it that are on their way are waited for as well (log 23). -/
def State.spent (s : State) (u : Nat) (g : WorkGroup) : Bool :=
  g.resident && !g.warps.isEmpty && g.warps.all (fun w =>
    w.ended && w.storeQ.isEmpty && !w.producers.any Producer.memory && w.fw.isNone) && g.ops.isEmpty &&
    !(s.jobs.any fun p => p.2.wg == u && !p.2.done) && !((s.core g.core).outbound.any fun o => o.wg == u) &&
    !(s.peerPending.any fun p => p.2.1 == u)

/-- What stops the engine at a warp's tape: the warp, its index, the stop. -/
abbrev TapeStop := Warp × Nat × Stop

/-- Does something to every tape of some warps; what cannot be done for another cause than a miss or a wait is left out, an
uncorrectable error logged (R67). -/
def State.eachTape (s : State) (g : WorkGroup) (act : State → Warp → Nat → Bound → Except Stop State) :
    (ws : List (Warp × Nat)) → Except TapeStop State
  | [] => .ok s
  | (w, i) :: r =>
    match w.tape.map (act s w i) with
    | none => s.eachTape g act r
    | some (.ok s) => s.eachTape g act r
    | some (.error (.damaged _ place)) => (s.noteBad g w place 4).eachTape g act r
    | some (.error (.fails _ _ _)) => s.eachTape g act r
    | some (.error x) => .error (w, i, x)

/-- Closes the tapes that are still recording, or says why not (R194). -/
def State.closeTapes (s : State) (u : Nat) (g : WorkGroup) : Except TapeStop State :=
  s.eachTape g (fun s w i b =>
    if b.state ≠ 0 then .ok s
    else (Oxbow.close (g.oxbow u i b) s b).map fun x => x.2.noteTape g w x.1) g.warps.zipIdx

/-- Whether an entry of a die's fault queue is open for a miss. -/
def State.faultOpen (s : State) (die ctx : Nat) (m : Miss) : Bool :=
  (s.die die).faultQ.any fun p => p.2.ctx == ctx && p.2.page == m.va / 65536 && p.2.type == m.type

/-- The engine parks with the tape of a warp that retires or is saved: the fault is posted under the warp's sub-core and
slot, once; with the queue full it waits for an entry, and the wait is counted once (R28, R32). -/
def State.parkTape (s : State) (u : Nat) (g : WorkGroup) (x : TapeStop) : Res :=
  match x.2.2 with
  | .miss m access =>
    let who := Agent.tape u x.2.1
    let post := (s.postFault ⟨g.core, x.1.sub, x.1.slot, true⟩ g.ctx m access).2
    if s.faultOpen (g.core / 64) g.ctx m then .fault .notEnabled
    else if s.entryFor (g.core / 64) g.ctx m then .next (post.arrives who)
    else if (s.awaiting who).isSome then .fault .notEnabled
    else .next { post with waiting := post.waiting ++ [(who, post.order, [])] }
  | _ => .fault .notEnabled

/-! ### What is left behind (R39, R47) -/

/-- The bytes of the n-th granule of a scratchpad. -/
def scratchPart (m : Memory) (n : Nat) : Memory :=
  (m.filter fun p => p.1 / 16384 == n).map fun p => (p.1 - n * 16384, p.2)

/-- The bytes of a tile, in the granule that holds it (R46). -/
def tilePart (tiles : Sparse Word) (z : Nat) : Memory :=
  (tiles.filter fun p => p.1 / 4096 == z).flatMap fun p =>
    ((bytesOfNat 4 p.2.toNat).zipIdx.map fun b => (4 * (p.1 % 4096) + b.2, b.1)).filter fun b => b.2 != 0

/-- A core with granules that a work-group of a context gives back (R47). -/
def Core.leave (k : Core) (ctx : Nat) (parts : List (Nat × Memory)) : Core :=
  { k with granules := parts.foldl (fun m p => m.put p.1 (some ⟨ctx, p.2⟩)) k.granules }

/-- A work-group gives back its register file, extension tiles and dedicated tiles. Register granules leave zero
(log 141). -/
def State.leaveTiles (s : State) (g : WorkGroup) : State :=
  if (s.ctx g.ctx).deterministic then s
  else s.modCore g.core fun k =>
    { k.leave g.ctx ((tileGranules g.desc g.granules).zipIdx.map fun p => (p.1, tilePart g.tiles (32 + p.2))) with
      tileLeft := if g.desc.matrix then some (g.ctx, g.tiles.filter fun p => p.1 < 32 * 4096) else k.tileLeft }

/-- The granules of its scratchpad that a work-group holds: all that a retired member of a gang does (R193). -/
def WorkGroup.scratchHeld (g : WorkGroup) : List Nat :=
  if g.warps.isEmpty then g.granules else scratchGranules g.desc g.granules

/-- A work-group gives back its scratchpad. -/
def State.leaveScratch (s : State) (g : WorkGroup) : State :=
  if (s.ctx g.ctx).deterministic then s
  else s.modCore g.core fun k =>
    k.leave g.ctx (g.scratchHeld.zipIdx.map fun p => (p.1, scratchPart g.show_.scratch p.2))

/-- What a work-group that holds a place leaves on its core (R47). -/
def State.leaveBehind (s : State) (g : WorkGroup) : State :=
  (if g.warps.isEmpty then s else s.leaveTiles g).leaveScratch g

/-- Drops a launch's invariant lines from a core where none of its work-groups is left (R144). -/
def State.dropInvariant (s : State) (core launch : Nat) : State :=
  if s.wgs.any fun p => p.2.core == core && p.2.launch == launch && !p.2.warps.isEmpty then s
  else s.modCore core fun k => { k with l1 := k.l1.filter fun p => p.2.inv != some launch }

/-- Frees the pool of work-groups. -/
def State.freeWgs (s : State) (us : List Nat) : State :=
  us.foldl (fun s u =>
    match s.wgs.look u with
    | some g => { (s.leaveScratch g) with wgs := s.wgs.del u }
    | none => s) s

/-- The end of a work-group with no successor: its warps are gone; its pool is freed, of a gang's members when the
last of them has retired (R193). -/
def State.endWg (s : State) (u : Nat) (g : WorkGroup) : State :=
  let s := (s.leaveTiles g).setWg u { g with warps := [], granules := scratchGranules g.desc g.granules }
  let s := { s with jobs := s.jobs.filter fun p => p.2.wg != u }
  let s := s.modLaunch g.launch fun l => { l with retired := l.retired + 1 }
  let s := match g.gang with
    | none => s.freeWgs [u]
    | some k =>
      let members := s.gangOf g u
      if members.all fun v => match s.wgs.look v with
          | some x => x.warps.isEmpty
          | none => true
      then { (s.freeWgs members) with gangs := s.gangs.del k } else s
  s.dropInvariant g.core g.launch

/-! ### Successors (R195, R200, R201) -/

/-- The descriptor a successor runs under: nine fields of its table entry, the rest its predecessor's. -/
def Desc.succeed (d e : Desc) : Desc :=
  { d with entry := e.entry, args := e.args, pool := e.pool, threads := e.threads, width := e.width, regs := e.regs,
           roles := e.roles, energy := e.energy, seed := e.seed }

/-- Whether R195 starts an entry behind a predecessor. -/
def Desc.maySucceed (d e : Desc) : Bool :=
  e.pool == d.pool && !e.badGroup && e.need ≤ e.regGran && e.entry % 8 == 0

/-- Where the entry of the successor table that a work-group names stands. -/
def WorkGroup.succEntry (g : WorkGroup) : Nat := g.desc.succTab + 128 * (g.succ - 1)

/-- The successor's descriptor, when the work-group names one that can start. -/
def State.successor (s : State) (g : WorkGroup) : Option Desc × State :=
  if g.desc.succTab = 0 then (none, s)
  else
    match s.cpRead g.ctx g.succEntry 128 (s.ctx g.ctx).privileged with
    | (none, s) => (none, s)
    | (some bs, s) =>
      let e := descOf (natOfBytes bs)
      (if g.desc.maySucceed e then some (g.desc.succeed e) else none, s)

/-- The lines that the read of a successor table touches. -/
def State.succLocs (s : State) (g : WorkGroup) : List Loc :=
  if g.succ = 0 || g.desc.succTab == 0 then [] else s.cpLocs g.ctx g.succEntry 128

/-- The work-groups of a core but one. -/
def State.others (s : State) (u core : Nat) : List WorkGroup :=
  (s.wgs.filter fun p => p.1 != u && p.2.core == core && p.2.resident).map (·.2)

/-- The successor on its predecessor's place: scratchpad, tiles, flags and kinds stay, all else is as at a first
instruction (R195, R326). -/
def WorkGroup.renew (g : WorkGroup) (d : Desc) (others : List WorkGroup) (now order : Nat) : WorkGroup :=
  { g with desc := d,
           warps := seatWarps others g.base (fun i sub slot active => newWarp d i sub slot now order active) d.warps,
           banks := [], shadows := [], fifoA := [], fifoB := [], scaleTab := [], ops := [], queueNo := 0, conv := [],
           windows := [], counters := newCounters now, energy := d.energy, trellis := 0, succ := 0, born := now }

/-- WORK_GROUP_RETIRE: open tapes are closed; the successor starts, or the work-group ends (R194, R195). -/
def execWorkGroupRetire (wg : Nat) (s : State) : Res :=
  match s.wgs.look wg with
  | none => .fault .notEnabled
  | some g =>
    if !s.spent wg g then .fault .notEnabled
    else
      s.afterClaims (.group wg) (s.succLocs g) fun s =>
      match s.closeTapes wg g with
      | .error x => s.parkTape wg g x
      | .ok s =>
        let note (s : State) : State := s.varveWg g 0x31 (field 48 32 g.id + field 80 4 g.succ)
        if g.succ = 0 then .next ((note s).endWg wg g)
        else
          match s.successor g with
          | (none, s) =>
            .next ((note (s.modLaunch g.launch fun l => { l with statuses := l.statuses ++ [9] })).endWg wg g)
          | (some d, s) =>
            let others := s.others wg g.core
            if (List.range 4).any fun k => 32 < ((others.map fun x => slotsOn x.warps.length x.base k).sum +
                slotsOn d.warps g.base k) then .fault .notEnabled
            else
              let s := { s with jobs := s.jobs.filter fun p => p.2.wg != wg }
              .next ((note (s.setWg wg (g.renew d others (s.now g.core) s.order))).dropL1 g.core g.launch)

/-! ### Staged reductions (R222) -/

/-- A staged triple of a launch. -/
structure Stage where
  core : Nat
  va : Nat
  record : Dword
  sums : List Val
  deriving DecidableEq, Repr

/-- The order in which stages are applied. -/
def Stage.before (a b : Stage) : Bool :=
  a.va < b.va || (a.va == b.va && (a.core < b.core || (a.core == b.core && a.record.toNat < b.record.toNat)))

/-- Inserts a stage at its place. -/
def insertStage (x : Stage) : List Stage → List Stage
  | [] => [x]
  | y :: r => if x.before y then x :: y :: r else y :: insertStage x r

/-- The stages of a launch, in order. -/
def Context.stages (k : Context) (launch : Nat) : List Stage :=
  ((k.staged.filter fun p => p.1 == launch).map fun p => (⟨p.2.1, p.2.2.1, p.2.2.2.1, p.2.2.2.2⟩ : Stage)).foldr
    insertStage []

/-- Whether a launch has staged more triples than a logical core's area holds. -/
def stagesFull (l : List Stage) : Bool :=
  ((l.map (·.core)).eraseDups).any fun c => 262144 < (l.filter fun x => x.core == c).length

/-- The location's new value under one stage: every element rounded once. -/
def Stage.apply (x : Stage) (id : Dword) (seed : Dword) (old : Nat) : Nat :=
  let w := Rec.w x.record
  let word (j : Nat) : Nat :=
    ((fount [id.truncate 32, 0xFFFFFFFF - BitVec.ofNat 32 (j / 4), BitVec.ofNat 32 x.core,
      BitVec.ofNat 32 (x.va / 4)] (wordsOfNat 4 seed.toNat)).getD (j % 4) 0).toNat
  packElems w ((List.range (Rec.ne x.record)).map fun j =>
    encodeVal x.record ((decodeCode x.record (elemOf old w j)).add (isRdn x.record) (x.sums.getD j .nan)) (word j))

/-- Applies stages in order; one whose page does not translate is left out (log 24). -/
def State.applyStages (s : State) (ctx : Nat) (l : Launch) : (xs : List Stage) → State
  | [] => s
  | x :: r =>
    match s.cpPages ctx .atomic true (pagesOf x.va 4) with
    | (.error _, s) => s.applyStages ctx l r
    | (.ok ps, s) =>
      match (physBytes ps x.va 4).head? with
      | none => s.applyStages ctx l r
      | some a => (s.writeBytes (valueBytes a 4 (x.apply l.id l.desc.seed (s.valueAt a 4)))).applyStages ctx l r

/-! ### Completion (R202, R225) -/

/-- The ranges of a digest list from its entry i on, in list order: address and length; none where the list does not
translate. -/
def State.digestRanges (s : State) (ctx list : Nat) (priv : Bool) : (n i : Nat) → Option (List (Nat × Nat))
  | 0, _ => some []
  | n + 1, i =>
    match (s.cpRead ctx (list + 16 * i) 16 priv).1 with
    | none => none
    | some e =>
      let va := natOfBytes (e.take 8)
      let len := natOfBytes (e.drop 8)
      if len = 0 then some []
      else (s.digestRanges ctx list priv n (i + 1)).map fun r => (va, len) :: r

/-- The bytes of ranges, one after the other; none where a range does not translate. -/
def State.rangeBytes (s : State) (ctx : Nat) (priv : Bool) : (rs : List (Nat × Nat)) → Option (List Byte) × State
  | [] => (some [], s)
  | (va, len) :: r =>
    match s.cpRead ctx va len priv with
    | (none, s) => (none, s)
    | (some bs, s) =>
      match s.rangeBytes ctx priv r with
      | (none, s) => (none, s)
      | (some rest, s) => (some (bs ++ rest), s)

/-- The ranges that a launch's result digest covers (R202). -/
def State.launchRanges (s : State) (l : Launch) : Option (List (Nat × Nat)) :=
  if l.desc.digest = 0 then some []
  else s.digestRanges l.ctx l.desc.digest (s.ctx l.ctx).privileged 8 0

/-- The result digest of a launch, none when it cannot be formed. -/
def State.resultDigest (s : State) (l : Launch) : Option Nat × State :=
  if l.desc.digest = 0 then (some 0, s)
  else
    match s.launchRanges l with
    | none => (none, s)
    | some rs =>
      let (bs, s) := s.rangeBytes l.ctx (s.ctx l.ctx).privileged rs
      (bs.map digest32, s)

/-- The lines that the completion of a launch reads and writes: its record, its staged reductions, its digest. -/
def State.completionLocs (s : State) (launch : Nat) (l : Launch) : List Loc :=
  s.cpLocs l.ctx (s.recordAddr l.ctx) 128 ++
    (((s.ctx l.ctx).stages launch).flatMap fun x => s.cpLocs l.ctx x.va 4) ++
    (if l.desc.digest = 0 then [] else s.cpLocs l.ctx l.desc.digest 128) ++
    (((s.launchRanges l).getD []).flatMap fun r => s.cpLocs l.ctx r.1 r.2)

/-- The completion entry of a host launch. -/
def State.answerLaunch (s : State) (l : Launch) (status : Nat) : State :=
  match l.host with
  | some (page, tag, irq) => s.post page (completionEntry l.ctx tag 0x05 1 status l.id.toNat 0 0xFFFF) irq
  | none => s

/-- LAUNCH_COMPLETE: when every work-group has retired, and no earlier claim holds a line it needs (R141): the staged reductions, the digest, the record, the host's
completion. -/
def execLaunchComplete (launch : Nat) (s : State) : Res :=
  match s.launches.look launch with
  | none => .fault .notEnabled
  | some l =>
    if l.retired ≠ l.desc.grid then .fault .notEnabled
    else
      s.afterClaims (.record launch) (s.completionLocs launch l) fun s =>
      let stages := (s.ctx l.ctx).stages launch
      let full := stagesFull stages
      let s := if full then s else s.applyStages l.ctx l stages
      let s := s.modCtx l.ctx fun k => { k with staged := k.staged.filter fun p => p.1 != launch }
      let (digest, s) := s.resultDigest l
      let codes := l.statuses ++ (if full then [10] else []) ++ if digest.isNone then [11] else []
      let status := codes.foldl min (codes.headD 0)
      let s := s.writeRecord l.ctx (l.record (s.ctx l.ctx) status (digest.getD 0))
      let p := s.page l.ctx
      let s := s.setPage l.ctx { p with lrReserved := p.lrReserved - 1 }
      .next (({ s with launches := s.launches.del launch }.arrives (.launch launch)).answerLaunch l status)

end Sys2Proof.Machine
end

