-- ==== Sys2Proof/Machine/Faults.lean ====
section
/-! DEFINITION. The life of a fault-queue entry: firmware's second walk, the limit, replay and fail; walks; the
arrival of an instruction line (file 01, R17, R27 to R33; file 08, R213). -/

namespace Sys2Proof.Machine

/-! ### Requesters parked on an entry (R27, R28) -/

/-- A parked split: its work-group, warp, number, and what it waits with. -/
structure ParkedSplit where
  wg : Nat
  warp : Nat
  split : Split
  entry : Option Nat
  miss : Miss
  access : Access
  lanes : Lanes
  deriving DecidableEq, Repr

/-- The splits of a warp, those a handler saved included. -/
def Warp.allSplits (w : Warp) : List Split :=
  w.splits ++ (match w.handler with
    | some h => h.splits
    | none => [])

/-- The splits parked at a die. -/
def State.parkedSplits (s : State) (die : Nat) : List ParkedSplit :=
  s.wgs.flatMap fun g => g.2.warps.zipIdx.flatMap fun w => w.1.allSplits.filterMap fun sp =>
    match sp.wait with
    | some (.parked d n m a lanes) => if d = die then some ⟨g.1, w.2, sp, n, m, a, lanes⟩ else none
    | _ => none

/-- The jobs parked at a die, with the entry, miss and access. -/
def State.parkedJobs (s : State) (die : Nat) : List (Nat × Job × Option Nat × Miss × Access) :=
  s.jobs.filterMap fun p =>
    match p.2.parked with
    | some (d, n, m, a) => if d = die then some (p.1, p.2, n, m, a) else none
    | none => none

/-- Clears the wait of a split, wherever it stands. -/
def Warp.unpark (w : Warp) (id : Nat) : Warp := w.modSplit id fun sp => { sp with wait := none, arrived := none }

/-- A parked split restarts at its region entry (R29, R405); one that a handler has saved does so when the handler
returns. The warp's open transactions abort (R170). -/
def State.replayParked (s : State) (p : ParkedSplit) : State :=
  match s.warp? p.wg p.warp with
  | none => s
  | some w =>
    let s := s.abortLanes p.wg p.warp w.txLanes 11 0
    if (w.split? p.split.id).isSome then s.replay p.wg p.warp p.split.id
    else s.modWarp p.wg p.warp fun w =>
      { (w.unpark p.split.id) with
        handler := w.handler.map fun h =>
          { h with splits := h.splits.map fun sp => if sp.id == p.split.id then { sp with wait := none } else sp,
                   resumes := h.resumes ++ [(p.split.id, none)] } }

/-- A parked split takes a region-precise trap of a kind and cause. -/
def State.failAs (s : State) (p : ParkedSplit) (kind cause : Nat) : State :=
  (s.modWarp p.wg p.warp fun w => w.unpark p.split.id).takeTrap p.wg p.warp
    { kind := kind, cause := cause, detail := 0, lanes := p.lanes, pc := p.split.pc, entry := p.split.entry,
      counter := p.split.counter, address := p.miss.va, reg := 0, unit := 0, time := s.time,
      splits := [(p.split.id, none)] }

/-- A parked split takes the translation trap (R29): kind 16, the entry's type. -/
def State.failParked (s : State) (p : ParkedSplit) : State := s.failAs p 16 p.miss.type

/-- A job ends with a fault (R33); the operation of a matrix job goes. -/
def State.failJobAs (s : State) (n : Nat) (j : Job) (t : Trap) : State :=
  let s := s.endJob n (some t)
  match j.kind with
  | .matrix number _ => s.dropOps j.wg fun o => o.number == number
  | _ => s

/-- A job with a parked request ends with a translation fault (R33). -/
def State.failJob (s : State) (n : Nat) (j : Job) (m : Miss) : State :=
  s.failJobAs n j (jobTrap 16 m.type m.va s.time)

/-- Closes an entry and resolves every requester parked on it (R29). -/
def State.resolveEntry (s : State) (die n : Nat) (replay : Bool) : State :=
  let splits := (s.parkedSplits die).filter fun p => p.entry == some n
  let jobs := (s.parkedJobs die).filter fun p => p.2.2.1 == some n
  let s := s.modDie die fun d => { d with faultQ := d.faultQ.del n }
  let s := splits.foldl (fun s p => if replay then s.replayParked p else s.failParked p) s
  jobs.foldl (fun s p =>
    if replay then s.modJob p.1 fun j => { j with parked := none } else s.failJob p.1 p.2.1 p.2.2.2.1) s

/-! ### Firmware (R29, R30) -/

/-- The accesses that kinds bits stand for. -/
def kindAccesses (kinds : Nat) : List Access :=
  (if kinds % 2 = 1 then [.read] else []) ++ (if kinds / 2 % 2 = 1 then [.write] else []) ++
    (if kinds / 4 % 2 = 1 then [.execute] else []) ++ (if kinds / 8 % 2 = 1 then [.atomic] else [])

/-- Privilege of the instruction at a split's pc (R380). -/
def State.privilegeAt (s : State) (g : WorkGroup) (pc : Nat) : Bool :=
  (s.ctx g.ctx).privileged &&
    match (s.translate g.core g.ctx pc .execute true).1 with
    | .ok p => p.priv
    | .error _ => false

/-- Privilege of every requester of an entry: its parked splits and jobs. A fetch has the context's. -/
def State.requesterPriv (s : State) (die n ctx : Nat) : Bool :=
  (s.ctx ctx).privileged &&
    ((s.parkedSplits die).all fun p => p.entry != some n || p.access == .execute ||
      match s.wgs.look p.wg with
      | some g => s.privilegeAt g p.split.pc
      | none => true) &&
    (s.parkedJobs die).all fun p => p.2.2.1 != some n || p.2.1.privileged

/-- Firmware's walk of an entry's page for its kinds. -/
def State.walkAgain (s : State) (die n : Nat) (f : FaultEntry) : Bool :=
  let priv := s.requesterPriv die n f.ctx
  (kindAccesses f.kinds).all fun a =>
    match (rootWalk s f.ctx (f.page * 65536) a priv).result with
    | .ok _ => true
    | .error _ => false

/-- FAULT_ENTRY_RECHECK: firmware walks again for an opened entry: it replays it, or posts it to system software
(R29, R472 kind 1). -/
def execFaultEntryRecheck (die entry : Nat) (s : State) : Res :=
  match (s.die die).faultQ.look entry with
  | none => .fault .notEnabled
  | some f =>
    if f.forwarded then .fault .notEnabled
    else if s.walkAgain die entry f then .next (s.resolveEntry die entry true)
    else
      let s := s.modDie die fun d => { d with faultQ := d.faultQ.put entry (some { f with forwarded := true }) }
      .next (s.event f.ctx 1 (f.bits die + entry * 2 ^ 256))

/-- FAULT_RESOLUTION_LIMIT: an entry open for its context's limit fails (R30). -/
def execFaultResolutionLimit (die entry : Nat) (s : State) : Res :=
  match (s.die die).faultQ.look entry with
  | none => .fault .notEnabled
  | some f =>
    if s.time < f.time + (s.ctx f.ctx).faultLimit * 1000000 then .fault .notEnabled
    else .next (s.resolveEntry die entry false)

/-! ### Waiting for an entry (R32) -/

def accessEngine : Access → Bool
  | .engineRead => true
  | .engineWrite => true
  | _ => false

/-- A waiting split walks the tables again (R31): it replays its region where the walk succeeds now, takes an entry for the
miss that is found, or goes on waiting with the queue full. -/
def State.enterOne (s : State) (die : Nat) (p : ParkedSplit) : Option State :=
  match p.entry, s.wgs.look p.wg, s.warp? p.wg p.warp with
  | none, some g, some w =>
    let priv := if p.access == .execute then (s.ctx g.ctx).privileged else s.privilegeAt g p.split.pc
    match s.translate g.core g.ctx p.miss.va p.access priv with
    | (.ok _, s) => some (s.replayParked p)
    | (.error m, _) =>
      if m.type = 5 then some (s.failAs p 17 4)
      else if s.entryFor die g.ctx m then
        let (n, s) := s.postFault ⟨g.core, w.sub, w.slot, accessEngine p.access⟩ g.ctx m p.access
        some (s.modWarp p.wg p.warp fun w => w.modSplit p.split.id fun sp =>
          { sp with wait := some (.parked die n m p.access p.lanes) })
      else none
  | _, _, _ => none

/-- A waiting job's request walks the tables again, likewise (R31, R33). -/
def State.enterJobOne (s : State) (die n : Nat) (j : Job) (m : Miss) (access : Access) : Option State :=
  match s.wgs.look j.wg with
  | none => none
  | some g =>
    match s.translate g.core g.ctx m.va access j.privileged with
    | (.ok _, s) => some (s.modJob n fun j => { j with parked := none })
    | (.error m, _) =>
      if m.type = 5 then some (s.failJobAs n j (jobTrap 17 4 m.va s.time))
      else if s.entryFor die g.ctx m then some (s.parkJob n m access)
      else none

/-- Which of the faults that wait goes first the manual does not say: splits before jobs, splits in the order of their
work-groups and warps, jobs in the order of their names (DESIGN CHOICE, log 142). -/
def State.enterSplit (s : State) (die : Nat) : Option State := (s.parkedSplits die).findSome? (s.enterOne die)

def State.enterJob (s : State) (die : Nat) : Option State :=
  (s.parkedJobs die).findSome? fun p =>
    if p.2.2.1.isNone then s.enterJobOne die p.1 p.2.1 p.2.2.2.1 p.2.2.2.2 else none

/-- FAULT_QUEUE_WAIT_END: a fault waiting for an entry walks again and takes one, or goes on (R31, R32; log 142). -/
def execFaultQueueWaitEnd (die : Nat) (s : State) : Res :=
  match s.enterSplit die, s.enterJob die with
  | some s, _ => .next s
  | none, some s => .next s
  | none, none => .fault .notEnabled

/-! ### Walks -/

/-- TABLE_WALK: an access of a split translates an address: the TLBs are filled and A or D set, or the split parks
(R17, R21, R22, R27). -/
def execTableWalk (wg warp split : Nat) (va : BitVec 64) (access : Access) (s : State) : Res :=
  match ctxOf { s with cur := some ⟨wg, warp, split, none⟩ } with
  | none => .fault .notEnabled
  | some c =>
    if 2 ^ 57 ≤ va.toNat || c.sp.wait.isSome then .fault .notEnabled
    else
      match s.translate c.g.core c.g.ctx va.toNat access c.privileged with
      | (.ok _, s) => .next s
      | (.error m, _) => c.faultOf (.miss m) c.sp.lanes access (accessEngine access)

/-! ### Instruction lines (R52, R213) -/

/-- The fetching split takes the uncorrectable-ECC trap at its fetch pc (R67). -/
def State.fetchEcc (s : State) (x : Fetch) : State :=
  match s.wgs.look x.wg, s.warp? x.wg x.warp with
  | some g, some w =>
    match w.split? x.split with
    | none => s
    | some sp =>
      (s.noteEcc g w (x.line * 128) 2 none).holdTrap x.wg x.warp
        { kind := 20, cause := 2, detail := 0, lanes := sp.lanes, pc := sp.pc, entry := sp.entry,
          counter := sp.counter, address := x.va, reg := 0, unit := 0, time := s.time, splits := [(sp.id, none)] }
  | _, _ => s

/-- ICACHE_FILL: the line a sub-core is frozen on arrives, once no claim holds it; an uncorrectable line is not
installed (R67, R141, R213). -/
def execIcacheFill (core sub : Nat) (s : State) : Res :=
  let k := s.core core
  match (k.sub sub).frozen with
  | none => .fault .notEnabled
  | some x =>
    if s.holdsBack none [.line x.line] then .fault .notEnabled
    else
      let thawed := s.setCore core (k.setSub sub { (k.sub sub) with frozen := none })
      if s.badAddr (.phys (x.line * 128)) then .next (thawed.fetchEcc x)
      else .next ((thawed.touchLines 0 [.phys (x.line * 128)]).installCode core x.ctx x.line
        (s.mem.bytes (x.line * 128) 128))

end Sys2Proof.Machine
end

