-- ==== Sys2Proof/Machine/Waits.lean ====
section
/-! DEFINITION. How waits end without the thing waited for: timeouts, deadlocks, held traps, the watchdog; the
active set (file 06, R158, R160, R162; file 07, R183, R196; file 08, R210, R211; file 19, R396, R397). -/

namespace Sys2Proof.Machine

/-! ### Timeouts -/

/-- MONITOR_TIMEOUT: the cycles of an armed monitor are over on the clock of its entry's die: status timeout, the word's
value (R161, R162, R321). -/
def execMonitorTimeout (die idx : Nat) (s : State) : Res :=
  match (s.die die).monitors.look idx with
  | none => .fault .notEnabled
  | some m =>
    if m.woken.isSome || (s.die die).cycles < m.until_ then .fault .notEnabled
    else
      let s := s.modDie die fun d => { d with monitors := d.monitors.del idx }
      .next (s.endMonitor m 1 (BitVec.ofNat 32 (s.mem.value m.word 4)))

/-- SLEEP_EXPIRY: a sleeping split is ready once its cycles have passed (R387). -/
def execSleepExpiry (wg warp split : Nat) (s : State) : Res :=
  match s.wgs.look wg, (s.warp? wg warp).bind (·.split? split) with
  | some g, some sp =>
    match sp.wait with
    | some (.sleep t) =>
      if s.now g.core < t then .fault .notEnabled
      else .next (s.modWarp wg warp fun w =>
        w.modSplit split fun sp => { sp with wait := none, readyAt := s.now g.core, aged := false })
    | _ => .fault .notEnabled
  | _, _ => .fault .notEnabled

/-! ### Barrier deadlock (R158, R160) -/

/-- A wait in one of the barriers. -/
def Split.inBarrier (sp : Split) : Bool :=
  match sp.wait with
  | some .bar => true
  | some .gsync => true
  | some (.bwait _ _) => true
  | _ => false

def Split.inBarOrBwait (sp : Split) : Bool := sp.inBarrier && sp.wait != some .gsync

def Split.waitsRejoin (sp : Split) : Bool :=
  match sp.wait with
  | some (.rwait _) => true
  | _ => false

/-- A warp that has exited, or whose live splits all wait in barriers, some perhaps in `rwait` (R183). A warp in
handler mode, or that firmware holds, or with a trap to come, does not wait (R399, R401). -/
def Warp.stuck (w : Warp) : Bool :=
  w.ended ||
    (w.handler.isNone && w.fw.isNone && w.held.isEmpty && w.splits.any Split.inBarrier &&
      w.splits.all fun sp => sp.inBarrier || sp.waitsRejoin)

/-- Whether the object of a `bwait` now releases it, or faults it. -/
def State.bwaitEnds (s : State) (u : Nat) (sp : Split) : Bool :=
  match sp.wait with
  | some (.bwait off token) =>
    let o := s.barObj u off
    o.complete token || o.malformed || o.errArr || o.errBytes || (s.jobs.any fun p => p.2.countsOn u off)
  | _ => false

/-- Whether a work-group's warps are all stuck, with no update of an object to come and no `bwait` that ends. -/
def State.groupStuck (s : State) (u : Nat) (g : WorkGroup) : Bool :=
  g.warps.all (fun w => w.stuck && w.storeQ.isEmpty && !w.splits.any (s.bwaitEnds u)) &&
    !(s.jobs.any fun p => p.2.wg == u && !p.2.done && (p.2.object.isSome || !p.2.countDowns.isEmpty ||
      match p.2.kind with
      | .cpa lanes _ _ => lanes.any fun x => x.object.isSome
      | _ => false))

/-- The cause of the fault a warp takes: the kind of wait of its lowest lane that waits in a barrier; and that lane's
object offset. -/
def Warp.barrierCause (w : Warp) : Nat × Nat :=
  let waits := w.splits.filter Split.inBarrier
  let lanes := waits.foldl (fun (x : Lanes) sp => x ||| sp.lanes) 0
  match (lowest lanes).bind fun l => waits.find? fun sp => sp.lanes.getLsbD l with
  | some sp =>
    match sp.wait with
    | some .gsync => (2, 0)
    | some (.bwait off _) => (1, off)
    | _ => (0, 0)
  | none => (0, 0)

/-- The barrier-deadlock fault on the warps of a work-group that a test selects: every split of each, the ones in
`rwait` included (R183). -/
def State.barrierFault (s : State) (u : Nat) (p : Warp → Bool) : State :=
  match s.wgs.look u with
  | none => s
  | some g =>
    (List.range g.warps.length).foldl (fun s i =>
      match s.warp? u i with
      | some w =>
        if p w then
          s.takeTrap u i { deadlockTrap s 5 w.barrierCause.1 0 w.splits with address := w.barrierCause.2 }
        else s
      | none => s) s

/-- A warp that waits in a barrier. -/
def Warp.waitsBarrier (w : Warp) : Bool := !w.ended && w.splits.any Split.inBarrier

/-- Whether every warp of every member of a gang waits or has exited, and no wait can be released (R160). -/
def State.gangStuck (s : State) (k : Gang) : Bool :=
  let groups := k.members.filterMap fun u => (s.wgs.look u).map fun g => (u, g)
  groups.all (fun p => s.groupStuck p.1 p.2) && groups.any fun p => p.2.warps.any Warp.waitsBarrier

/-- BARRIER_DEADLOCK (R158). A gang that is stuck as a whole takes the fault as one (R160; log 28). -/
def execBarrierDeadlock (wg : Nat) (s : State) : Res :=
  match s.wgs.look wg with
  | none => .fault .notEnabled
  | some g =>
    let takes (w : Warp) : Bool := !w.ended && w.splits.any Split.inBarOrBwait
    let whole := match g.gang.bind s.gangs.look with
      | some k => s.gangStuck k
      | none => false
    if s.groupStuck wg g && g.warps.any takes && !whole then .next (s.barrierFault wg takes)
    else .fault .notEnabled

/-- GANG_BARRIER_DEADLOCK (R160): every waiting warp of the gang takes the fault. -/
def execGangBarrierDeadlock (gang : Nat) (s : State) : Res :=
  match s.gangs.look gang with
  | none => .fault .notEnabled
  | some k =>
    if s.gangStuck k then .next (k.members.foldl (fun s u => s.barrierFault u Warp.waitsBarrier) s)
    else .fault .notEnabled

/-! ### Rejoin deadlock (R183) -/

/-- Whether a test of R182 on some mask would release a lane. -/
def Warp.rejoins (w : Warp) (now : Nat) : Bool :=
  (List.range 16).any fun m => (w.rejoinPc m).isSome || w.releaseOut m now != w

/-- The mask register of the split with the lowest lane. -/
def Warp.lowestRwait (w : Warp) : Nat :=
  let lanes := w.splits.foldl (fun (x : Lanes) sp => x ||| sp.lanes) 0
  match ((lowest lanes).bind fun l => w.splits.find? fun sp => sp.lanes.getLsbD l).bind (·.wait) with
  | some (.rwait m) => m
  | _ => 0

/-- REJOIN_DEADLOCK (R183). -/
def execRejoinDeadlock (wg warp : Nat) (s : State) : Res :=
  match s.wgs.look wg, s.warp? wg warp with
  | some g, some w =>
    if w.handler.isNone && w.fw.isNone && w.held.isEmpty && !w.splits.isEmpty && w.splits.all Split.waitsRejoin &&
        !w.rejoins (s.now g.core)
    then .next (s.takeTrap wg warp { deadlockTrap s 4 0 0 w.splits with reg := w.lowestRwait })
    else .fault .notEnabled
  | _, _ => .fault .notEnabled

/-! ### Held traps (R397) -/

/-- A held trap as it is delivered: a split that resumes at its next instruction does so where it is now. -/
def Trap.refresh (t : Trap) (w : Warp) : Trap :=
  if t.kind = 21 ∨ t.kind = 6 ∨ t.kind = 5 ∨ t.kind = 4 then
    { t with splits := t.splits.filterMap fun r => (w.split? r.1).map fun sp => (sp.id, some sp.pc) }
  else t

/-- TRAP_DELIVERY: of the held traps that the warp's mode lets through, the first in the order of R397 is delivered, once no
atomic of its splits is in flight (R314, R398); the warp's open transactions abort (R170). -/
def execTrapDelivery (wg warp : Nat) (s : State) : Res :=
  match s.warp? wg warp with
  | none => .fault .notEnabled
  | some w =>
    match w.nextHeld (s.unfinished wg warp) with
    | none => .fault .notEnabled
    | some t =>
      let s := (s.modWarp wg warp fun w => { w with held := w.held.erase t }).abortLanes wg warp w.txLanes 11 0
      match s.warp? wg warp with
      | some w => .next (s.deliver wg warp (t.refresh w))
      | none => .fault .notEnabled

/-! ### The watchdog (R396) -/

/-- How long a launch has run: the time since its first placement, without the completed pre-emptions of its
context. -/
def State.running (s : State) (l : Launch) : Nat :=
  match l.started with
  | none => 0
  | some t =>
    let end_ := match (s.ctx l.ctx).preempt with
      | some p => if p.done then p.doneAt else s.time
      | none => s.time
    end_ - t - l.away

/-- Cancels the waits of parked splits (R30, R396). -/
def Warp.cancelParks (w : Warp) : Warp :=
  let f (sp : Split) : Split :=
    match sp.wait with
    | some (.parked ..) => { sp with wait := none, arrived := none }
    | _ => sp
  { w with splits := w.splits.map f,
           handler := w.handler.map fun h => { h with splits := h.splits.map f } }

/-- The watchdog trap of a warp: every live lane, each split at its next unissued instruction. -/
def watchdogTrap (s : State) (w : Warp) : Trap :=
  { deadlockTrap s 21 0 0 w.ownSplits with detail := 0, lanes := w.live }

/-- WATCHDOG: a launch has run for its context's period: every warp of it takes kind 21 at its next instruction
boundary. -/
def execWatchdog (launch : Nat) (s : State) : Res :=
  match s.launches.look launch with
  | none => .fault .notEnabled
  | some l =>
    let period := (s.ctx l.ctx).watchdog
    if l.started.isNone || l.watched || period = 0 || s.running l < period * 1000000 then .fault .notEnabled
    else
      let s := s.modLaunch launch fun l => { l with watched := true }
      .next (s.wgs.foldl (fun t g =>
        if g.2.launch = launch then
          (List.range g.2.warps.length).foldl (fun t i =>
            match t.warp? g.1 i with
            | some w =>
              if w.ended then t
              else (t.modWarp g.1 i Warp.cancelParks).holdTrap g.1 i (watchdogTrap t w)
            | none => t) t
        else t) s)

/-! ### The active set (R196, R210, R211) -/

/-- A split that is ready, or whose wait ends when its instruction is tried again. -/
def Split.runnable (sp : Split) : Bool :=
  match sp.wait with
  | none => true
  | some .retry => true
  | some (.bwait _ _) => true
  | some (.cpwait _) => true
  | some (.mwait _) => true
  | some (.mtoken _) => true
  | some (.trwait _) => true
  | _ => false

/-- Whether the wait of a split is over, though its instruction has not been tried again: its `bwait` would return or fault,
no job that its `cpwait` or `trwait` names is left, no operation that its `mwait` names (R157, R317, R347, R361). A blocked
split's wait ends when its instruction could issue, which its sub-core's turn finds. -/
def State.waitOver (s : State) (u i : Nat) (sp : Split) : Bool :=
  match s.wgs.look u, s.warp? u i, sp.wait with
  | some g, some w, some x =>
    let failed (p : Nat → Job → Bool) : Bool := s.jobs.any fun j => j.2.failed.isSome && p j.1 j.2
    match x with
    | .bwait _ _ => s.bwaitEnds u sp
    | .cpwait (some n) => match s.jobs.look n with
      | some j => j.done
      | none => true
    | .cpwait none => s.jobs.all fun j => !(j.2.wg == u && j.2.warp == i && !j.2.done && match j.2.kind with
      | .cpa .. => true
      | _ => false)
    | .mwait n => !w.matFaults.isEmpty || !g.opsBefore n || failed fun _ j => j.matrixOf u fun m _ => numberBefore m n
    | .mtoken t => !w.matFaults.isEmpty || (w.badTokens.look t.toNat).isSome ||
        (failed fun _ j => j.matrixOf u fun _ ts => ts.contains (i, t)) ||
        !(g.ops.any (fun o => o.tokens.contains (i, t)) || g.conv.any fun r => r.2.tokens.contains (i, t))
    | .trwait n => failed (fun _ j => j.isTrellis u i) ||
        !(s.jobs.any fun j => j.2.isTrellis u i && !j.2.done && j.2.order < n)
    | _ => false
  | _, _, _ => false

/-- Whether a split of a warp is ready, but for its instruction's line (R211). -/
def State.readySplit (s : State) (u i : Nat) (sp : Split) : Bool := sp.wait.isNone || s.waitOver u i sp

/-- Whether a warp of the pending set asks for a place: some split of it is ready, no handler or firmware apart. -/
def State.wants (s : State) (u i : Nat) (w : Warp) : Bool :=
  !w.active && w.fw.isNone && w.splits.any fun sp => !w.heldFor sp.id && s.readySplit u i sp

/-- When the split of a warp that is ready longest became ready; one whose wait is over has been ready since now. -/
def State.readySince (s : State) (u i now : Nat) (w : Warp) : Nat :=
  let ts := (w.splits.filter (s.readySplit u i)).map fun sp => if sp.wait.isNone then sp.readyAt else now
  ts.foldl min (ts.headD 0)

/-- Whether every live split of a warp waits. -/
def State.wholeWaits (s : State) (u i : Nat) (w : Warp) : Bool := w.fw.isSome || w.splits.all fun sp => !s.readySplit u i sp

/-- The resident warps of a sub-core: work-group, index, warp. -/
def State.warpsOn (s : State) (core sub : Nat) : List (Nat × Nat × Warp) :=
  s.wgs.flatMap fun g =>
    if g.2.core == core && g.2.resident then
      (g.2.warps.zipIdx.filter fun p => p.1.sub == sub).map fun p => (g.1, p.2, p.1)
    else []

/-- The ready pending warp that enters: ready longest, then of the lowest slot. -/
def State.pendingNext (s : State) (now : Nat) (ws : List (Nat × Nat × Warp)) : Option (Nat × Nat × Warp) :=
  let since (p : Nat × Nat × Warp) : Nat := s.readySince p.1 p.2.1 now p.2.2
  (ws.filter fun p => s.wants p.1 p.2.1 p.2.2).foldl (fun b p =>
    match b with
    | none => some p
    | some q => if since p < since q ∨ (since p = since q ∧ p.2.2.slot < q.2.2.slot) then some p else b) none

/-- The active warps that may leave for the ready pending warp `(u, i, w)`: those that wholly wait (R210). With none, any
of them once `w` has been ready for the ageing bound, since R196 promises every ready split an issue and no split is
starved. DEDUCED (log 29). -/
def leavers (s : State) (active : List (Nat × Nat × Warp)) (u i : Nat) (w : Warp) : List (Nat × Nat × Warp) :=
  let outs := active.filter fun p => s.wholeWaits p.1 p.2.1 p.2.2
  match s.wgs.look u with
  | none => outs
  | some g =>
    if outs.isEmpty && s.readySince u i (s.now g.core) w + (s.ctx g.ctx).ageing ≤ s.now g.core then active else outs

/-- WARP_SWAP: a ready pending warp enters the active set: in a free place, or for a warp that leaves it (R210). -/
def execWarpSwap (core sub : Nat) (s : State) : Res :=
  let ws := s.warpsOn core sub
  let active := ws.filter fun p => p.2.2.active
  match s.pendingNext (s.now core) ws with
  | none => .fault .notEnabled
  | some (u, i, w) =>
    if active.length < 8 then .next (s.modWarp u i fun w => { w with active := true })
    else
      let outs := leavers s active u i w
      match outs[Config.pick s.tick % max 1 outs.length]?, s.wgs.look u with
      | some (v, j, x), some g =>
        let s := (s.modWarp v j fun w => { w with active := false }).modWarp u i fun w => { w with active := true }
        .next (s.varveWarp g w 0x32 (field 48 5 w.slot + field 53 5 x.slot))
      | _, _ => .fault .notEnabled

/-- AGEING_PROMOTION: a split ready for the ageing bound of its context is counted (R211, event 9). -/
def execAgeingPromotion (wg warp split : Nat) (s : State) : Res :=
  match s.wgs.look wg, (s.warp? wg warp).bind (·.split? split) with
  | some g, some sp =>
    if sp.wait.isSome || sp.aged || s.now g.core < sp.readyAt + (s.ctx g.ctx).ageing then .fault .notEnabled
    else
      let s := s.modWarp wg warp fun w => w.modSplit split fun sp => { sp with aged := true }
      .next (s.modWg wg fun g => g.count 9 1)
  | _, _ => .fault .notEnabled

end Sys2Proof.Machine
end

