-- ==== Sys2Proof/Machine/Preempt.lean ====
section
/-! DEFINITION. Saving and restoring work-groups, pre-emption, time slices, forced reset (file 08, R216; file 19,
R407 to R411; file 01, R40). -/

namespace Sys2Proof.Machine

/-! ### Saving a work-group (R408) -/

/-- Whether a producer must complete before its work-group is saved: an atomic, or one of the engine's queue. -/
def Producer.completes (p : Producer) : Bool :=
  match p.work with
  | .atomic .. => true
  | .queued _ => true
  | _ => false

/-- Whether nothing of a warp is left that a save must let complete: its stores, its atomics, its commits (R167), and the loads
of a split that has arrived at a gang barrier, which does not replay (R160). -/
def Warp.savable (w : Warp) : Bool :=
  w.storeQ.isEmpty && !(w.producers.any fun p => p.completes ||
    w.splits.any fun sp => sp.id == p.split && sp.wait == some .gsync) &&
    w.allSplits.all fun sp => sp.wait != some .commit

/-- R408 steps 2 to 4: nothing the work-group issued is still to be performed, but for what a save cancels. -/
def State.savable (s : State) (u : Nat) (g : WorkGroup) : Bool :=
  g.ops.isEmpty && g.warps.all Warp.savable &&
    !(s.jobs.any fun p => p.2.wg == u && !p.2.done) && !((s.core g.core).outbound.any fun o => o.wg == u) &&
    !(s.peerPending.any fun p => p.2.1 == u)

/-- Writes the control blocks of the bound tapes back (R110), or says why not. -/
def State.writeTapes (s : State) (u : Nat) (g : WorkGroup) : Except TapeStop State :=
  s.eachTape g (fun s _ i b => (g.oxbow u i b).writeBack s b) g.warps.zipIdx

/-- The wait of a split as the save leaves it: sleeps, monitors and parks are over. -/
def Split.settle (sp : Split) : Split :=
  match sp.wait with
  | some (.sleep _) => { sp with wait := none }
  | some .monw => { sp with wait := none }
  | some (.parked ..) => { sp with wait := none, arrived := none }
  | _ => sp

/-- Whether a split a handler has saved is parked: it replays its region when the handler returns. -/
def Split.isParked (sp : Split) : Bool :=
  match sp.wait with
  | some (.parked ..) => true
  | _ => false

/-- A warp as it is saved: every producer in flight cancelled, its waits settled (R186, R408). -/
def Warp.saved (w : Warp) : Warp :=
  let w := w.cancel fun _ _ => true
  { w with splits := w.splits.map Split.settle, active := false,
           handler := w.handler.map fun h =>
             { h with splits := h.splits.map Split.settle,
                      resumes := h.resumes ++ (h.splits.filter Split.isParked).map fun sp => (sp.id, none) } }

/-- Saves one work-group: transactions abort with code interrupted, monitors are freed, its place on the core is free
(R408, R409). -/
def State.saveOne (s : State) (u : Nat) : State :=
  match s.wgs.look u with
  | none => s
  | some g =>
    let s := (List.range g.warps.length).foldl (fun s i =>
      match s.warp? u i with
      | some w =>
        ((s.abortLanes u i w.txLanes 11 0).freeMonitors u i fun _ => true).modWarp u i Warp.saved
      | none => s) s
    let s := s.modWg u fun g =>
      { g.show_.stopCounters (s.now g.core) with resident := false, saving := false, granules := [] }
    (s.leaveBehind g).varveWg g 0x33 (field 48 32 g.id + field 96 32 (s.launchId g).toNat)

/-- Stops the issue of work-groups that are to be saved (R408 step 1). -/
def State.stopAll (s : State) (us : List Nat) : State :=
  us.foldl (fun s u => s.modWg u fun g => { g with saving := true }) s

/-- Whether all of some work-groups can be saved now. -/
def State.allSavable (s : State) (us : List Nat) : Bool :=
  us.all fun u =>
    match s.wgs.look u with
    | some g => s.savable u g
    | none => true

/-- Writes back the tapes of work-groups. -/
def State.writeAllTapes (s : State) : (us : List Nat) → Except (Nat × WorkGroup × TapeStop) State
  | [] => .ok s
  | u :: r =>
    match s.wgs.look u with
    | none => s.writeAllTapes r
    | some g =>
      match s.writeTapes u g with
      | .ok s => s.writeAllTapes r
      | .error e => .error (u, g, e)

/-- Saves work-groups whose issue has stopped, once all can be, then does what follows. A tape whose control block does
not translate posts its fault and is waited for. -/
def State.saveAll (s : State) (us : List Nat) (after : State → State) : Res :=
  if !s.allSavable us then .fault .notEnabled
  else
    match s.writeAllTapes us with
    | .ok s => .next (after (us.foldl State.saveOne s))
    | .error (u, g, x) => s.parkTape u g x

/-! ### GANG_SAVE (R408) -/

/-- The work-groups of a gang, or the one of this name when it belongs to no gang. -/
def State.gangMembers (s : State) (n : Nat) : List Nat :=
  match s.gangs.look n with
  | some k => k.members
  | none =>
    match s.wgs.look n with
    | some g => if g.gang.isNone then [n] else []
    | none => []

/-- GANG_SAVE: a gang of a persistent launch of a context that is being pre-empted is saved whole. A work-group of no
gang is a gang of one, under its own name. -/
def execGangSave (gang : Nat) (s : State) : Res :=
  let us := s.gangMembers gang
  match us.head?.bind s.wgs.look with
  | none => .fault .notEnabled
  | some g =>
    match (s.ctx g.ctx).preempt with
    | none => .fault .notEnabled
    | some p =>
      if p.done || !g.desc.persist || !g.resident then .fault .notEnabled else s.saveAll us id

/-! ### Pre-emption (R407) -/

/-- The resident work-groups of a context. -/
def State.residentOf (s : State) (ctx : Nat) : List Nat :=
  (s.wgs.filter fun p => p.2.ctx == ctx && p.2.resident).map (·.1)

/-- Drops the waits at claimed lines of launches and work-groups that are gone. -/
def State.pruneWaiting (s : State) : State :=
  { s with waiting := s.waiting.filter fun x => match x.1 with
      | .launch l => (s.launches.look l).isSome
      | .record l => (s.launches.look l).isSome
      | .group u => (s.wgs.look u).isSome
      | .tape u _ => (s.wgs.look u).isSome
      | .page _ => true
      | .firmware _ => true }

/-- Starts a pre-emption: placement stops, the deadline runs, and the persistent gangs stop issuing. -/
def State.startPreempt (s : State) (ctx : Nat) : State :=
  let s := s.modCtx ctx fun k => { k with preempt := some ⟨s.time, k.deadline, false, 0⟩ }
  s.stopAll ((s.residentOf ctx).filter fun u =>
    match s.wgs.look u with
    | some g => g.desc.persist
    | none => false)

/-- PREEMPTION_COMPLETE: no work-group of the context is resident (R407, R472 kind 4). -/
def execPreemptionComplete (ctx : Nat) (s : State) : Res :=
  match (s.ctx ctx).preempt with
  | none => .fault .notEnabled
  | some p =>
    if p.done || !(s.residentOf ctx).isEmpty then .fault .notEnabled
    else
      let s := s.modCtx ctx fun k => { k with preempt := some { p with done := true, doneAt := s.time } }
      .next (s.event ctx 4 0)

/-! ### Forced reset (R40, R411) -/

/-- A copy: what it has read and not yet written stands in its buffer. -/
def Job.isCopy (j : Job) : Bool :=
  match j.kind with
  | .cpa _ _ _ => true
  | .copy _ _ _ _ _ => true
  | _ => false

/-- Copy jobs stop at the end of what they have read, a piece of a 128-byte line (R411). -/
def State.stopCopies (s : State) (jobs : List Nat) : State :=
  jobs.foldl (fun s n =>
    match s.jobs.look n with
    | none => s
    | some j => if j.isCopy then (s.flush n).2 else s) s

/-- Discards what a context has in the device's queues: fault entries without replay, jobs, monitors, travelling
writes, TLB and walk-cache entries (R40). -/
def State.discardContext (s : State) (ctx : Nat) : State :=
  let mine (u : Nat) : Bool :=
    match s.wgs.look u with
    | some g => g.ctx == ctx
    | none => false
  let gone := (s.jobs.filter fun p => mine p.2.wg).map (·.1)
  let s := s.stopCopies gone
  { s with
    hostEarly := s.hostEarly.filter fun e => !mine e.2.2.1
    jobs := s.jobs.filter fun p => !mine p.2.wg
    peerPending := s.peerPending.filter fun p => !mine p.2.1
    dies := s.dies.map fun d =>
      (d.1, { d.2 with faultQ := d.2.faultQ.filter fun f => f.2.ctx != ctx,
                       tlb := d.2.tlb.filter fun t => t.ctx != ctx,
                       walks := d.2.walks.filter fun w => w.ctx != ctx,
                       viterbi := d.2.viterbi.filter fun n => !gone.contains n,
                       monitors := d.2.monitors.filter fun m => !mine m.2.wg })
    cores := s.cores.map fun c =>
      (c.1, { c.2 with tlb := c.2.tlb.filter fun t => t.ctx != ctx,
                       outbound := c.2.outbound.filter fun o => !mine o.wg,
                       subs := c.2.subs.map fun x =>
                         (x.1, { x.2 with frozen := match x.2.frozen with
                           | some f => if f.ctx = ctx then none else some f
                           | none => none }) }) }

/-- Ends every work-group of a context without trap, resident or saved. -/
def State.endWorkGroups (s : State) (ctx : Nat) : State :=
  let us := (s.wgs.filter fun p => p.2.ctx == ctx).map (·.1)
  let s := us.foldl (fun s u =>
    match s.wgs.look u with
    | some g => if g.resident then s.leaveBehind g else s
    | none => s) s
  { s with wgs := s.wgs.filter fun p => p.2.ctx != ctx, gangs := s.gangs.filter fun p => p.2.ctx != ctx }

/-- Empties the launch queues of a context; no record is written. -/
def State.emptyQueues (s : State) (ctx : Nat) : State :=
  let s := { s with launches := s.launches.filter fun p => p.2.ctx != ctx }
  let s := s.setPage ctx { (s.page ctx) with lrReserved := 0 }
  s.modCtx ctx fun k =>
    { k with queues := k.queues.map fun q => (q.1, { q.2 with launches := [], passed := [], aged := [],
                                                               reserved := none }),
             staged := [], preempt := none }

/-- The core in whose ring a context's own event is recorded: the first of its partition. -/
def Context.home (k : Context) : Nat := k.partition.headD 0

/-- A forced reset of a context: cause 0 deadline, 1 command, 2 failed restore, 3 fatal fault (R411, R472 kind 3). -/
def State.forcedReset (s : State) (ctx cause : Nat) : State :=
  match s.contexts.look ctx with
  | none => s
  | some k =>
    let s := (s.discardContext ctx).endWorkGroups ctx
    let s := (s.emptyQueues ctx).pruneWaiting
    let s := s.varve k.home 0x35 k.tenant 0 0 (field 48 6 ctx + field 54 2 cause)
    s.event ctx 3 cause

/-- The contexts of which a resume has refused an image, each once. -/
def State.refusedContexts (s : State) : List Nat :=
  ((s.wgs.filter fun p => p.2.image == .refused).map (·.2.ctx)).eraseDups

/-- A context of which an image is not restored takes a forced reset (R410, R411). -/
def State.failRestores (s : State) : State := s.refusedContexts.foldl (fun s c => s.forcedReset c 2) s

/-- The image of a saved work-group is altered in its save area (R409, R410). -/
def State.alterImage (s : State) (u : Nat) : Res :=
  match s.wgs.look u with
  | some g => if g.resident then .fault .notEnabled else .next (s.setWg u { g with image := .altered })
  | none => .fault .notEnabled

/-- PREEMPTION_DEADLINE (R407). -/
def execPreemptionDeadline (ctx : Nat) (s : State) : Res :=
  match (s.ctx ctx).preempt with
  | none => .fault .notEnabled
  | some p =>
    if p.done || s.time < p.since + p.deadline * 1000 then .fault .notEnabled else .next (s.forcedReset ctx 0)

/-! ### Time slices (R216) -/

/-- The logical cores of a physical one that carry work-groups a test selects, ascending. -/
def State.logicalOn (s : State) (ctx core : Nat) (p : WorkGroup → Bool) : List Nat :=
  let k := s.ctx ctx
  let cs := ((s.wgs.filter fun g => g.2.ctx == ctx && p g.2 && k.physical g.2.lcore == core).map
    (·.2.lcore)).eraseDups
  (List.range 1536).filter cs.contains

/-- The work-groups of a logical core that a test selects, each with its gang. -/
def State.logicalGroup (s : State) (ctx lcore : Nat) (p : WorkGroup → Bool) : List Nat :=
  ((s.wgs.filter fun g => g.2.ctx == ctx && p g.2 && g.2.lcore == lcore).flatMap fun g => s.group g.1).eraseDups

/-- Whether work-groups that come in fit their physical cores beside those that stay. -/
def State.fitTogether (s : State) (ctx : Nat) (out into : List Nat) : Bool :=
  let k := s.ctx ctx
  let gs := into.filterMap s.wgs.look
  let cores := (gs.map fun g => k.physical g.lcore).eraseDups
  cores.all fun c =>
    let stay := (s.wgs.filter fun p => p.2.core == c && p.2.resident && !out.contains p.1).map (·.2)
    let all := stay ++ gs.filter fun g => k.physical g.lcore == c
    let r := roomOf all
    r.granules ≤ 192 && (all.filter fun g => g.desc.matrix && !g.warps.isEmpty).length ≤ 1 && r.used.all (· ≤ 32)

/-- The physical cores that some work-groups of a context come to. -/
def State.affected (s : State) (ctx : Nat) (into : List Nat) : List Nat :=
  ((into.filterMap s.wgs.look).map fun g => (s.ctx ctx).physical g.lcore).eraseDups

/-- Adds work-groups to save, in ascending logical core, until those that come in fit. -/
def State.makeRoom (s : State) (ctx : Nat) (into : List Nat) : (lcores out : List Nat) → List Nat
  | [], out => out
  | c :: r, out =>
    if s.fitTogether ctx out into then out
    else
      let more := (s.logicalGroup ctx c fun g => g.resident).filter fun u => !out.contains u && !into.contains u
      s.makeRoom ctx into r (out ++ more)

/-- What a slice boundary of a physical core saves and restores: the next logical core in ascending order comes in. -/
def State.slice (s : State) (ctx core : Nat) : Option (Nat × List Nat × List Nat) :=
  let k := s.ctx ctx
  let away := s.logicalOn ctx core fun g => !g.resident
  let here := s.logicalOn ctx core fun g => g.resident
  let cur := Sparse.get (here.headD 0) k.slices core
  match (startAfter away cur).head? with
  | none => none
  | some next =>
    let into := s.logicalGroup ctx next fun g => !g.resident
    let out := if s.fitTogether ctx [] into then []
      else s.makeRoom ctx into ((List.range 1536).filter fun c => (s.affected ctx into).contains (k.physical c))
        ((s.logicalGroup ctx cur fun g => g.resident).filter
        fun u => !into.contains u)
    some (next, out, into)

/-- Restores work-groups on the physical cores of their logical ones. -/
def State.restoreLogical (s : State) (ctx : Nat) (us : List Nat) : State :=
  us.foldl (fun s u =>
    match s.wgs.look u with
    | some g => if g.resident then s else s.restoreOne u ((s.ctx ctx).physical g.lcore)
    | none => s) s

/-- TIME_SLICE: every 500 µs a physical core saves one logical core's work-groups and restores the next one's. The
work-groups to save first stop issuing. -/
def execTimeSlice (ctx core : Nat) (s : State) : Res :=
  let k := s.ctx ctx
  if !k.deterministic || k.preempt.isSome || s.time < Sparse.get 0 k.sliceAt core then .fault .notEnabled
  else
    match s.slice ctx core with
    | none => .fault .notEnabled
    | some (next, out, into) =>
      let stopped (u : Nat) : Bool :=
        match s.wgs.look u with
        | some g => g.saving
        | none => true
      if !out.all stopped then .next (s.stopAll out)
      else s.saveAll out fun s =>
        let s := s.restoreLogical ctx into
        s.modCtx ctx fun k => { k with slices := k.slices.put core (some next),
                                       sliceAt := k.sliceAt.put core (some (s.time + 500000)) }

end Sys2Proof.Machine
end

