-- ==== Sys2Proof/Machine/Freeze.lean ====
section
/-! DEFINITION. The recorder's own steps, the freeze of the module, the capsule: its sealing, views and retrieval
(files 19 and 22, R412, R425 to R446; file 18, R390). -/

namespace Sys2Proof.Machine

/-! ### The recorder's own records (R425, R426) -/

/-- Cores of the module. -/
def moduleCores : Nat := 1536

/-- VARVE_TIME_ANCHOR: an anchor after 4,096 records without one. -/
def execVarveTimeAnchor (core : Nat) (s : State) : Res :=
  let v := (s.core core).varve
  if v.frozen.isSome || v.sinceAnchor < 4096 then .fault .notEnabled
  else
    let d := s.die (core / 64)
    .next (s.modCore core fun k => { k with varve := v.anchor d.cycles s.time d.clockMHz })

/-- VARVE_DROP_RECORD: the count of the events not recorded, at the next cycle with room. -/
def execVarveDropRecord (core : Nat) (s : State) : Res :=
  let v := (s.core core).varve
  if v.frozen.isSome || v.dropped = 0 || (v.last = s.now core && 4 ≤ v.inCycle) then .fault .notEnabled
  else
    let s' := s.modCore core fun k => { k with varve := { v with dropped := 0 } }
    .next (s'.varve core 0x03 0 0 0 (field 48 32 v.dropped))

/-- ISSUE_SAMPLE: the sample of a sub-core's 4,096th pass. -/
def execIssueSample (core sub : Nat) (s : State) : Res :=
  let k := s.core core
  match (k.sub sub).sample with
  | none => .fault .notEnabled
  | some x =>
    let s := s.setCore core (k.setSub sub { (k.sub sub) with sample := none })
    .next (s.varve core 0x10 x.tenant sub x.slot (field 48 54 (x.pc / 8) + field 102 2 x.class_))

/-! ### Freezing (R412, R429 to R432) -/

/-- The core freezes: its freeze record names the origin, and it records nothing further (R431). -/
def State.freezeCore (s : State) (core origin : Nat) : State :=
  let s := s.modCore core fun k => { k with varve := { k.varve with inCycle := 0 } }
  let s := s.varve core 0x02 0 0 0 (field 48 64 s.time + field 112 5 (origin / 64) + field 117 6 (origin % 64))
  let s := s.modCore core fun k => { k with varve := { k.varve with frozen := some (k.varve.frozen.getD s.time) } }
  s.modDie (core / 64) fun d => { d with entryStop := some (d.entryStop.getD core) }

/-- Whether a core has frozen. -/
def State.isFrozen (s : State) (core : Nat) : Bool := (s.core core).varve.frozen.isSome

/-- Whether every core has frozen. -/
def State.allFrozen (s : State) : Bool := (List.range moduleCores).all s.isFrozen

/-- Inserts an origin: detection order, then ascending die and core (R432). -/
def insertOrigin (x : Origin) : List Origin → List Origin
  | [] => [x]
  | y :: r => if x.time < y.time ∨ (x.time = y.time ∧ x.core < y.core) then x :: y :: r else y :: insertOrigin x r

/-- A fatal fault found at a core: unit 0 core, 1 slice, 2 link, 3 die control core, 4 security core (R412, R429). -/
def State.fatal (s : State) (core unit : Nat) : State :=
  if s.frozen && s.allFrozen then s
  else
    let s := { s with frozen := true, origins := insertOrigin ⟨core, unit, s.time⟩ s.origins }
    if s.isFrozen core then s else s.freezeCore core core

/-- Distance of two dies of the 4 × 6 grid. -/
def dieDistance (a b : Nat) : Nat :=
  (a / 6 - b / 6) + (b / 6 - a / 6) + ((a % 6 - b % 6) + (b % 6 - a % 6))

/-- Distance of two stops of a mesh. -/
def meshDistance (a b : Nat) : Nat :=
  (a % 64 / 8 - b % 64 / 8) + (b % 64 / 8 - a % 64 / 8) + ((a % 8 - b % 8) + (b % 8 - a % 8))

/-- The nearest of the origins to a core's die. -/
def nearestOrigin (os : List Origin) (core : Nat) : Option Origin :=
  os.foldl (fun (b : Option Origin) o =>
    match b with
    | none => some o
    | some x => if dieDistance (o.core / 64) (core / 64) < dieDistance (x.core / 64) (core / 64) then some o else b)
    none

/-- A stop on the edge of a die that faces a neighbour. -/
def facesDie (core die : Nat) : Bool :=
  let d := core / 64
  let x := core % 8
  let y := core % 64 / 8
  (die == d + 1 && d % 6 != 5 && x == 7) || (die + 1 == d && d % 6 != 0 && x == 0) ||
    (die == d + 6 && y == 7) || (die + 6 == d && y == 0)

/-- Whether the freeze message may reach a core now: dies in order of their distance from the origin, each entered
from a frozen neighbour; within a die, cores in order of their distance from its entry stop (R430). -/
def State.freezeReaches (s : State) (core : Nat) (o : Origin) : Bool :=
  let d := core / 64
  match (s.die d).entryStop with
  | some e => (List.range 64).all fun i =>
      !(meshDistance (d * 64 + i) e < meshDistance core e) || s.isFrozen (d * 64 + i)
  | none =>
    ((List.range 24).all fun x =>
      !(dieDistance x (o.core / 64) < dieDistance d (o.core / 64)) || (s.die x).entryStop.isSome) &&
      (List.range 24).any fun x =>
        dieDistance x (o.core / 64) < dieDistance d (o.core / 64) && (s.die x).entryStop.isSome && facesDie core x

/-- FREEZE_ARRIVAL: the freeze message reaches a core. -/
def execFreezeArrival (core : Nat) (s : State) : Res :=
  match nearestOrigin s.origins core with
  | none => .fault .notEnabled
  | some o =>
    if moduleCores ≤ core || s.isFrozen core || !s.freezeReaches core o then .fault .notEnabled
    else .next (s.freezeCore core o.core)

/-! ### Views (R434 to R438) -/

/-- K(u) of R437. -/
def Capsule.key (k : Capsule) (u : Nat) : Nat :=
  natOfBytes (shake256 (bytesOfNat 32 k.secret.toNat ++ bytesOfNat 8 k.id.toNat ++ bytesOfNat 2 u) 32)

/-- Tenant of a record. -/
def recordTenant (r : BitVec 128) : Nat := (r.extractLsb' 24 16).toNat

/-- The leaf form of the record in slot j of segment seg (R437). -/
def Capsule.leaf (k : Capsule) (seg j : Nat) (r : BitVec 128) : BitVec 128 :=
  let m := bytesOfNat 32 (k.key (recordTenant r)) ++ bytesOfNat 8 k.id.toNat ++ bytesOfNat 2 seg ++ bytesOfNat 2 j ++
    bytesOfNat 16 r.toNat
  BitVec.ofNat 128 (r.toNat % 2 ^ 24 + 2 ^ 47 + natOfBytes (shake256 m 10) * 2 ^ 48)

/-- A record as the view of a tenant shows it. -/
def Capsule.shows (k : Capsule) (tenant seg j : Nat) (r : BitVec 128) : BitVec 128 :=
  if recordTenant r = tenant ∨ recordTenant r = 0 then r else k.leaf seg j r

/-- A segment: its number, records, F. -/
abbrev Segment := Nat × List (BitVec 128) × Nat

/-- SHAKE256 over the leaf forms of a segment. -/
def Capsule.digest (k : Capsule) (x : Segment) : Nat :=
  digest32 ((x.2.1.zipIdx.map fun r => bytesOfNat 16 (k.leaf x.1 r.2 r.1).toNat).flatten)

/-- Sum of the counts of a segment's drop records. -/
def droppedOf (rs : List (BitVec 128)) : Nat :=
  ((rs.filter fun r => r.extractLsb' 0 8 == 0x03).map fun r => (r.extractLsb' 48 32).toNat).sum

/-- A segment header (Table 22.5). -/
def Capsule.segmentHeader (k : Capsule) (x : Segment) : List Byte :=
  bytesOfNat 64 (x.1 / 64 + x.1 % 64 * 2 ^ 5 + x.2.1.length * 2 ^ 16 + droppedOf x.2.1 % 2 ^ 32 * 2 ^ 32 +
    x.2.2 % 2 ^ 64 * 2 ^ 64 + k.digest x * 2 ^ 256)

/-- Root (R438). -/
def Capsule.root (k : Capsule) : Nat := digest32 (k.segments.map k.segmentHeader).flatten

/-- An origin's field (Table 22.4). -/
def originBits (t0 : Nat) (o : Origin) : Nat :=
  o.core / 64 % 32 + o.core % 64 * 2 ^ 5 + o.unit % 32 * 2 ^ 11 + (o.time - t0) % 2 ^ 48 * 2 ^ 16

/-- The four origins listed, in their places. -/
def originsBits (t0 : Nat) (os : List Origin) : Nat :=
  ((os.take 4).zipIdx.map fun p => originBits t0 p.1 * 2 ^ (64 * p.2)).sum

/-- The signed part of the header: bytes 0 to 127. -/
def Capsule.signedPart (k : Capsule) : Nat :=
  0x56524156 + 0x01 * 2 ^ 32 + bit k.unsigned 40 + bit (k.segments.any fun x => x.2.1.any fun r =>
      r.extractLsb' 0 8 == 0x04) 41 + k.segments.length % 65536 * 2 ^ 48 + k.id.toNat * 2 ^ 64 +
    k.index.toNat * 2 ^ 128 + min 4 k.origins.length * 2 ^ 160 + k.t0 % 2 ^ 64 * 2 ^ 192 +
    originsBits k.t0 k.origins * 2 ^ 256 + k.root * 2 ^ 512

/-- The header of a tenant's view; tag 0 is the operator view (Table 22.4). -/
def Capsule.header (k : Capsule) (tenant : Nat) : Nat :=
  k.signedPart + tenant * 2 ^ 1024 + (if tenant = 0 then 0 else k.key tenant * 2 ^ 1280) + k.key 0 * 2 ^ 1536

/-- One byte of a view of the capsule region (Table 22.3). -/
def Capsule.byte (k : Capsule) (tenant off : Nat) : Byte :=
  if off < 0xE0 then (bytesOfNat 0xE0 (k.header tenant)).getD off 0
  else if off < 0x1000 then 0
  else if off < 0x1B04 then k.signature.getD (off - 0x1000) 0
  else if off < 0x2000 then 0
  else if off < 0x2000 + 64 * moduleCores then
    match k.segments.find? fun x => x.1 == (off - 0x2000) / 64 with
    | some x => (k.segmentHeader x).getD ((off - 0x2000) % 64) 0
    | none => 0
  else if off < 0x100000 then 0
  else
    let seg := (off - 0x100000) / 0x10000
    let j := (off - 0x100000) % 0x10000 / 16
    match k.segments.find? fun x => x.1 == seg with
    | some x =>
      match x.2.1[j]? with
      | some r => (bytesOfNat 16 (k.shows tenant seg j r).toNat).getD (off % 16) 0
      | none => 0
    | none => 0

/-- Bytes of a view; a region that holds no capsule reads as zero (R434). -/
def State.capsuleBytes (s : State) (tenant off len : Nat) : List Byte :=
  match s.capsule with
  | some k => (List.range len).map fun i => k.byte tenant (off + i)
  | none => List.replicate len 0

/-! ### Signing (R439 to R441) -/

/-- Takes the next index of a signing key: none when the key is exhausted, or when the commit of the limit E, which is
made first, fails (R440, R441; log 107). -/
def takeIndex (limit next tick : Nat) : Option Nat × Nat × Nat :=
  if 1048576 ≤ next ∨ (next = limit ∧ Config.commits tick = false) then (none, limit, next)
  else (some next, if next = limit then limit + 64 else limit, next + 1)

/-! ### Sealing (R433, R442) -/

/-- Changes every die. -/
def State.allDies (s : State) (f : Nat → Die → Die) : State :=
  (List.range 24).foldl (fun s d => s.modDie d (f d)) s

/-- The freeze arrival times of a die. -/
def State.freezeTimes (s : State) (die : Nat) : List Nat :=
  (List.range 64).filterMap fun i => (s.core (die * 64 + i)).varve.frozen

/-- A freeze that finds a capsule held: each die counts it (R442). -/
def State.overrun (s : State) (t0 : Nat) : State :=
  s.allDies fun _ d => { d with summary :=
    { d.summary with overruns := min 255 (d.summary.overruns + 1), lastFreeze := t0 } }

/-- Seals the frozen rings into a capsule. -/
def State.seal (s : State) (t0 : Nat) : State :=
  let id := s.capsuleId + 1
  let (index, limit, next) := takeIndex s.xmssLimit s.xmssNext s.tick
  let segments := (List.range moduleCores).map fun c =>
    (c, (s.core c).varve.ring, ((s.core c).varve.frozen).getD 0)
  let k : Capsule :=
    { secret := Config.capsuleSecret id.toNat, id := id, unsigned := index.isNone,
      index := BitVec.ofNat 32 (index.getD 0xFFFFFFFF), origins := s.origins, t0 := t0, segments := segments,
      signature := [] }
  let signature := match index with
    | some n => (Config.xmssSign 0 n (bytesOfNat 128 k.signedPart)).take 2820
    | none => []
  let s := { s with capsule := some { k with signature := signature }, capsuleId := id, xmssLimit := limit,
                    xmssNext := next, held := true }
  let extra := s.origins.length - 4
  s.allDies fun n d =>
    let fs := s.freezeTimes n
    { d with summary :=
      { d.summary with capsuleId := id, held := true, sealed := true, t0 := t0,
                       overruns := min 255 (d.summary.overruns + extra),
                       firstF := fs.foldl min (fs.headD 0), lastF := fs.foldl max 0 } }

/-- Forced resets of every context (R412). -/
def State.resetAll (s : State) (cause : Nat) : State :=
  s.contexts.foldl (fun s c => s.forcedReset c.1 cause) s

/-- CAPSULE_SEAL: after the last core has frozen; then every context is reset. -/
def execCapsuleSeal (s : State) : Res :=
  match s.origins with
  | [] => .fault .notEnabled
  | o :: _ =>
    if !s.frozen || !s.allFrozen then .fault .notEnabled
    else
      let s := if s.capsule.isSome then s.overrun o.time else s.seal o.time
      .next ({ s with origins := [] }.resetAll 3)

/-! ### Retrieval (R390, R445) -/

/-- The split of a capsule read takes the fault that ended its job (R33, R67). -/
def State.failCaprd (s : State) (j : Job) (kind cause : Nat) (lanes : Lanes) (va : Nat) : State :=
  match (s.warp? j.wg j.warp).bind fun w => w.allSplits.find? fun sp => sp.id == j.split with
  | none => s
  | some sp => s.takeTrap j.wg j.warp
      { kind := kind, cause := cause, detail := 0, lanes := lanes, pc := sp.pc, entry := sp.entry,
        counter := sp.counter, address := va, reg := 0, unit := 0, time := s.time, splits := [(sp.id, none)] }

/-- The capsule copy of a job whose destination's pages are translated. -/
def State.writeCaprd (s : State) (job : Nat) (g : WorkGroup) (off len va : Nat) : Except Stop State :=
  match s.jobs.look job with
  | none => .ok s
  | some j =>
    match s.renew g job j va 0 len len with
    | (some x, _) => .error x
    | (none, s) =>
      let pages := ((s.jobs.look job).map (·.pages)).getD []
      s.engineWrite 0 (plainBytes ((End.global va).addrs j.wg pages 0 len)
        (s.capsuleBytes (s.ctx g.ctx).tenant.toNat off len))

/-- CAPRD_JOB_COMPLETE: the capsule copy ends: the bytes are written and the split, also one that a handler has saved, goes on
with status 0. -/
def execCaprdJobComplete (job : Nat) (s : State) : Res :=
  match s.jobs.look job with
  | none => .fault .notEnabled
  | some j =>
    match j.kind, s.wgs.look j.wg with
    | .caprd off len va _ d lanes, some g =>
      if !s.jobReady j then .fault .notEnabled
      else
        match s.writeCaprd job g off len va with
        | .error (.miss m access) => .next (s.parkJob job m access)
        | .error x =>
          let (kind, cause) := match x with
            | .fails kind cause _ => (kind, cause)
            | _ => (20, 4)
          let s := match x with
            | .damaged _ place => s.noteJobEcc j.wg j.warp place
            | _ => s
          .next (((s.endJob job none).modWarp j.wg j.warp fun w => w.unpark j.split).failCaprd j kind cause lanes va)
        | .ok s =>
          let s := s.endJob job none
          .next (s.modWarp j.wg j.warp fun w =>
            if !w.allSplits.any fun sp => sp.id == j.split then w
            else
              let w := (w.wrAll d 1 ((unitsOf d lanes).map fun l => (l, 0))).openRegion
              w.modSplit j.split fun sp =>
                { w.atRegion sp ((sp.pc + 8) % 2 ^ 57) with readyAt := s.now g.core, aged := false })
    | _, _ => .fault .notEnabled

end Sys2Proof.Machine
end

