-- ==== Sys2Proof/Machine/Power.lean ====
section
/-! DEFINITION. Power, clocks, bring-up and resets, links and patrol (file 24, R465 to R467; file 02, R61, R65 to
R69; file 22, R440, R443). -/

namespace Sys2Proof.Machine

/-! ### Power and clocks (R467) -/

/-- Headroom at a junction temperature in degrees. -/
def headroomAt (tj : Int) : Nat := (min 256 (max 0 ((105 - tj) * 256 / 10))).toNat

/-- Budget at a headroom (R205). -/
def budgetAt (h : Nat) : Nat := max 600 (4800 * h / 256)

/-- POWER_SAMPLE: every 10 µs a die's power manager measures Tj: headroom, budget, whether issue stops; the 10 µs window of
the launcher ends (R205, R207). -/
def execPowerSample (die : Nat) (tj : Int) (s : State) : Res :=
  if 24 ≤ die || s.time < (s.die die).sampledAt + 10000 then .fault .notEnabled
  else
    let h := headroomAt tj
    let s := (s.countWindow die).modDie die fun d =>
      { d with tj := tj, headroom := h, budget := budgetAt h, sampledAt := s.time,
               stopped := if 112 ≤ tj then true else if tj ≤ 100 then false else d.stopped,
               powerOver := Config.sense 0 die s.tick, hbmHot := Config.sense 1 die s.tick }
    .next { s with moduleOver := Config.sense 2 die s.tick }

/-- Whether a die's own limits hold its clock down (Table 24.3). -/
def Die.limited (d : Die) : Bool := d.powerOver || d.hbmHot || 95 < d.tj

/-- Changes the clock of a die: every core of it records the change and an anchor; a lowered clock marks the running launches
as throttled (R225, R467; log 108). -/
def State.setClock (s : State) (die mhz : Nat) : State :=
  let lowered := mhz < (s.die die).clockMHz
  let s := s.modDie die fun d => { d with clockMHz := mhz, stepAt := s.time }
  let d := s.die die
  let s := (List.range 64).foldl (fun s i =>
    let core := die * 64 + i
    let s := s.varve core 0x36 0 0 0 (field 48 12 mhz + field 60 16 d.budget)
    s.modCore core fun k =>
      if k.varve.frozen.isSome then k else { k with varve := k.varve.anchor d.cycles s.time mhz }) s
  { s with launches := s.launches.map fun p =>
      (p.1, { p.2 with throttled := p.2.throttled || (lowered && p.2.started.isSome) }) }

/-- CLOCK_STEP_DOWN: one 100 MHz step per 1 ms, floor 700 MHz; over module power every die steps. -/
def execClockStepDown (die : Nat) (s : State) : Res :=
  let d := s.die die
  if 24 ≤ die || d.clockMHz ≤ 700 || s.time < d.stepAt + 1000000 then .fault .notEnabled
  else if s.moduleOver then
    .next ((List.range 24).foldl (fun s n =>
      if (s.die n).clockMHz ≤ 700 then s else s.setClock n ((s.die n).clockMHz - 100)) s)
  else if d.limited then .next (s.setClock die (d.clockMHz - 100))
  else .fault .notEnabled

/-- CLOCK_STEP_UP: one step per 10 ms once every condition has cleared. -/
def execClockStepUp (die : Nat) (s : State) : Res :=
  let d := s.die die
  if 24 ≤ die || 1400 ≤ d.clockMHz || s.time < d.stepAt + 10000000 || d.limited || s.moduleOver
  then .fault .notEnabled
  else .next (s.setClock die (d.clockMHz + 100))

/-! ### Links and patrol (R61, R65, R68, R69) -/

/-- LINK_CRC_RETRANSMIT: a flit between two neighbouring dies is sent again: timing only. -/
def execLinkCrcRetransmit (src dst : Nat) (s : State) : Res :=
  if src < 24 && dst < 24 && dieDistance src dst == 1 then .next s else .fault .notEnabled

/-- LINK_RETRAIN_FAILURE: a fatal fault at the stop of the link's endpoint (R61, R412, R429). -/
def execLinkRetrainFailure (core : Nat) (s : State) : Res :=
  if core < moduleCores && s.powered then .next (s.fatal core 2) else .fault .notEnabled

/-- Counts a corrected error of a die (R65). -/
def State.countCorrected (s : State) (die : Nat) : State :=
  s.modDie die fun d => { d with corrected := d.corrected + 1 }

/-- PATROL_SCRUB: the patrol reads a line in its slice and in HBM: it logs the uncorrectable errors, and counts one that it
corrects, if it finds one there (R69; log 42). It changes no value. -/
def execPatrolScrub (line : Nat) (s : State) : Res :=
  let die := homeDie (line * 128)
  let inSlice := (s.l2Line line).any fun x => !x.bad.isEmpty
  let inHbm := s.lostLine line || s.hbmBad.any fun g => g / 4 == line
  if !isHbm (line * 128) then .fault .notEnabled
  else if inSlice || inHbm then
    let s := if inSlice then s.logEcc die .l2 (line * 128) else s
    .next (if inHbm then s.logEcc die .hbm (line * 128) else s)
  else if Config.pick s.tick % 2 = 1 then .next (s.countCorrected die)
  else .next s

/-! ### Errors of memory cells (R65 to R70, R412): inputs from outside (log 42) -/

/-- Marks words of a work-group's memories uncorrectable. -/
def State.spoilWords (s : State) (u : Nat) (xs : List PoolWord) : State :=
  s.modWg u fun g => { g with damaged := g.damaged ++ xs.filter fun x => !g.damaged.contains x }

/-- The words of a tile that share one code word: two elements of a dedicated tile, one of an extension tile (Table 2.5). -/
def tileGranule (k : Nat) : List Nat := if k / 4096 < 32 then [k / 2 * 2, k / 2 * 2 + 1] else [k]

/-- Whether a 64-bit word of a bank copy holds something: eight codes, or from 4,096 on eight indices (log 139). -/
def BankCopy.holds (b : BankCopy) (word : Nat) : Bool :=
  (if word < 4096 then b.codes else b.index).any fun p => p.1 / 8 == word % 4096

/-- A bank copy with an uncorrectable word. -/
def BankCopy.spoil (b : BankCopy) (word : Nat) : BankCopy :=
  if b.valid && b.holds word && !b.damaged.contains word then { b with damaged := b.damaged ++ [word] } else b

/-- The bytes of a line that stand in HBM, behind a line that its slice has written. -/
def State.inHbm (s : State) (line : Nat) : List Byte :=
  match s.l2Line line with
  | some x => if x.dirty then x.behind else s.hbmBytes line
  | none => s.hbmBytes line

/-- Drops a clean copy that is beyond correction, and counts it (R66). -/
def State.dropCopy (s : State) (core : Nat) (there : Bool) (drop : Core → Core) : State :=
  if there then (s.modCore core drop).countCorrected (core / 64) else s

/-- What an error of a memory cell does; one that strikes nothing passes. Memory that has never been written yields no
uncorrectable error (R70; log 42). -/
def State.upset (s : State) (x : Upset) : State :=
  match x with
  | .corrected die => s.countCorrected die
  | .correctedPool u =>
    match s.wgs.look u with
    | some g => (s.countCorrected (g.core / 64)).modWg u fun g => g.count 10 1
    | none => s
  | .l1 core line =>
    if ((s.core core).l1.look line).isSome then (s.dropLine core line).countCorrected (core / 64) else s
  | .code core key =>
    s.dropCopy core ((s.core core).icache.look key).isSome fun k => { k with icache := k.icache.del key }
  | .trace core entry =>
    s.dropCopy core (decide (entry < (s.core core).traces.length)) fun k => { k with traces := k.traces.eraseIdx entry }
  | .translation core entry =>
    s.dropCopy core (decide (entry < (s.core core).tlb.length)) fun k => { k with tlb := k.tlb.eraseIdx entry }
  | .dieTranslation die entry =>
    if entry < (s.die die).tlb.length then
      (s.modDie die fun d => { d with tlb := d.tlb.eraseIdx entry }).countCorrected die
    else s
  | .walkCache die entry =>
    if entry < (s.die die).walks.length then
      (s.modDie die fun d => { d with walks := d.walks.eraseIdx entry }).countCorrected die
    else s
  | .l2 grain =>
    let line := grain / 4
    let die := homeDie (line * 128)
    match s.l2Line line with
    | none => s
    | some y =>
      if !y.dirty then
        (s.modDie die fun d => { d with l2 := d.l2.filter fun p => p.1 != line }).countCorrected die
      else if y.bad.contains (grain % 4) then s
      else s.modDie die fun d => { d with l2 := d.l2.map fun p =>
        if p.1 = line then (line, { y with bad := y.bad ++ [grain % 4] }) else p }
  | .hbm grain =>
    if isHbm (grain * 32) && (s.inHbm (grain / 4)).any (· != 0) && !s.hbmBad.contains grain then
      { s with hbmBad := s.hbmBad ++ [grain] }
    else s
  | .register u i k =>
    s.modWarp u i fun w => if Sparse.get (0 : Word) w.regs k = 0 then w else { w with damaged := w.damaged.set false k true }
  | .scratch u n =>
    let s := s.modWg u WorkGroup.show_
    if s.valueAt (.scratch u (4 * n)) 4 = 0 then s else s.spoilWords u [.scratch n]
  | .tile u k =>
    match s.wgs.look u with
    | some g =>
      if (tileGranule k).all fun e => Sparse.get (0 : Word) g.tiles e == 0 then s
      else s.spoilWords u ((tileGranule k).map .tile)
    | none => s
  | .bank u n shadow word =>
    s.modWg u fun g =>
      if shadow then { g with shadows := g.shadows.modify n fun b => b.spoil word }
      else { g with banks := g.banks.modify n fun b => b.spoil word }
  | .ring core => if core < moduleCores && s.powered then s.fatal core 0 else s
  | .control die => if die < 24 && s.powered then s.fatal (die * 64) 3 else s

/-! ### Bring-up (R466) -/

/-- The module at the start of a bring-up: SRAM and HBM zeroed, but for a held capsule and its summaries; host and
peer memory, routes and non-volatile storage stay; n := E (R70, R440, R443, R466). -/
def State.restart (s : State) (warm : Bool) : State :=
  let dies := if s.held then s.dies.map fun d => (d.1, { Die.reset with summary := d.2.summary }) else []
  { State.reset with
    agenda := s.agenda, tick := s.tick, order := s.order, nextUid := s.nextUid, time := s.time,
    resetAt := s.time, powered := true, warm := warm, mem := s.mem.filter fun p => !isHbm p.1,
    routes := s.routes, debugger := s.debugger,
    dies := dies.filter fun d => d.2 != Die.reset, xmssLimit := s.xmssLimit, xmssNext := s.xmssLimit,
    identityLimit := s.identityLimit, identityNext := s.identityLimit, capsuleId := s.capsuleId,
    capsule := s.capsule, held := s.held }

/-- Every ring begins with a time anchor (R423, R425). -/
def State.anchorAll (s : State) : State :=
  { s with cores := (List.range moduleCores).map fun c =>
      (c, { Core.reset with varve := Varve.reset.anchor 0 s.time 1400 }) }

/-- The error code of a failing step (Table 24.1). -/
def stepError (step error : Nat) : Bool := 1 ≤ step && step ≤ 4 && error == step

/-- A bring-up with its result. -/
def State.bringUp (s : State) (warm : Bool) (r : BringUp) : Option State :=
  let s := s.restart warm
  match r with
  | .completes => some { s.anchorAll with ready := true, step_ := 6 }
  | .fails step error => if stepError step error then some { s with step_ := step, error := error } else none
  | .lasts step => if 1 ≤ step ∧ step ≤ 6 then some { s with step_ := step } else none

/-- How a bring-up goes that no input says (log 2). -/
def anyBringUp (n : Nat) : BringUp :=
  match n % 6 with
  | 0 => .completes
  | 5 => .lasts 5
  | k => .fails k k

/-- POWER_GOOD: bring-up. -/
def execPowerGood (result : BringUp) (s : State) : Res :=
  if s.powered then .fault .notEnabled
  else
    match s.bringUp false result with
    | some s => .next s
    | none => .fault .notEnabled

/-- BRING_UP_TIMEOUT: a step still running at 30 s stops bring-up with Error 5. -/
def execBringUpTimeout (s : State) : Res :=
  if !s.powered || s.ready || s.error ≠ 0 || s.step_ = 0 || s.time < s.resetAt + 30000000000 then .fault .notEnabled
  else .next { s with error := 5 }

/-- The module without power: all is lost but the non-volatile storage; host and peer memory are not the module's
(R443). -/
def State.unpowered (s : State) : State :=
  { State.reset with
    agenda := s.agenda, tick := s.tick, order := s.order, nextUid := s.nextUid, time := s.time,
    mem := s.mem.filter fun p => !isHbm p.1,
    routes := s.routes, debugger := s.debugger, xmssLimit := s.xmssLimit, xmssNext := s.xmssLimit, identityLimit := s.identityLimit,
    identityNext := s.identityLimit, capsuleId := s.capsuleId }

/-- POWER_LOSS. -/
def execPowerLoss (s : State) : Res := .next s.unpowered

/-- Whether a capsule is being sealed (R443, R445). -/
def State.sealing (s : State) : Bool := s.frozen && s.capsule.isNone && !s.origins.isEmpty

/-- MANAGEMENT_WARM_RESET: bring-up begins again, once a seal in progress is complete (R443, R466). -/
def execManagementWarmReset (s : State) : Res :=
  if !s.powered || s.sealing then .fault .notEnabled
  else
    match s.bringUp true (anyBringUp (Config.pick s.tick)) with
    | some s => .next s
    | none => .fault .notEnabled

/-- MANAGEMENT_COLD_RESET: power is taken away and comes back (R465). -/
def execManagementColdReset (s : State) : Res :=
  match s.unpowered.bringUp false (anyBringUp (Config.pick s.tick)) with
  | some s => .next s
  | none => .fault .notEnabled

end Sys2Proof.Machine
end

