-- ==== Sys2Proof/Machine/Host.lean ====
section
/-! DEFINITION. The host link, peer modules, scale-out sessions and the management link (file 24, R460, R463 to R465,
R468; file 05, R146, R148; file 22, R444 to R446). -/

namespace Sys2Proof.Machine

/-! ### Inbound accesses (R146, R148, R460) -/

/-- Consecutive physical bytes. -/
def physRun (pa len : Nat) : List Addr := (List.range len).map fun i => .phys (pa + i)

/-- Answers an inbound access. -/
def State.answer (s : State) (fail : Bool) (bytes : List Byte) : State := { s with hostFail := fail, hostOut := bytes }

/-- Whether an inbound access waits behind one that arrived before it from the same sender: a read behind every write, a
write behind a write unless one of the two has the Relaxed Ordering attribute (R146, R148; log 144). -/
def Inbound.behind (x y : Inbound) : Bool :=
  y.order < x.order && y.peer == x.peer && y.write.isSome && (x.write.isNone || (!y.relaxed && !x.relaxed))

/-- Whether an inbound access that has arrived is not performed yet: behind earlier ones, claims recorded before it
arrived, or locks of commits (R141, R146, R168). -/
def State.inboundHeld (s : State) (x : Inbound) : Bool :=
  s.inbound.any x.behind || s.holdsBack (some x.order) (runLocs x.addr x.len)

/-- An inbound access is performed at its home slices. A read that meets damage answers an error, a write that damage does
not let in is not performed; firmware gets the log (R67). -/
def State.performInbound (s : State) (x : Inbound) : State :=
  let as := physRun x.addr x.len
  match x.write with
  | some bytes =>
    match s.badWrite (plainBytes as bytes) with
    | some a => (s.logAddr a).answer true []
    | none => (s.writeBytes (plainBytes as bytes)).answer false []
  | none =>
    match as.find? s.badAddr with
    | some a => (s.logAddr a).answer true []
    | none => (s.touchLines 0 as).answer false (as.map s.byteAt)

/-- An inbound access arrives: it is performed at once where nothing holds it, or waits in its place (R146, R148). -/
def State.arrive (s : State) (peer : Option Nat) (addr : Nat) (write : Option (List Byte)) (len : Nat)
    (relaxed : Bool) : Res :=
  let x : Inbound := ⟨peer, addr, write, len, s.order, relaxed⟩
  if s.inboundHeld x then .next { s.stamp.2 with inbound := s.inbound ++ [x] } else .next (s.performInbound x)

/-- An inbound access that waited is performed. -/
def State.inboundTurn (s : State) (n : Nat) : Res :=
  match s.inbound[n]? with
  | none => .fault .notEnabled
  | some x =>
    if s.inboundHeld x then .fault .notEnabled
    else .next ({ s with inbound := s.inbound.eraseIdx n }.performInbound x)

/-- The physical address of a run of BAR2, none when the access gets Unsupported Request (R460). -/
def State.barAddr (s : State) (offset len : Nat) : Option Nat :=
  let pa := s.barWindow.toNat * 2 ^ 36 + offset
  if 47 < s.barWindow.toNat || 2 ^ 36 < offset + len || inReserve pa || inReserve (pa + (len - 1)) then none else some pa

/-- A posted write of the host, with or without the Relaxed Ordering attribute (R146). -/
def State.hostPosts (s : State) (offset : Nat) (bytes : List Byte) (relaxed : Bool) : Res :=
  if !s.ready || bytes.isEmpty then .fault .notEnabled
  else
    match s.barAddr offset bytes.length with
    | none => .next (s.answer true [])
    | some pa => s.arrive none pa (some bytes) bytes.length relaxed

/-- HOST_WRITE: one without the attribute; `Turn.relaxed` is one with it. -/
def execHostWrite (offset : Nat) (bytes : List Byte) (s : State) : Res := s.hostPosts offset bytes false

/-- HOST_READ. -/
def execHostRead (offset len : Nat) (s : State) : Res :=
  if !s.ready || len = 0 then .fault .notEnabled
  else
    match s.barAddr offset len with
    | none => .next (s.answer true [])
    | some pa => s.arrive none pa none len false

/-- PEER_INBOUND_ACCESS: a read or a write at an address of this module's HBM; a firmware reserve rejects it (R56). -/
def execPeerInboundAccess (peer addr : Nat) (write : Option (List Byte)) (len : Nat) (s : State) : Res :=
  let n := match write with
    | some bs => bs.length
    | none => len
  if !s.ready || !s.routes.contains peer || n = 0 then .fault .notEnabled
  else if hbmTop < addr + n || inReserve addr || inReserve (addr + (n - 1)) then .next (s.answer true [])
  else s.arrive (some peer) addr write n false

/-! ### Peers (R148, R463) -/

/-- PEER_ACKNOWLEDGEMENT: a peer acknowledges the oldest write it has performed. -/
def execPeerAcknowledgement (peer : Nat) (s : State) : Res :=
  match s.peerPending.find? fun p => p.1 == peer with
  | none => .fault .notEnabled
  | some p => .next { s with peerPending := s.peerPending.erase p }

/-- LIVE_ROUTE_CHANGE: the route to a peer module index is lost or returns. -/
def execLiveRouteChange (peer : Nat) (up : Bool) (s : State) : Res :=
  if 256 ≤ peer then .fault .notEnabled
  else
    let rest := s.routes.filter (· != peer)
    .next { s with routes := if up then (rest.filter (· < peer)) ++ peer :: rest.filter (peer < ·) else rest }

/-! ### Registers (R460, R468) -/

/-- A doorbell: a write that would overfill the ring is ignored. -/
def State.setTail (s : State) (page : Nat) (tail : Word) : State :=
  let p := s.page page
  if 4096 < (tail - p.cmdHead).toNat then s else s.setPage page { p with cmdTail := tail }

/-- A write to CplHead: held completions and events are written. -/
def State.setCplHead (s : State) (page : Nat) (value : Word) : State :=
  let p := s.page page
  (s.setPage page { p with cplHead := value }).release page p.held.length

/-- A write to LrRead: launch-record slots are free again (R225). -/
def State.setLrRead (s : State) (page : Nat) (value : Word) : State :=
  s.setPage page { (s.page page) with lrRead := value }

/-- DOORBELL. -/
def execDoorbell (page : Nat) (tail : BitVec 32) (s : State) : Res :=
  if 64 ≤ page then .fault .notEnabled else .next (s.setTail page tail)

/-- CPL_HEAD_WRITE. -/
def execCplHeadWrite (page : Nat) (value : BitVec 32) (s : State) : Res :=
  if 64 ≤ page then .fault .notEnabled else .next (s.setCplHead page value)

/-- LR_READ_WRITE. -/
def execLrReadWrite (page : Nat) (value : BitVec 32) (s : State) : Res :=
  if 64 ≤ page then .fault .notEnabled else .next (s.setLrRead page value)

/-- A ring base as its register holds it: bits [11:0] zero. -/
def ringBase (x : Dword) : Dword := x &&& ~~~(0xFFF#64)

/-- A write to a register of a command page, by its byte offset (Table 24.4). The others are read-only. -/
def State.writePage (s : State) (page reg : Nat) (x : Dword) : State :=
  let p := s.page page
  match reg with
  | 0x00 => s.setPage page { p with cmdBase := ringBase x }
  | 0x08 => s.setPage page { p with cplBase := ringBase x }
  | 0x10 => s.setTail page (x.truncate 32)
  | 0x1C => s.setCplHead page (x.truncate 32)
  | 0x20 => s.setLrRead page (x.truncate 32)
  | 0x28 => s.setPage page { p with irqMask := x.truncate 32 &&& 7 }
  | _ => s

/-- REGISTER_WRITE: BAR0, by byte offset. -/
def execRegisterWrite (offset : Nat) (value : BitVec 64) (s : State) : Res :=
  if 2 ^ 24 ≤ offset || !s.powered then .fault .notEnabled
  else if offset = 8 then .next { s with barWindow := value }
  else if 0x100000 ≤ offset && offset < 0x500000 then
    .next (s.writePage ((offset - 0x100000) / 0x10000) ((offset - 0x100000) % 0x10000) value)
  else .next s

/-! ### Scale-out sessions (R464) -/

/-- The two keys a shared secret expands to. -/
def sessionKeys (secret : BitVec 256) : BitVec 256 × BitVec 256 :=
  let m := shake256 (bytesOfNat 32 secret.toNat) 64
  (BitVec.ofNat 256 (natOfBytes (m.take 32)), BitVec.ofNat 256 (natOfBytes (m.drop 32)))

/-- The nonce: session id, frame counter. -/
def nonceOf (session counter : Nat) : BitVec 96 := BitVec.ofNat 96 (session % 2 ^ 32 * 2 ^ 64 + counter % 2 ^ 64)

/-- SESSION_AGREE: the two sides agree keys; the transcript is signed with the identity key (R440, R464). -/
def execSessionAgree (session port : Nat) (s : State) : Res :=
  let (index, limit, next) := takeIndex s.identityLimit s.identityNext s.tick
  if !s.ready || (s.sessions.look session).isSome || index.isNone || 2 ^ 32 ≤ session || 16 ≤ port then .fault .notEnabled
  else
    let (n, s) := s.fresh
    let (tx, rx) := sessionKeys (Config.sessionSecret n)
    let x : Session :=
      { port := port, txKey := tx, rxKey := rx, oldRxKey := none, txCounter := 0, rxHigh := 0, rxSeen := [], sent := 0,
        dropped := 0, delivered := [], outbox := [] }
    .next { s with sessions := s.sessions.put session (some x), identityLimit := limit, identityNext := next }

/-- Whether a frame counter is new and inside the replay window of 1,024. -/
def Session.fresh (x : Session) (counter : Nat) : Bool :=
  x.rxHigh < counter + 1024 && !x.rxSeen.contains counter

/-- The receive key under which a frame's tag holds: the new one, or for 1 ms the old one. -/
def Session.keyFor (x : Session) (nonce : BitVec 96) (body : List Byte) (tag : BitVec 128) : Option (BitVec 256) :=
  if Config.gcmTag x.rxKey nonce body = tag then some x.rxKey
  else
    match x.oldRxKey with
    | some (k, _) => if Config.gcmTag k nonce body = tag then some k else none
    | none => none

/-- FRAME_RECEIVE: a frame is delivered, or dropped and counted. -/
def execFrameReceive (session : Nat) (counter : BitVec 64) (body : List Byte) (tag : BitVec 128) (s : State) : Res :=
  match s.sessions.look session with
  | none => .fault .notEnabled
  | some x =>
    let nonce := nonceOf session counter.toNat
    let put (y : Session) : Res := .next { s with sessions := s.sessions.put session (some y) }
    match x.keyFor nonce body tag with
    | some key =>
      if x.fresh counter.toNat then
        let high := max x.rxHigh counter.toNat
        put { x with delivered := x.delivered ++ [Config.gcmSeal key nonce body], rxHigh := high,
                     rxSeen := (counter.toNat :: x.rxSeen).filter fun c => high < c + 1024 }
      else put { x with dropped := x.dropped + 1 }
    | none => put { x with dropped := x.dropped + 1 }

/-- FRAME_TRANSMIT: a frame is sealed and sent; a session whose counter would wrap is closed; after 2^32 frames it
rekeys first. -/
def execFrameTransmit (session : Nat) (body : List Byte) (s : State) : Res :=
  match s.sessions.look session with
  | none => .fault .notEnabled
  | some x =>
    if 2 ^ 32 ≤ x.sent then .fault .notEnabled
    else if 2 ^ 64 - 1 ≤ x.txCounter then .next { s with sessions := s.sessions.del session }
    else
      let nonce := nonceOf session x.txCounter
      let sealed := Config.gcmSeal x.txKey nonce body
      let frame := bytesOfNat 8 x.txCounter ++ sealed ++ bytesOfNat 16 (Config.gcmTag x.txKey nonce sealed).toNat
      .next { s with sessions := s.sessions.put session (some
        { x with txCounter := x.txCounter + 1, sent := x.sent + 1, outbox := x.outbox ++ [frame] }) }

/-- SESSION_REKEY: new keys after 2^32 frames; the old receive key holds for 1 ms more. -/
def execSessionRekey (session : Nat) (s : State) : Res :=
  match s.sessions.look session with
  | none => .fault .notEnabled
  | some x =>
    if x.sent < 2 ^ 32 then .fault .notEnabled
    else
      let (n, s) := s.fresh
      let (tx, rx) := sessionKeys (Config.sessionSecret n)
      .next { s with sessions := s.sessions.put session (some
        { x with txKey := tx, rxKey := rx, oldRxKey := some (x.rxKey, s.time + 1000000), sent := 0 }) }

/-- OLD_KEY_EXPIRY. -/
def execOldKeyExpiry (session : Nat) (s : State) : Res :=
  match s.sessions.look session with
  | none => .fault .notEnabled
  | some x =>
    match x.oldRxKey with
    | none => .fault .notEnabled
    | some (_, t) =>
      if s.time < t then .fault .notEnabled
      else .next { s with sessions := s.sessions.put session (some { x with oldRxKey := none }) }

/-! ### The management link (R444 to R446, R465) -/

/-- Answers a read of the management link. -/
def State.mgmt (s : State) (bytes : List Byte) : Res := .next { s with mgmtOut := bytes, mgmtBusy := false }

/-- Module status register (Table 24.1). -/
def State.status (s : State) : Nat :=
  bit s.ready 0 + bit s.warm 1 + bit s.held 2 + bit s.frozen 3 + s.step_ % 256 * 2 ^ 8 + s.error % 256 * 2 ^ 16 +
    (s.time - s.resetAt) / 1000000 % 2 ^ 32 * 2 ^ 32

/-- Per-die summary (Table 22.6). -/
def Summary.bits (x : Summary) : Nat :=
  x.capsuleId.toNat + bit x.held 64 + bit x.sealed 65 + x.overruns % 256 * 2 ^ 72 + x.t0 % 2 ^ 64 * 2 ^ 128 +
    x.firstF % 2 ^ 64 * 2 ^ 192 + x.lastF % 2 ^ 64 * 2 ^ 256 + x.lastFreeze % 2 ^ 64 * 2 ^ 320

/-- MANAGEMENT_READ_STATUS. -/
def execManagementReadStatus (s : State) : Res := s.mgmt (bytesOfNat 8 s.status)

/-- MANAGEMENT_READ_SUMMARY. -/
def execManagementReadSummary (die : Nat) (s : State) : Res :=
  if 24 ≤ die then .fault .notEnabled else s.mgmt (bytesOfNat 64 (s.die die).summary.bits)

/-- MANAGEMENT_READ_CAPSULE: a 128-byte block of the operator view, busy while a capsule is being sealed. -/
def execManagementReadCapsule (block : Nat) (s : State) : Res :=
  if 2 ^ 20 ≤ block then .fault .notEnabled
  else if s.sealing then .next { s with mgmtOut := [], mgmtBusy := true }
  else s.mgmt (s.capsuleBytes 0 (128 * block) 128)

/-- MANAGEMENT_READ_KEYS. -/
def execManagementReadKeys (s : State) : Res := s.mgmt (Config.publicKey 0 ++ Config.publicKey 1)

/-- MANAGEMENT_READ_TELEMETRY: temperatures, power and clocks; the spec gives the answer no form (log 17). -/
def execManagementReadTelemetry (s : State) : Res := s.mgmt (Config.telemetry s.tick)

/-- Whether a `caprd` job is in flight. -/
def State.reading (s : State) : Bool := s.jobs.any fun p =>
  match p.2.kind with
  | .caprd .. => true
  | _ => false

/-- A debugger is attached to the management link, or detached: breakpoints are reported to it while it is (R392). -/
def State.attachDebugger (s : State) (on : Bool) : State := { s with debugger := on }

/-- Releases the held capsule: S is gone, the region reads zero, Held and Sealed are clear (R446). -/
def State.releaseCapsule (s : State) : State :=
  { s with capsule := none, held := false }.allDies fun _ d =>
    { d with summary := { d.summary with held := false, sealed := false } }

/-- MANAGEMENT_CAPSULE_RELEASE: waits for the capsule reads recorded before, and for a seal in progress. -/
def execManagementCapsuleRelease (s : State) : Res :=
  if s.reading || s.sealing then .fault .notEnabled else .next s.releaseCapsule

end Sys2Proof.Machine
end

