-- ==== Sys2Proof/Machine/Loader.lean ====
section
/-! DEFINITION. VKO containers: their checks, the selection of an image, relocation, mapping and measurement (file 23,
R448 to R459). -/

namespace Sys2Proof.Machine

/-- Bytes of a container from an offset. -/
def sliceOf (b : List Byte) (off len : Nat) : List Byte := (b.drop off).take len

/-- A little-endian field of a container, in bytes. -/
def fieldOf (b : List Byte) (off len : Nat) : Nat := natOfBytes (sliceOf b off len)

/-- A segment entry (Table 23.2). -/
structure Seg where
  kind : Nat
  writable : Bool
  /-- bits [15:9] or [127:104] are not zero -/
  reserved : Bool
  link : Nat
  revision : Nat
  features : Nat
  align : Nat
  off : Nat
  fileSize : Nat
  memSize : Nat
  digest : Nat
  deriving DecidableEq, Repr

def segOf (x : Nat) : Seg :=
  { kind := entryBits x 0 8, writable := entryBits x 8 1 = 1,
    reserved := entryBits x 9 7 ≠ 0 ∨ entryBits x 104 24 ≠ 0, link := entryBits x 16 16,
    revision := entryBits x 32 32, features := entryBits x 64 32, align := entryBits x 96 8,
    off := entryBits x 128 32, fileSize := entryBits x 160 32, memSize := entryBits x 192 64,
    digest := entryBits x 256 256 }

/-- Why a load fails (Table 23.4): status, segment index, byte offset. -/
structure LoadError where
  status : Nat
  segment : Nat
  offset : Nat
  deriving DecidableEq, Repr

def loadError (status : Nat) : LoadError := ⟨status, 0xFFFF, 0⟩

/-! ### The checks of R448 and R449 -/

/-- Whether two runs of bytes overlap. -/
def overlaps (a n b m : Nat) : Bool := n != 0 && m != 0 && a < b + m && b < a + n

/-- Whether a segment entry breaks the form of Table 23.2. -/
def Seg.malformed (g : Seg) (segs : List Seg) (size sigOff : Nat) : Bool :=
  let linkKind (k : Nat → Bool) : Bool :=
    match segs[g.link]? with
    | some x => k x.kind
    | none => false
  g.reserved || g.kind == 0 || 5 < g.kind || (g.writable && g.kind != 3) || g.align < 16 || 29 < g.align ||
    (g.kind != 1 && (g.revision != 0 || g.features != 0)) || g.memSize < g.fileSize || size < g.off + g.fileSize ||
    overlaps g.off g.fileSize 0 (64 + 64 * segs.length) || overlaps g.off g.fileSize sigOff 2820 ||
    !(match g.kind with
      | 4 => linkKind fun _ => true
      | 5 => linkKind fun _ => true
      | 2 => linkKind (· == 5)
      | _ => g.link == 0xFFFF)

/-- The segment table of a container, or error format. -/
def readTable (b : List Byte) : Except LoadError (List Seg) :=
  let n := fieldOf b 6 2
  let size := fieldOf b 8 8
  let sigOff := fieldOf b 48 4
  if fieldOf b 0 4 ≠ 0x014F4B56 ∨ fieldOf b 4 2 ≠ 1 ∨ n = 0 ∨ 256 < n ∨ fieldOf b 52 12 ≠ 0 ∨ sigOff % 8 ≠ 0 ∨
      size < sigOff + 2820 ∨ overlaps sigOff 2820 0 (64 + 64 * n) ∨ b.length ≠ size then .error (loadError 1)
  else
    let segs := (List.range n).map fun i => segOf (fieldOf b (64 + 64 * i) 64)
    match (segs.zipIdx.find? fun p => p.1.malformed segs size sigOff) with
    | some p => .error ⟨1, p.2, 0⟩
    | none => .ok segs

/-- Publisher, signature and digests, in that order (R449). -/
def authentic (b : List Byte) (segs : List Seg) (keys : List (BitVec 256)) : Option LoadError :=
  let publisher := BitVec.ofNat 256 (fieldOf b 16 32)
  if !keys.contains publisher then some (loadError 2)
  else if !Config.xmssVerify publisher (b.take (64 + 64 * segs.length)) (sliceOf b (fieldOf b 48 4) 2820)
    then some (loadError 3)
  else (segs.zipIdx.find? fun p => digest32 (sliceOf b p.1.off p.1.fileSize) != p.1.digest).map fun p => ⟨4, p.2, 0⟩

/-! ### The image (R454, R459) -/

/-- Index of the native image a context gets. -/
def nativeImage (segs : List Seg) (feat1 : Nat) : Option Nat :=
  let fit := segs.zipIdx.filter fun p => p.1.kind == 1 && p.1.features &&& feat1 == p.1.features
  match fit.find? fun p => p.1.revision == Config.deviceRevision.toNat with
  | some p => some p.2
  | none =>
    (fit.foldl (fun (b : Option (Seg × Nat)) p =>
      match b with
      | none => some p
      | some x => if x.1.revision < p.1.revision then some p else b) none).map (·.2)

/-- What is mapped of a segment: its index, contents, size in memory, whether code or writable, its measure and the
tag of its extension. -/
structure Mapped where
  index : Nat
  bytes : List Byte
  memSize : Nat
  code : Bool
  writable : Bool
  align : Nat
  digest : Nat
  tag : Nat
  base : Nat
  deriving DecidableEq, Repr

/-- A segment of a container, mapped as it is. -/
def Seg.mapped (g : Seg) (b : List Byte) (i base : Nat) : Mapped :=
  ⟨i, sliceOf b g.off g.fileSize, g.memSize, g.kind == 1, g.writable, g.align, g.digest, 0x02, base⟩

/-- The translation of a Bacel module, as what is mapped in its place (R453, R459); a module that is rejected names the
line by its offset in the segment. -/
def translation (g : Seg) (b : List Byte) (i base : Nat) : Except LoadError Mapped :=
  match Bacel.parse (sliceOf b g.off g.fileSize) with
  | .error line => .error ⟨10, i, line⟩
  | .ok _ =>
    let image := Config.bacelImage (sliceOf b g.off g.fileSize)
    let measure := digest32 (bytesOfNat 32 g.digest ++ bytesOfNat 4 Config.bacelVersion.toNat ++ image)
    .ok ⟨i, image, max g.memSize image.length, true, false, g.align, measure, 0x03, base⟩

/-- The image and the data segments, in table order; with the index of the native image. -/
def chooseSegments (b : List Byte) (segs : List Seg) (feat1 : Nat) (bases : List Nat) :
    Except LoadError (List Mapped × Option Nat) :=
  let base (i : Nat) : Nat := bases.getD i 0
  let data (keep : Nat) : List Mapped :=
    (segs.zipIdx.filter fun p => p.1.kind == 3 || p.2 == keep).map fun p => p.1.mapped b p.2 (base p.2)
  match nativeImage segs feat1 with
  | some n => .ok (data n, some n)
  | none =>
    match segs.zipIdx.find? fun p => p.1.kind == 2 with
    | none => .error (loadError 5)
    | some p =>
      match translation p.1 b p.2 (base p.2) with
      | .error e => .error e
      | .ok m =>
        let ds := data segs.length
        .ok ((ds.filter fun d => d.index < p.2) ++ m :: ds.filter (fun d => p.2 < d.index), none)

/-! ### Relocation (R456) -/

/-- Replaces bytes at an offset. -/
def patch (b : List Byte) (off : Nat) (new : List Byte) : List Byte := b.take off ++ new ++ b.drop (off + new.length)

/-- Bytes of the field a relocation kind writes. -/
def relocSize (kind : Nat) : Nat := if kind = 1 ∨ kind = 2 then 4 else 8

/-- The word a kind leaves at its field, none when the value does not fit (Table 23.5). -/
def relocWord (kind old v place : Nat) : Option Nat :=
  let signed := (BitVec.ofNat 64 v).toInt
  match kind with
  | 0 => some v
  | 1 => some (v % 2 ^ 32)
  | 2 => some (v / 2 ^ 32)
  | 3 => if -(2 ^ 23) ≤ signed ∧ signed < 2 ^ 23 then some (old / 2 ^ 24 * 2 ^ 24 + v % 2 ^ 24) else none
  | _ =>
    let d := (BitVec.ofNat 64 (v + 2 ^ 64 - place)).toInt
    if d % 8 = 0 ∧ -(2 ^ 31) ≤ d / 8 ∧ d / 8 < 2 ^ 31 then
      some (old % 2 ^ 18 + (BitVec.ofInt 32 (d / 8)).toNat * 2 ^ 18 + old / 2 ^ 50 * 2 ^ 50)
    else none

/-- Applies one entry to what is mapped. -/
def relocate (ms : List Mapped) (target x : Nat) : Except LoadError (List Mapped) :=
  let off := entryBits x 0 32
  let kind := entryBits x 32 8
  match ms.find? fun m => m.index == target, ms.find? fun m => m.index == entryBits x 48 16 with
  | some m, some sym =>
    if 4 < kind ∨ entryBits x 40 8 ≠ 0 ∨ m.bytes.length < off + relocSize kind then .error ⟨8, target, off⟩
    else
      let v := (sym.base + entryBits x 64 64) % 2 ^ 64
      match relocWord kind (fieldOf m.bytes off (relocSize kind)) v (m.base + off) with
      | none => .error ⟨7, target, off⟩
      | some w =>
        .ok (ms.map fun y =>
          if y.index = target then { y with bytes := patch y.bytes off (bytesOfNat (relocSize kind) w) } else y)
  | _, _ => .error ⟨8, target, off⟩

/-- Applies the entries of a relocation segment. -/
def relocateAll (ms : List Mapped) (target : Nat) : (xs : List Nat) → Except LoadError (List Mapped)
  | [] => .ok ms
  | x :: r =>
    match relocate ms target x with
    | .error e => .error e
    | .ok ms => relocateAll ms target r

/-- Applies the relocation segments that serve what is mapped, in table order. -/
def applyRelocs (b : List Byte) (ms : List Mapped) : (segs : List Seg) → Except LoadError (List Mapped)
  | [] => .ok ms
  | g :: r =>
    if g.kind = 4 && ms.any (fun m => m.index == g.link) then
      match relocateAll ms g.link ((List.range (g.fileSize / 16)).map fun i => fieldOf b (g.off + 16 * i) 16) with
      | .error e => .error e
      | .ok ms => applyRelocs b ms r
    else applyRelocs b ms r

/-! ### Mapping (R450) -/

/-- The leaf that maps a page of a context, whatever it permits: its address and its frame of 64 KiB; none where a table
cannot be read (R36, R56). -/
def State.leafAt (s : State) (ctx va : Nat) : Option (Nat × Nat) :=
  let entry (table level : Nat) : Nat × Dword :=
    let a := table + 8 * levelIndex level va
    (a, if inReserve a || s.badByte a then 0 else BitVec.ofNat 64 (s.mem.value a 8))
  let ok (level : Nat) (e : Dword) : Bool := eBit e 0 && !malformed level e
  let (_, e1) := entry (s.ctx ctx).root 1
  if !ok 1 e1 || 2 ^ 57 ≤ va then none
  else
    let (a2, e2) := entry (eAddr e1) 2
    if !ok 2 e2 then none
    else if !eBit e2 1 then
      if reservedPa (eAddr e2) then none else some (a2, eAddr e2 + va % 2 ^ 29 / 65536 * 65536)
    else
      let (a3, e3) := entry (eAddr e2) 3
      if !ok 3 e3 || reservedPa (eAddr e3) then none else some (a3, eAddr e3)

/-- The pages of a mapped segment with their leaves and frames: none when one is not mapped, or is a firmware's. -/
def State.segmentPages (s : State) (ctx : Nat) (m : Mapped) : Option (List (Nat × Nat × Nat)) :=
  (pagesOf m.base m.memSize).foldl (fun r va =>
    match r, s.leafAt ctx va with
    | some ps, some (leaf, frame) => if inReserve frame then none else some (ps ++ [(va, leaf, frame)])
    | _, _ => none) (some [])

/-- What a segment's contents write to its frames, zero-filled. -/
def Mapped.writes (m : Mapped) (pages : List (Nat × Nat × Nat)) : List (Addr × Byte × Byte) :=
  plainBytes (physBytes (pages.map fun p => (p.1 / 65536, (⟨p.2.2, 0, false⟩ : Phys))) m.base m.memSize)
    (m.bytes ++ List.replicate (m.memSize - m.bytes.length) 0)

/-- Copies a segment to its frames, and sets X in the leaves of code, R and W in those of writable data. -/
def State.mapSegment (s : State) (m : Mapped) (pages : List (Nat × Nat × Nat)) : State :=
  let s := s.writeBytes (m.writes pages)
  let bits : Byte := if m.code then 0x10 else if m.writable then 0x0C else 0
  if bits = 0 then s else (pages.map (·.2.1)).foldl (fun s a => s.orEntry a bits) s

/-- Drops a context's lines from every instruction and trace cache; a split leaves the trace that it follows (R52). -/
def State.dropCode (s : State) (ctx : Nat) : State :=
  { s with cores := s.cores.map fun c =>
      (c.1, { c.2 with icache := c.2.icache.filter fun p => p.1 / 2 ^ 52 != ctx,
                       traces := c.2.traces.filter fun t => t.ctx != ctx,
                       tracing := c.2.tracing.filter fun t => ((s.wgs.look t.wg).map (·.ctx)) != some ctx }) }

/-! ### Measurement (R453) -/

/-- The extensions of one load: the mapped segments, the relocation segment of the image, a translation, the
placement. -/
def loadChain (k : Context) (segs : List Seg) (image : Option Nat) (ms : List Mapped) : Context :=
  let k := (ms.filter fun m => m.tag == 0x02).foldl (fun (k : Context) m => k.extend 0x02 m.digest) k
  let relocs := segs.filter fun g => g.kind == 4 && some g.link == image
  let k := relocs.foldl (fun (k : Context) g => k.extend 0x02 g.digest) k
  let k := (ms.filter fun m => m.tag == 0x03).foldl (fun (k : Context) m => k.extend 0x03 m.digest) k
  k.extend 0x04 (digest32 (ms.flatMap fun m => bytesOfNat 8 m.base))

/-! ### The load (R450, R452) -/

/-- Whether a container's metadata asks for a shape the context has not (status 9). -/
def badShape (b : List Byte) (segs : List Seg) (k : Context) : Bool :=
  (segs.filter fun g => g.kind == 5).any fun g =>
    (Config.kernelShapes (sliceOf b g.off g.fileSize)).any fun x =>
      (x.1 != 0 && x.1 != k.shape) || (x.2 && !k.deterministic)

/-- Everything a load decides before it maps: what is mapped, relocated, with the native image. -/
def planLoad (b : List Byte) (k : Context) (bases : List Nat) (segs : List Seg) :
    Except LoadError (List Mapped × Option Nat) :=
  match authentic b segs k.keys with
  | some e => .error e
  | none =>
    match chooseSegments b segs k.feat1.toNat bases with
    | .error e => .error e
    | .ok (ms, image) =>
      if badShape b segs k then .error (loadError 9)
      else
        match ms.find? fun m => m.base % 2 ^ m.align != 0 with
        | some m => .error ⟨6, m.index, 0⟩
        | none =>
          match applyRelocs b ms segs with
          | .error e => .error e
          | .ok ms => .ok (ms, image)

/-- What a load maps, with the pages of each: none when one is not mapped by the tables. -/
def State.loadPages (s : State) (ctx : Nat) (ms : List Mapped) : Option (List (Mapped × List (Nat × Nat × Nat))) :=
  ms.foldr (fun m r =>
    match s.segmentPages ctx m, r with
    | some ps, some l => some ((m, ps) :: l)
    | _, _ => none) (some [])

/-- Maps a planned load: its load id; none when a page of it is not mapped by the tables, or a line of it cannot be
written, which is logged (R67). -/
def State.finishLoad (s : State) (ctx : Nat) (segs : List Seg) (ms : List Mapped) (image : Option Nat) :
    Option Nat × State :=
  match s.loadPages ctx ms with
  | none => (none, s)
  | some plans =>
    match s.badWrite (plans.flatMap fun p => p.1.writes p.2) with
    | some a => (none, s.logAddr a)
    | none =>
      let s := (plans.foldl (fun s p => s.mapSegment p.1 p.2) s).dropCode ctx
      let frames (p : Mapped × List (Nat × Nat × Nat)) : List Nat :=
        if p.1.code then p.2.map fun x => x.2.2 / 65536 else []
      let loaded : Loaded :=
        { segments := plans.map fun p =>
            ⟨p.1.base, p.1.memSize, p.1.code, BitVec.ofNat 256 p.1.digest, frames p⟩ }
      let id := (s.ctx ctx).nextLoad
      (some id, s.modCtx ctx fun k =>
        loadChain { k with execFrames := (k.execFrames ++ plans.flatMap frames).eraseDups,
                           loads := k.loads.put id (some loaded), nextLoad := id + 1 } segs image ms)

/-- What a load has read and decided before it maps: its segments, what is mapped, the native image. -/
abbrev LoadPlan := List Seg × List Mapped × Option Nat

/-- Reads a container and its base list, and decides the load: an error of Table 23.4, or the plan; none when an operand
cannot be read. -/
def State.readLoad (s : State) (ctx container list : Nat) : Option (Except LoadError LoadPlan) × State :=
  let priv := (s.ctx ctx).privileged
  match s.cpRead ctx container 64 priv with
  | (none, s) => (none, s)
  | (some h, s) =>
    let size := fieldOf h 8 8
    if 2 ^ 32 < size ∨ size < 64 then (some (.error (loadError 1)), s)
    else
      match s.cpRead ctx container size priv with
      | (none, s) => (none, s)
      | (some b, s) =>
        match readTable b with
        | .error e => (some (.error e), s)
        | .ok segs =>
          match s.cpRead ctx list (8 * segs.length) priv with
          | (none, s) => (none, s)
          | (some l, s) =>
            match planLoad b (s.ctx ctx) ((List.range segs.length).map fun i => fieldOf l (8 * i) 8) segs with
            | .error e => (some (.error e), s)
            | .ok (ms, image) => (some (.ok (segs, ms, image)), s)

/-- What a load ends with: an error of Table 23.4, or its id; none when an operand cannot be read. -/
def State.load (s : State) (ctx container list : Nat) : Option (Except LoadError Nat) × State :=
  match s.readLoad ctx container list with
  | (none, s) => (none, s)
  | (some (.error e), s) => (some (.error e), s)
  | (some (.ok (segs, ms, image)), s) =>
    match s.finishLoad ctx segs ms image with
    | (none, s) => (none, s)
    | (some id, s) => (some (.ok id), s)

/-- The lines that a load reads and writes. -/
def State.loadLocs (s : State) (ctx container list : Nat) : List Loc :=
  match (s.cpRead ctx container 64 (s.ctx ctx).privileged).1 with
  | none => []
  | some h =>
    s.cpLocs ctx container (min (fieldOf h 8 8) (2 ^ 32)) ++ s.cpLocs ctx list (8 * fieldOf h 6 2) ++
      match (s.readLoad ctx container list).1 with
      | some (.ok (_, ms, _)) =>
        (((s.loadPages ctx ms).getD []).flatMap fun p => (p.1.writes p.2).map fun b => locOf b.1).eraseDups
      | _ => []

end Sys2Proof.Machine
end

