-- ==== Sys2Proof/Machine/Commands.lean ====
section
/-! DEFINITION. The command path: consuming entries, their checks, and every command (file 24, R461, R462, R468 to
R472). -/

namespace Sys2Proof.Machine

/-! ### Command entries (Tables 24.5 and 24.6) -/

/-- A command entry of a page. -/
structure Cmd where
  page : Nat
  bits : Nat
  deriving DecidableEq, Repr

namespace Cmd

def opcode (c : Cmd) : Nat := entryBits c.bits 0 8
def irq (c : Cmd) : Bool := entryBits c.bits 8 1 = 1
def ctx (c : Cmd) : Nat := entryBits c.bits 16 6
def tag (c : Cmd) : Dword := BitVec.ofNat 64 (entryBits c.bits 64 64)

/-- An operand, by its bit in the entry. -/
def operand (c : Cmd) (lo n : Nat) : Nat := entryBits c.bits lo n

/-- Whether a bit that the opcode names no operand for is set; the operands are (first bit, width). -/
def reserved (c : Cmd) (operands : List (Nat × Nat)) : Bool :=
  entryBits c.bits 9 7 != 0 || entryBits c.bits 22 42 != 0 ||
    (List.range 384).any fun i => entryBits c.bits (128 + i) 1 == 1 &&
      !operands.any fun o => o.1 ≤ 128 + i && 128 + i < o.1 + o.2

end Cmd

/-- The entry a page's command processor consumes next: the ring holds one, the command before has completed, and the
completion ring has room (R461, R468). -/
def State.nextCommand (s : State) (page : Nat) : Option Cmd :=
  let p := s.page page
  if 64 ≤ page || !s.powered || p.cmdHead == p.cmdTail || p.busy.isSome || !p.hasRoom || !p.held.isEmpty then none
  else some ⟨page, s.mem.value (ringAddr p.cmdBase 64 p.cmdHead) 64⟩

/-- Counts an entry consumed. -/
def State.consume (s : State) (page : Nat) : State :=
  let p := s.page page
  s.setPage page { p with cmdHead := p.cmdHead + 1 }

/-- Completes a command (R470). -/
def State.complete (s : State) (c : Cmd) (cls status value offset segment : Nat) : State :=
  s.post c.page (completionEntry c.ctx c.tag c.opcode cls status value offset segment) c.irq

/-- Completes a command of class 0. -/
def State.finish (s : State) (c : Cmd) (status value : Nat) : Res := .next (s.complete c 0 status value 0 0xFFFF)

/-- Whether a command may name its context: its page's own, or from a privileged context's page (R461). -/
def State.mayName (s : State) (c : Cmd) : Bool :=
  c.ctx == c.page || match s.contexts.look c.page with
    | some k => k.privileged
    | none => false

/-- One command: the checks of R462, R461 and R469, then its own effect on the state in which its entry is consumed. -/
def State.command (s : State) (page opcode : Nat) (operands : List (Nat × Nat)) (body : Cmd → State → Res) : Res :=
  match s.nextCommand page with
  | none => .fault .notEnabled
  | some c =>
    if c.opcode ≠ opcode then .fault .notEnabled
    else
      let t := s.consume page
      if !s.ready then t.finish c 1 0
      else if !s.mayName c then t.finish c 2 0
      else if c.reserved operands then t.finish c 4 0
      else body c t

/-- A command on a context that must exist; a missing one is not in the state it needs (Table 24.8). -/
def State.commandOn (s : State) (page opcode : Nat) (operands : List (Nat × Nat))
    (body : Cmd → Context → State → Res) : Res :=
  s.command page opcode operands fun c s =>
    match s.contexts.look c.ctx with
    | none => s.finish c 5 0
    | some k => body c k s

/-- A command whose operands stand in global memory: it starts once the claims are released that were recorded on their
lines before it reached them (R141). -/
def State.commandAfter (s : State) (page opcode : Nat) (locs : Cmd → List Loc) (go : State → Res) : Res :=
  match s.nextCommand page with
  | none => .fault .notEnabled
  | some c =>
    if c.opcode ≠ opcode then .fault .notEnabled
    else s.afterClaims (.page page) (if s.ready && s.mayName c then locs c else []) go

/-- Opcodes of Table 24.6. -/
def knownOpcode (n : Nat) : Bool := 1 ≤ n && n ≤ 0x11

/-- BAD_OPCODE (R469). -/
def execBadOpcode (page : Nat) (s : State) : Res :=
  match s.nextCommand page with
  | none => .fault .notEnabled
  | some c =>
    if knownOpcode c.opcode then .fault .notEnabled
    else (s.consume page).finish c (if s.ready then 3 else 1) 0

/-! ### Host memory -/

/-- Reads host memory; none where the window has no such address (Table 1.2). -/
def State.hostRead (s : State) (addr len : Nat) : Option (List Byte) :=
  if 2 ^ 51 < addr + len then none else some (s.mem.bytes (hostBase + addr) len)

/-! ### create context (R471, Tables 24.9 and 24.10) -/

/-- A queue of a creation block: none when its entry is refused with bad-operand. -/
def queueOf (x : Nat) (deterministic : Bool) : Option Queue :=
  let trace := entryBits x 4 2
  let size := entryBits x 32 32
  let base := entryBits x 64 64
  if trace = 3 ∨ entryBits x 6 26 ≠ 0 ∨ size % 16 ≠ 0 ∨ base % 16 ≠ 0 then none
  else some
    { enable := entryBits x 0 1 = 1, priority := entryBits x 1 3, trace := trace, traceBase := base,
      traceSize := size, tracePos := 0, bound := deterministic && trace == 2, launches := [], last := none, lastDie := 23,
      accepted := 0, headSince := 0, passed := [], aged := [], reserved := none }

/-- The queues of a table of 64 entries. -/
def queuesOf (b : List Byte) (deterministic : Bool) : Option (Sparse Queue) :=
  (List.range 64).foldl (fun (r : Option (Sparse Queue)) i =>
    match r, queueOf (fieldOf b (16 * i) 16) deterministic with
    | some qs, some q => some (qs ++ [(i, q)])
    | _, _ => none) (some [])

/-- The cores of a partition bitmap, ascending. -/
def partitionOf (b : List Byte) : List Nat :=
  (List.range moduleCores).filter fun c => (b.getD (c / 8) 0).getLsbD (c % 8)

/-- LrSize: R471 admits 16, which needs bit 388 beside the four bits of Table 24.9 (log 121). -/
def lrSizeOf (x : Nat) : Nat := entryBits x 384 5

/-- Bits of a creation block that must be zero. -/
def blockReserved (x : Nat) : Bool :=
  entryBits x 82 6 != 0 || entryBits x 240 16 != 0 || (entryBits x 388 1 != 0 && lrSizeOf x != 16) || entryBits x 389 59 != 0 || entryBits x 709 1339 != 0 ||
    entryBits x 320 7 != 0

/-- Whether a creation fails a check of R471. -/
def badCreation (x : Nat) (partition : List Nat) : Bool :=
  let root := entryBits x 0 64
  let det := entryBits x 81 1 == 1
  let shape := entryBits x 88 8
  let feat := BitVec.ofNat 32 (entryBits x 96 32)
  root % 2 ^ 18 != 0 || !isHbm root || entryBits x 64 16 == 0 || feat &&& ~~~Config.hardwareFeatures != 0 ||
    !feat.getLsbD 5 || (det && partition.length < shapeLeast shape) || lrSizeOf x < 6 ||
    (det && (shape == 0 || 5 < shape)) || (!det && shape != 0) ||
    entryBits x 704 5 == 0 || 16 < entryBits x 704 5 || 3600000 < entryBits x 160 32 ||
    3600000 < entryBits x 192 32

/-- The measure of a creation: tag 0x01 of Table 23.3. -/
def creationMeasure (tenant shape feat1 : Nat) (keys : List Byte) : Nat :=
  digest32 (bytesOfNat 2 tenant ++ bytesOfNat 1 shape ++ bytesOfNat 4 0x00090000 ++ bytesOfNat 4 feat1 ++
    List.replicate 24 0 ++ keys)

/-- The context of a creation block. -/
def contextOf (x : Nat) (queues : Sparse Queue) (partition : List Nat) (keys : List Byte) : Context :=
  let det := entryBits x 81 1 = 1
  let limit := entryBits x 192 32
  let deadline := entryBits x 224 16
  { noContext with
    root := entryBits x 0 64, tenant := BitVec.ofNat 16 (entryBits x 64 16), privileged := entryBits x 80 1 = 1,
    deterministic := det, shape := entryBits x 88 8, feat1 := BitVec.ofNat 32 (entryBits x 96 32),
    ageing := max 256 (min (entryBits x 128 32) 65536), watchdog := entryBits x 160 32,
    faultLimit := if limit = 0 then 1000 else limit, deadline := if deadline = 0 then 2000 else deadline,
    idBase := BitVec.ofNat 64 (entryBits x 256 64), lrBase := entryBits x 320 64, lrSize := lrSizeOf x,
    staging := entryBits x 448 64,
    keys := (List.range (keys.length / 32)).map fun i => BitVec.ofNat 256 (fieldOf keys (32 * i) 32),
    queues := queues, partition := partition }

/-- Creates a context from the block and what it names, with the status. -/
def State.create (s : State) (c : Cmd) (block table bitmap keys : List Byte) : Res :=
  let x := natOfBytes block
  let det := entryBits x 81 1 == 1
  let partition := partitionOf bitmap
  if blockReserved x then s.finish c 4 0
  else if badCreation x partition then s.finish c 7 0
  else
    match queuesOf table det with
    | none => s.finish c 4 0
    | some qs =>
      let k := (contextOf x qs partition keys).extend 0x01
        (creationMeasure (entryBits x 64 16) (entryBits x 88 8) (entryBits x 96 32) keys)
      { s with contexts := s.contexts.put c.ctx (some k) }.finish c 0 0

/-- CREATE_CONTEXT. -/
def execCreateContext (page : Nat) (s : State) : Res :=
  s.command page 0x01 [(128, 64)] fun c s =>
    match s.hostRead (c.operand 128 64) 256 with
    | none => s.finish c 4 0
    | some block =>
      let x := natOfBytes block
      if (s.contexts.look c.ctx).isSome then s.finish c 5 0
      else
        match s.hostRead (entryBits x 512 64) 1024, s.hostRead (entryBits x 576 64) 192,
            s.hostRead (entryBits x 640 64) (32 * entryBits x 704 5) with
        | some table, some bitmap, some keys => s.create c block table bitmap keys
        | _, _, _ => s.finish c 4 0

/-! ### destroy context, forced reset (R40, R411) -/

/-- What a destroyed context leaves nowhere: its granules' contents, its instruction lines. -/
def State.forget (s : State) (ctx : Nat) : State :=
  { (s.dropCode ctx) with
    contexts := s.contexts.del ctx
    cores := (s.dropCode ctx).cores.map fun c =>
      (c.1, { c.2 with granules := c.2.granules.filter fun l => l.2.ctx != ctx,
                       tileLeft := c.2.tileLeft.filter fun l => l.1 != ctx }) }

/-- DESTROY_CONTEXT: the steps of R40; its page's registers are cleared behind the completion. -/
def execDestroyContext (page : Nat) (s : State) : Res :=
  s.commandOn page 0x02 [] fun c _ s =>
    let s := (((s.discardContext c.ctx).endWorkGroups c.ctx).emptyQueues c.ctx).pruneWaiting
    let s := (s.forget c.ctx).complete c 0 0 0 0 0xFFFF
    .next { s with pages := s.pages.del c.ctx }

/-- FORCED_RESET. -/
def execForcedReset (page : Nat) (s : State) : Res :=
  s.commandOn page 0x0A [] fun c _ s => (s.forcedReset c.ctx 1).finish c 0 0

/-! ### load, unload, quote (R450 to R453) -/

/-- LOAD. -/
def execLoad (page : Nat) (s : State) : Res :=
  s.commandAfter page 0x03 (fun c => s.loadLocs c.ctx (c.operand 128 64) (c.operand 192 64)) fun s =>
  s.commandOn page 0x03 [(128, 64), (192, 64)] fun c _ s =>
    match s.load c.ctx (c.operand 128 64) (c.operand 192 64) with
    | (none, s) => s.finish c 4 0
    | (some (.error e), s) => .next (s.complete c 2 e.status 0 e.offset e.segment)
    | (some (.ok id), s) => .next (s.complete c 2 0 id 0 0xFFFF)

/-- UNLOAD: the frames of one load are no longer executable. -/
def execUnload (page : Nat) (s : State) : Res :=
  s.commandOn page 0x04 [(128, 32)] fun c k s =>
    let id := c.operand 128 32
    match k.loads.look id with
    | none => s.finish c 4 0
    | some l =>
      let frames := l.segments.flatMap (·.frames)
      (s.modCtx c.ctx fun k =>
        { k with loads := k.loads.del id, execFrames := k.execFrames.filter fun f => !frames.contains f }).finish c 0 0

/-- The quote result buffer. -/
def quoteBytes (ctx : Nat) (k : Context) (nonce : List Byte) (index : Option Nat) : List Byte :=
  let m := bytesOfNat 8 ctx ++ bytesOfNat 8 k.extensions.toNat ++ bytesOfNat 32 k.chain.toNat ++ nonce
  let sig := match index with
    | some n => (Config.xmssSign 1 n m).take 2820
    | none => []
  let b := m ++ sig
  b ++ List.replicate (4096 - b.length) 0

/-- QUOTE (R453): signed with the identity key; without an index the signature is zero. -/
def execQuote (page : Nat) (s : State) : Res :=
  s.commandOn page 0x0B [(128, 256), (384, 64)] fun c k s =>
    let at_ := c.operand 384 64
    if 2 ^ 51 < at_ + 4096 then s.finish c 4 0
    else
      let (index, limit, next) := takeIndex s.identityLimit s.identityNext s.tick
      let b := quoteBytes c.ctx k (bytesOfNat 32 (c.operand 128 256)) index
      let writes := b.zipIdx.map fun (p : Byte × Nat) => (hostBase + at_ + p.2, p.1)
      let s := { s with identityLimit := limit, identityNext := next, mem := s.mem.setBytes writes }
      s.finish c 0 4096

/-! ### launch (R203, R221) -/

/-- The id of a host launch: n counts the queue's accepted host launches from the context's base. -/
def hostLaunchId (k : Context) (queue : Nat) : Dword :=
  let accepted := ((k.queues.look queue).map (·.accepted)).getD 0
  BitVec.ofNat 64 (queue * 2 ^ 57 + (k.idBase.toNat + accepted) % 2 ^ 57)

/-- HOST_LAUNCH: the entry checks; a refused launch completes at once, an accepted one under R225. -/
def execHostLaunch (page : Nat) (s : State) : Res :=
  s.commandAfter page 0x05 (fun c => s.cpLocs c.ctx (c.operand 128 64) 128 ++ s.cpLocs c.ctx (s.recordAddr c.ctx) 128)
    fun s => s.commandOn page 0x05 [(128, 64), (192, 6)] fun c k s =>
    if s.frozen then s.finish c 6 0
    else
      let queue := c.operand 192 6
      let id := hostLaunchId k queue
      match s.enqueue c.ctx queue (c.operand 128 64) k.privileged id (some (c.page, c.tag, c.irq)) with
      | (0, s) => .next s
      | (status, s) => .next (s.complete c 1 status id.toNat 0 0xFFFF)

/-! ### pre-empt and resume (R407, R410, R420) -/

/-- PRE_EMPT. -/
def execPreEmpt (page : Nat) (s : State) : Res :=
  s.commandOn page 0x06 [] fun c k s =>
    if k.preempt.isSome then s.finish c 5 0 else (s.startPreempt c.ctx).finish c 0 0

/-- Whether every saved gang has a rectangle in the partition of its context (R410). -/
def State.gangsFit (s : State) (ctx : Nat) : Bool :=
  s.wgs.all fun p => p.2.ctx != ctx || p.2.resident ||
    (s.ctx ctx).dies.any fun d => !(s.rectangles ctx d p.2.desc).isEmpty

/-- Whether R216 admits a partition for a context. -/
def State.admits (s : State) (ctx : Nat) (partition : List Nat) : Bool :=
  let k := s.ctx ctx
  !partition.isEmpty &&
    if k.deterministic then shapeLeast k.shape ≤ partition.length
    else (s.modCtx ctx fun k => { k with partition := partition }).gangsFit ctx

/-- Restores what fits now: the rest follows as places free (R410, R420). -/
def State.restoreAll (s : State) (ctx : Nat) : State :=
  let k := s.ctx ctx
  let saved := (s.wgs.filter fun p => p.2.ctx == ctx && !p.2.resident).map (·.1)
  if k.deterministic then
    (s.wgs.filter fun p => p.2.ctx == ctx).foldl (fun s p =>
      match s.wgs.look p.1 with
      | none => s
      | some g =>
        let into := if g.resident then [] else s.group p.1
        if !into.isEmpty && s.fitTogether ctx [] into then s.restoreLogical ctx into else s) s
  else saved.foldl (fun s _ => ((k.dies.findSome? fun d => s.restoreOn d).getD s)) s

/-- Ends a pre-emption: its time is left out of the running time of the context's launches (R396). -/
def State.endPreempt (s : State) (ctx : Nat) (p : Preempt) : State :=
  let s := s.modCtx ctx fun k => { k with preempt := none, slices := [], sliceAt := [] }
  { s with launches := s.launches.map fun l =>
      if l.2.ctx = ctx ∧ l.2.started.isSome then (l.1, { l.2 with away := l.2.away + (s.time - p.doneAt) }) else l }

/-- RESUME: of a pre-empted context, with its partition or a new one; its gangs are restored. -/
def execResume (page : Nat) (s : State) : Res :=
  s.commandOn page 0x07 [(128, 64)] fun c k s =>
    match k.preempt with
    | none => s.finish c 5 0
    | some p =>
      if !p.done then s.finish c 5 0
      else
        let at_ := c.operand 128 64
        let partition := if at_ = 0 then some k.partition else (s.hostRead at_ 192).map partitionOf
        match partition with
        | none => s.finish c 4 0
        | some cores =>
          if at_ ≠ 0 && !s.admits c.ctx cores then s.finish c 4 0
          else
            let s := (s.endPreempt c.ctx p).modCtx c.ctx fun k => { k with partition := cores }
            (s.restoreAll c.ctx).finish c 0 0

/-! ### invalidates (R25, R26, R52) -/

/-- Drops the TLB and walk-cache entries of a context in a range of pages: count 0 is the whole context. Traces on those
pages go with them: after the completion no issue uses their old mapping (R26; log 67). -/
def State.dropTranslations (s : State) (ctx first count : Nat) : State :=
  let hit (c page span : Nat) : Bool :=
    c == ctx && (count == 0 || (page < first + count && first < page + span))
  let levelPages (level : Nat) : Nat := 2 ^ (levelShift level - 16)
  let drop (l : List TlbEntry) := l.filter fun t => !hit t.ctx t.page t.span
  { s with
    cores := s.cores.map fun c => (c.1, { c.2 with
      tlb := drop c.2.tlb
      traces := c.2.traces.filter fun t => !hit t.ctx (t.pc / 65536) 1 && !hit t.ctx ((t.pc + 127) / 65536) 1
      tracing := c.2.tracing.filter fun t => ((s.wgs.look t.wg).map (·.ctx)) != some ctx })
    dies := s.dies.map fun d => (d.1, { d.2 with
      tlb := drop d.2.tlb,
      walks := d.2.walks.filter fun w => !hit w.ctx (w.prefix_ * levelPages w.level) (levelPages w.level) }) }

/-- TRANSLATION_INVALIDATE: every matching entry is dropped; the command completes with
TRANSLATION_INVALIDATE_COMPLETE. -/
def execTranslationInvalidate (page : Nat) (s : State) : Res :=
  s.commandOn page 0x08 [(128, 64), (192, 32)] fun c _ s =>
    let start := c.operand 128 64
    let count := c.operand 192 32
    if start % 65536 ≠ 0 ∨ 2 ^ 57 ≤ start then s.finish c 4 0
    else
      let s := s.dropTranslations c.ctx (start / 65536) count
      let (order, s) := s.stamp
      let (n, s) := s.fresh
      let s := s.setPage c.page { (s.page c.page) with busy := some (0x08, c.tag, c.irq) }
      .next { s with invals := s.invals.put n (some ⟨false, c.page, c.ctx, start / 65536, count, c.tag, c.irq, order⟩) }

/-- Whether the fetches of a context that began before a running number have ended (R26, R52). -/
def State.fetchedBefore (s : State) (ctx order : Nat) : Bool :=
  s.cores.all fun c => c.2.subs.all fun x =>
    match x.2.frozen with
    | some f => f.ctx != ctx || order < f.order
    | none => true

/-- Whether no access of a context with a lower running number is under way: those translated before an invalidate have
been performed, or have faulted (R26). -/
def State.settledBefore (s : State) (ctx order : Nat) : Bool :=
  let mine (u : Nat) : Bool :=
    match s.wgs.look u with
    | some g => g.ctx == ctx
    | none => false
  (s.wgs.all fun g => g.2.ctx != ctx || g.2.warps.all fun w =>
    w.storeQ.all (order ≤ ·.order) && (w.producers.all fun p => !p.memory || order ≤ p.order) &&
      w.txns.all fun t => t.2.writes.isEmpty) && s.fetchedBefore ctx order &&
    (s.cores.all fun c => c.2.outbound.all fun o => !mine o.wg || order ≤ o.order) &&
    (s.jobs.all fun p => !mine p.2.wg || p.2.done || p.2.parked.isSome || order ≤ p.2.order) &&
    s.peerPending.all fun p => !mine p.2.1 || order ≤ p.2.2.2

/-- The jobs of a context that are parked: a translation of their destination's pages in a range is not used again
(R26). -/
def State.dropJobPages (s : State) (x : Inval) : State :=
  { s with jobs := s.jobs.map fun p =>
      if p.2.parked.isSome && ((s.wgs.look p.2.wg).map (·.ctx)) == some x.ctx then
        (p.1, p.2.setPages (p.2.pages.filter fun m =>
          !(x.count == 0 || (x.first ≤ m.page && m.page < x.first + x.count))))
      else p }

/-- TRANSLATION_INVALIDATE_COMPLETE: the same for an instruction-cache invalidate, whose accesses are fetches (R26,
R52). -/
def execTranslationInvalidateComplete (idx : Nat) (s : State) : Res :=
  match s.invals.look idx with
  | none => .fault .notEnabled
  | some x =>
    if !(if x.code then s.fetchedBefore x.ctx x.order else s.settledBefore x.ctx x.order) then .fault .notEnabled
    else
      let s := { (if x.code then s else s.dropJobPages x) with invals := s.invals.del idx }
      let s := s.setPage x.page { (s.page x.page) with busy := none }
      .next (s.post x.page (completionEntry x.ctx x.tag (if x.code then 0x09 else 0x08) 0 0 0 0 0xFFFF) x.irq)

/-- INSTRUCTION_CACHE_INVALIDATE: the context's lines and traces are dropped; the command completes as a translation
invalidate does (R52). -/
def execInstructionCacheInvalidate (page : Nat) (s : State) : Res :=
  s.commandOn page 0x09 [] fun c _ s =>
    let (order, s) := (s.dropCode c.ctx).stamp
    let (n, s) := s.fresh
    let s := s.setPage c.page { (s.page c.page) with busy := some (0x09, c.tag, c.irq) }
    .next { s with invals := s.invals.put n (some ⟨true, c.page, c.ctx, 0, 0, c.tag, c.irq, order⟩) }

/-! ### capsule release (R446) -/

/-- CAPSULE_RELEASE: privileged pages only; it waits for the capsule reads recorded before. -/
def execCapsuleRelease (page : Nat) (s : State) : Res :=
  if s.reading || s.sealing then .fault .notEnabled
  else s.command page 0x0C [] fun c s =>
    match s.contexts.look c.page with
    | some k => if k.privileged then s.releaseCapsule.finish c 0 0 else s.finish c 2 0
    | none => s.finish c 2 0

/-! ### fault resolution (R29) -/

/-- Resolves the entry a command names: it must be open, and of the command's context. -/
def State.resolve (s : State) (c : Cmd) (replay : Bool) : Res :=
  let die := c.operand 128 5
  let n := c.operand 133 12
  if 24 ≤ die then s.finish c 4 0
  else
    match (s.die die).faultQ.look n with
    | none => s.finish c 5 0
    | some f => if f.ctx = c.ctx then (s.resolveEntry die n replay).finish c 0 0 else s.finish c 5 0

/-- FAULT_REPLAY. -/
def execFaultReplay (page : Nat) (s : State) : Res :=
  s.commandOn page 0x0D [(128, 17)] fun c _ s => s.resolve c true

/-- FAULT_FAIL. -/
def execFaultFail (page : Nat) (s : State) : Res :=
  s.commandOn page 0x0E [(128, 17)] fun c _ s => s.resolve c false

/-! ### trap resume and reset (R399) -/

/-- The warp that a command names, if firmware holds it for a trap: work-group, index, what is saved. -/
def State.heldWarp (s : State) (c : Cmd) : Option (Nat × Nat × Saved) :=
  let core := c.operand 128 5 * 64 + c.operand 133 6
  (s.warpsOn core (c.operand 139 2)).findSome? fun p =>
    match s.wgs.look p.1, p.2.2.fw with
    | some g, some f => if p.2.2.slot = c.operand 141 5 ∧ g.ctx = c.ctx then some (p.1, p.2.1, f) else none
    | _, _ => none

/-- TRAP_RESUME: as `eret` would for that trap. -/
def execTrapResume (page : Nat) (s : State) : Res :=
  s.commandOn page 0x0F [(128, 18)] fun c _ s =>
    if 24 ≤ c.operand 128 5 then s.finish c 4 0
    else
      match s.heldWarp c with
      | none => s.finish c 5 0
      | some (u, i, f) =>
        let now := match s.wgs.look u with
          | some g => s.now g.core
          | none => 0
        ((s.modWarp u i fun w => w.firmwareResume (s.unfinished u i) now).noteReplays u i f.resumes).finish c 0 0

/-- TRAP_RESET: a forced reset of the context. -/
def execTrapReset (page : Nat) (s : State) : Res :=
  s.commandOn page 0x10 [(128, 18)] fun c _ s =>
    if 24 ≤ c.operand 128 5 then s.finish c 4 0
    else
      match s.heldWarp c with
      | none => s.finish c 5 0
      | some _ => (s.forcedReset c.ctx 1).finish c 0 0

/-! ### lost-line clear (R68) -/

/-- Clears the entry of a line: its value is the earlier one that HBM keeps. -/
def State.recoverLine (s : State) (die slice line : Nat) : State :=
  match (s.die die).lost.find? fun p => p.1 == slice && p.2.1 == line with
  | none => s
  | some p =>
    { s.clearLost line with mem := s.mem.setBytes (p.2.2.zipIdx.map fun (b : Byte × Nat) => (line * 128 + b.2, b.1)) }

/-- LOST_LINE_CLEAR. -/
def execLostLineClear (page : Nat) (s : State) : Res :=
  s.command page 0x11 [(128, 56)] fun c s =>
    let die := c.operand 128 5
    let slice := c.operand 133 6
    let line := c.operand 139 45
    if 24 ≤ die then s.finish c 4 0
    else (s.recoverLine die slice line).finish c 0 0

end Sys2Proof.Machine
end

