-- ==== Sys2Proof/Machine/Emulation.lean ====
section
/-! DEFINITION. A word of no opcode, and firmware's completion of an instruction outside native support (file 03,
R74; file 09, R240, R241). -/

namespace Sys2Proof.Machine

/-- A word whose opcode Table 9.12 does not assign: the illegal-instruction trap of cause opcode (R240, R241). -/
def execUnassignedOpcode (word : Dword) (s : State) : Res :=
  issue (.unassignedOpcode word) s fun c => c.fault 2 0 (c.execs (.unassignedOpcode word))

/-- The meaning of an instruction that Table 3.3 can send to firmware: those with a format record. -/
def emulated (i : Instr) (s : State) : Res :=
  match i with
  | .fadd f => execFadd f s
  | .fsub f => execFsub f s
  | .fmul f => execFmul f s
  | .ffma f => execFfma f s
  | .fmin f => execFmin f s
  | .fmax f => execFmax f s
  | .fminn f => execFminn f s
  | .fmaxn f => execFmaxn f s
  | .fcmp f => execFcmp f s
  | .fclass f => execFclass f s
  | .fdiv f => execFdiv f s
  | .fsqrt f => execFsqrt f s
  | .frcp f => execFrcp f s
  | .frsq f => execFrsq f s
  | .fexp2 f => execFexp2 f s
  | .flog2 f => execFlog2 f s
  | .fsin f => execFsin f s
  | .fcos f => execFcos f s
  | .ftanh f => execFtanh f s
  | .frnd f => execFrnd f s
  | .fscale f => execFscale f s
  | .ftoi f => execFtoi f s
  | .itof f => execItof f s
  | .exte f => execExte f s
  | .inse f => execInse f s
  | .trdec f => execTrdec f s
  | .fcvt f => execFcvt f s
  | .faddi f => execFaddi f s
  | .fmuli f => execFmuli f s
  | .ffmai f => execFfmai f s
  | .wred f => execWred f s
  | .wscan f => execWscan f s
  | .ldf f => execLdf f s
  | .stf f => execStf f s
  | .trdecn f => execTrdecn f s
  | .mldb f => execMldb f s
  | .mldbs f => execMldbs f s
  | .mldt f => execMldt f s
  | .mma f => execMma f s
  | .mmas f => execMmas f s
  | .msig f => execMsig f s
  | .mzero f => execMzero f s
  | .mst f => execMst f s
  | .mscl f => execMscl f s
  | _ => .fault .notEnabled

/-- FORMAT_EMULATION (R74): firmware completes the instruction of a waiting split under the records and for the lanes that
were sampled at issue (R88, R228); the result is the one native hardware gives. Where the instruction would wait, firmware
waits with it and keeps the samples; the claimed lines that it reached are noted (R141). -/
def execFormatEmulation (wg warp split : Nat) (s : State) : Res :=
  match (s.warp? wg warp).bind (·.split? split) with
  | none => .fault .notEnabled
  | some sp =>
    match sp.wait with
    | some (.emul i slots lanes) =>
      let start := s.modWarp wg warp fun w => w.modSplit split fun sp => { sp with wait := none }
      match emulated i { start with cur := some ⟨wg, warp, split, some (slots, lanes)⟩ } with
      | .next t =>
        match (t.warp? wg warp).bind (·.split? split) with
        | some after =>
          if after.wait != some .retry then .next { t with cur := none }
          else if after.arrived == sp.arrived then .fault .notEnabled
          else .next ({ s with order := t.order }.modWarp wg warp fun w =>
            w.modSplit split fun sp => { sp with arrived := after.arrived })
        | none => .next { t with cur := none }
      | r => r
    | _ => .fault .notEnabled

end Sys2Proof.Machine
end

