-- ==== Sys2Proof/Machine/Dispatch.lean ====
section
/-! DEFINITION. Which meaning each instruction and each step of the device has. -/

namespace Sys2Proof.Machine

def exec (i : Instr) (s : State) : Host.Outcome State Fault Refusal :=
  match i with
  | .nop f => Sys2Proof.Machine.execNop f s
  | .bra f => Sys2Proof.Machine.execBra f s
  | .brx f => Sys2Proof.Machine.execBrx f s
  | .call f => Sys2Proof.Machine.execCall f s
  | .ret f => Sys2Proof.Machine.execRet f s
  | .switch f => Sys2Proof.Machine.execSwitch f s
  | .rset f => Sys2Proof.Machine.execRset f s
  | .rwait f => Sys2Proof.Machine.execRwait f s
  | .rleave f => Sys2Proof.Machine.execRleave f s
  | .yield f => Sys2Proof.Machine.execYield f s
  | .exit f => Sys2Proof.Machine.execExit f s
  | .region f => Sys2Proof.Machine.execRegion f s
  | .launch f => Sys2Proof.Machine.execLaunch f s
  | .trap f => Sys2Proof.Machine.execTrap f s
  | .bkpt f => Sys2Proof.Machine.execBkpt f s
  | .iadd f => Sys2Proof.Machine.execIadd f s
  | .isub f => Sys2Proof.Machine.execIsub f s
  | .imul f => Sys2Proof.Machine.execImul f s
  | .imulh f => Sys2Proof.Machine.execImulh f s
  | .imad f => Sys2Proof.Machine.execImad f s
  | .idiv f => Sys2Proof.Machine.execIdiv f s
  | .irem f => Sys2Proof.Machine.execIrem f s
  | .imin f => Sys2Proof.Machine.execImin f s
  | .imax f => Sys2Proof.Machine.execImax f s
  | .iabs f => Sys2Proof.Machine.execIabs f s
  | .ineg f => Sys2Proof.Machine.execIneg f s
  | .isat f => Sys2Proof.Machine.execIsat f s
  | .iadds f => Sys2Proof.Machine.execIadds f s
  | .isubs f => Sys2Proof.Machine.execIsubs f s
  | .icmp f => Sys2Proof.Machine.execIcmp f s
  | .qadd f => Sys2Proof.Machine.execQadd f s
  | .and f => Sys2Proof.Machine.execAnd f s
  | .or f => Sys2Proof.Machine.execOr f s
  | .xor f => Sys2Proof.Machine.execXor f s
  | .andn f => Sys2Proof.Machine.execAndn f s
  | .not f => Sys2Proof.Machine.execNot f s
  | .shl f => Sys2Proof.Machine.execShl f s
  | .shr f => Sys2Proof.Machine.execShr f s
  | .sar f => Sys2Proof.Machine.execSar f s
  | .rol f => Sys2Proof.Machine.execRol f s
  | .bfx f => Sys2Proof.Machine.execBfx f s
  | .bfi f => Sys2Proof.Machine.execBfi f s
  | .popc f => Sys2Proof.Machine.execPopc f s
  | .clz f => Sys2Proof.Machine.execClz f s
  | .ctz f => Sys2Proof.Machine.execCtz f s
  | .brev f => Sys2Proof.Machine.execBrev f s
  | .lea f => Sys2Proof.Machine.execLea f s
  | .iaddi f => Sys2Proof.Machine.execIaddi f s
  | .imuli f => Sys2Proof.Machine.execImuli f s
  | .andi f => Sys2Proof.Machine.execAndi f s
  | .ori f => Sys2Proof.Machine.execOri f s
  | .xori f => Sys2Proof.Machine.execXori f s
  | .shli f => Sys2Proof.Machine.execShli f s
  | .shri f => Sys2Proof.Machine.execShri f s
  | .sari f => Sys2Proof.Machine.execSari f s
  | .icmpi f => Sys2Proof.Machine.execIcmpi f s
  | .imadi f => Sys2Proof.Machine.execImadi f s
  | .movi f => Sys2Proof.Machine.execMovi f s
  | .movw f => Sys2Proof.Machine.execMovw f s
  | .mov f => Sys2Proof.Machine.execMov f s
  | .sel f => Sys2Proof.Machine.execSel f s
  | .movs f => Sys2Proof.Machine.execMovs f s
  | .prmt f => Sys2Proof.Machine.execPrmt f s
  | .fadd f => Sys2Proof.Machine.execFadd f s
  | .fsub f => Sys2Proof.Machine.execFsub f s
  | .fmul f => Sys2Proof.Machine.execFmul f s
  | .ffma f => Sys2Proof.Machine.execFfma f s
  | .fmin f => Sys2Proof.Machine.execFmin f s
  | .fmax f => Sys2Proof.Machine.execFmax f s
  | .fminn f => Sys2Proof.Machine.execFminn f s
  | .fmaxn f => Sys2Proof.Machine.execFmaxn f s
  | .fcmp f => Sys2Proof.Machine.execFcmp f s
  | .fclass f => Sys2Proof.Machine.execFclass f s
  | .fdiv f => Sys2Proof.Machine.execFdiv f s
  | .fsqrt f => Sys2Proof.Machine.execFsqrt f s
  | .frcp f => Sys2Proof.Machine.execFrcp f s
  | .frsq f => Sys2Proof.Machine.execFrsq f s
  | .fexp2 f => Sys2Proof.Machine.execFexp2 f s
  | .flog2 f => Sys2Proof.Machine.execFlog2 f s
  | .fsin f => Sys2Proof.Machine.execFsin f s
  | .fcos f => Sys2Proof.Machine.execFcos f s
  | .ftanh f => Sys2Proof.Machine.execFtanh f s
  | .frnd f => Sys2Proof.Machine.execFrnd f s
  | .fscale f => Sys2Proof.Machine.execFscale f s
  | .fcvt f => Sys2Proof.Machine.execFcvt f s
  | .ftoi f => Sys2Proof.Machine.execFtoi f s
  | .itof f => Sys2Proof.Machine.execItof f s
  | .faddi f => Sys2Proof.Machine.execFaddi f s
  | .fmuli f => Sys2Proof.Machine.execFmuli f s
  | .ffmai f => Sys2Proof.Machine.execFfmai f s
  | .exte f => Sys2Proof.Machine.execExte f s
  | .inse f => Sys2Proof.Machine.execInse f s
  | .srseed f => Sys2Proof.Machine.execSrseed f s
  | .fmtset f => Sys2Proof.Machine.execFmtset f s
  | .fmtget f => Sys2Proof.Machine.execFmtget f s
  | .fmtchk f => Sys2Proof.Machine.execFmtchk f s
  | .rand f => Sys2Proof.Machine.execRand f s
  | .wrng f => Sys2Proof.Machine.execWrng f s
  | .mand f => Sys2Proof.Machine.execMand f s
  | .mor f => Sys2Proof.Machine.execMor f s
  | .mxor f => Sys2Proof.Machine.execMxor f s
  | .mnot f => Sys2Proof.Machine.execMnot f s
  | .mpopc f => Sys2Proof.Machine.execMpopc f s
  | .mfirst f => Sys2Proof.Machine.execMfirst f s
  | .ballot f => Sys2Proof.Machine.execBallot f s
  | .mtos f => Sys2Proof.Machine.execMtos f s
  | .stom f => Sys2Proof.Machine.execStom f s
  | .vote f => Sys2Proof.Machine.execVote f s
  | .shfl f => Sys2Proof.Machine.execShfl f s
  | .shflb f => Sys2Proof.Machine.execShflb f s
  | .bfly f => Sys2Proof.Machine.execBfly f s
  | .qswp f => Sys2Proof.Machine.execQswp f s
  | .qbcst f => Sys2Proof.Machine.execQbcst f s
  | .wred f => Sys2Proof.Machine.execWred f s
  | .wscan f => Sys2Proof.Machine.execWscan f s
  | .ld f => Sys2Proof.Machine.execLd f s
  | .st f => Sys2Proof.Machine.execSt f s
  | .ldf f => Sys2Proof.Machine.execLdf f s
  | .stf f => Sys2Proof.Machine.execStf f s
  | .pref f => Sys2Proof.Machine.execPref f s
  | .ipref f => Sys2Proof.Machine.execIpref f s
  | .fence f => Sys2Proof.Machine.execFence f s
  | .atom f => Sys2Proof.Machine.execAtom f s
  | .red f => Sys2Proof.Machine.execRed f s
  | .cas f => Sys2Proof.Machine.execCas f s
  | .txb f => Sys2Proof.Machine.execTxb f s
  | .txe f => Sys2Proof.Machine.execTxe f s
  | .txa f => Sys2Proof.Machine.execTxa f s
  | .txst f => Sys2Proof.Machine.execTxst f s
  | .amxadv f => Sys2Proof.Machine.execAmxadv f s
  | .sclget f => Sys2Proof.Machine.execSclget f s
  | .cpa f => Sys2Proof.Machine.execCpa f s
  | .cpwait f => Sys2Proof.Machine.execCpwait f s
  | .cpcnt f => Sys2Proof.Machine.execCpcnt f s
  | .kick f => Sys2Proof.Machine.execKick f s
  | .binit f => Sys2Proof.Machine.execBinit f s
  | .barr f => Sys2Proof.Machine.execBarr f s
  | .bwait f => Sys2Proof.Machine.execBwait f s
  | .btest f => Sys2Proof.Machine.execBtest f s
  | .bar f => Sys2Proof.Machine.execBar f s
  | .gsync f => Sys2Proof.Machine.execGsync f s
  | .monw f => Sys2Proof.Machine.execMonw f s
  | .monx f => Sys2Proof.Machine.execMonx f s
  | .mldb f => Sys2Proof.Machine.execMldb f s
  | .mldbs f => Sys2Proof.Machine.execMldbs f s
  | .mldt f => Sys2Proof.Machine.execMldt f s
  | .mma f => Sys2Proof.Machine.execMma f s
  | .mmas f => Sys2Proof.Machine.execMmas f s
  | .msig f => Sys2Proof.Machine.execMsig f s
  | .mkset f => Sys2Proof.Machine.execMkset f s
  | .mzero f => Sys2Proof.Machine.execMzero f s
  | .mst f => Sys2Proof.Machine.execMst f s
  | .mrd f => Sys2Proof.Machine.execMrd f s
  | .mwr f => Sys2Proof.Machine.execMwr f s
  | .mscl f => Sys2Proof.Machine.execMscl f s
  | .mwait f => Sys2Proof.Machine.execMwait f s
  | .mstat f => Sys2Proof.Machine.execMstat f s
  | .wset f => Sys2Proof.Machine.execWset f s
  | .wget f => Sys2Proof.Machine.execWget f s
  | .trdec f => Sys2Proof.Machine.execTrdec f s
  | .trdecn f => Sys2Proof.Machine.execTrdecn f s
  | .trenc f => Sys2Proof.Machine.execTrenc f s
  | .trwait f => Sys2Proof.Machine.execTrwait f s
  | .topen f => Sys2Proof.Machine.execTopen f s
  | .trec f => Sys2Proof.Machine.execTrec f s
  | .tbr f => Sys2Proof.Machine.execTbr f s
  | .tmark f => Sys2Proof.Machine.execTmark f s
  | .tclose f => Sys2Proof.Machine.execTclose f s
  | .trev f => Sys2Proof.Machine.execTrev f s
  | .tget f => Sys2Proof.Machine.execTget f s
  | .tbrp f => Sys2Proof.Machine.execTbrp f s
  | .tstat f => Sys2Proof.Machine.execTstat f s
  | .tgrant f => Sys2Proof.Machine.execTgrant f s
  | .sread f => Sys2Proof.Machine.execSread f s
  | .swrite f => Sys2Proof.Machine.execSwrite f s
  | .evmark f => Sys2Proof.Machine.execEvmark f s
  | .sleep f => Sys2Proof.Machine.execSleep f s
  | .caprd f => Sys2Proof.Machine.execCaprd f s
  | .eret f => Sys2Proof.Machine.execEret f s
  | .trapr f => Sys2Proof.Machine.execTrapr f s
  | .energy f => Sys2Proof.Machine.execEnergy f s
  | .perfsel f => Sys2Proof.Machine.execPerfsel f s
  | .perfrd f => Sys2Proof.Machine.execPerfrd f s
  | .unassignedOpcode word => Sys2Proof.Machine.execUnassignedOpcode word s
  | .producerComplete wg warp idx => Sys2Proof.Machine.execProducerComplete wg warp idx s
  | .storeQueueDrain wg warp => Sys2Proof.Machine.execStoreQueueDrain wg warp s
  | .tableWalk wg warp split va access => Sys2Proof.Machine.execTableWalk wg warp split va access s
  | .faultEntryRecheck die entry => Sys2Proof.Machine.execFaultEntryRecheck die entry s
  | .faultQueueWaitEnd die => Sys2Proof.Machine.execFaultQueueWaitEnd die s
  | .faultResolutionLimit die entry => Sys2Proof.Machine.execFaultResolutionLimit die entry s
  | .icacheFill core sub => Sys2Proof.Machine.execIcacheFill core sub s
  | .cpaJobComplete job => Sys2Proof.Machine.execCpaJobComplete job s
  | .kickRequestComplete job => Sys2Proof.Machine.execKickRequestComplete job s
  | .trellisJobComplete job => Sys2Proof.Machine.execTrellisJobComplete job s
  | .caprdJobComplete job => Sys2Proof.Machine.execCaprdJobComplete job s
  | .matrixOpExecute wg => Sys2Proof.Machine.execMatrixOpExecute wg s
  | .matrixOpComplete wg => Sys2Proof.Machine.execMatrixOpComplete wg s
  | .formatEmulation wg warp split => Sys2Proof.Machine.execFormatEmulation wg warp split s
  | .monitorTimeout die idx => Sys2Proof.Machine.execMonitorTimeout die idx s
  | .sleepExpiry wg warp split => Sys2Proof.Machine.execSleepExpiry wg warp split s
  | .barrierDeadlock wg => Sys2Proof.Machine.execBarrierDeadlock wg s
  | .gangBarrierDeadlock gang => Sys2Proof.Machine.execGangBarrierDeadlock gang s
  | .rejoinDeadlock wg warp => Sys2Proof.Machine.execRejoinDeadlock wg warp s
  | .trapDelivery wg warp => Sys2Proof.Machine.execTrapDelivery wg warp s
  | .watchdog launch => Sys2Proof.Machine.execWatchdog launch s
  | .workGroupPlace die => Sys2Proof.Machine.execWorkGroupPlace die s
  | .gangPlace die => Sys2Proof.Machine.execGangPlace die s
  | .headAged die ctx queue => Sys2Proof.Machine.execHeadAged die ctx queue s
  | .warpSwap core sub => Sys2Proof.Machine.execWarpSwap core sub s
  | .ageingPromotion wg warp split => Sys2Proof.Machine.execAgeingPromotion wg warp split s
  | .workGroupRetire wg => Sys2Proof.Machine.execWorkGroupRetire wg s
  | .launchComplete launch => Sys2Proof.Machine.execLaunchComplete launch s
  | .timeSlice ctx core => Sys2Proof.Machine.execTimeSlice ctx core s
  | .gangSave gang => Sys2Proof.Machine.execGangSave gang s
  | .preemptionComplete ctx => Sys2Proof.Machine.execPreemptionComplete ctx s
  | .preemptionDeadline ctx => Sys2Proof.Machine.execPreemptionDeadline ctx s
  | .translationInvalidateComplete idx => Sys2Proof.Machine.execTranslationInvalidateComplete idx s
  | .clockStepDown die => Sys2Proof.Machine.execClockStepDown die s
  | .clockStepUp die => Sys2Proof.Machine.execClockStepUp die s
  | .varveTimeAnchor core => Sys2Proof.Machine.execVarveTimeAnchor core s
  | .issueSample core sub => Sys2Proof.Machine.execIssueSample core sub s
  | .varveDropRecord core => Sys2Proof.Machine.execVarveDropRecord core s
  | .freezeArrival core => Sys2Proof.Machine.execFreezeArrival core s
  | .capsuleSeal => Sys2Proof.Machine.execCapsuleSeal s
  | .createContext page => Sys2Proof.Machine.execCreateContext page s
  | .destroyContext page => Sys2Proof.Machine.execDestroyContext page s
  | .load page => Sys2Proof.Machine.execLoad page s
  | .unload page => Sys2Proof.Machine.execUnload page s
  | .hostLaunch page => Sys2Proof.Machine.execHostLaunch page s
  | .preEmpt page => Sys2Proof.Machine.execPreEmpt page s
  | .resume page => Sys2Proof.Machine.execResume page s
  | .translationInvalidate page => Sys2Proof.Machine.execTranslationInvalidate page s
  | .instructionCacheInvalidate page => Sys2Proof.Machine.execInstructionCacheInvalidate page s
  | .forcedReset page => Sys2Proof.Machine.execForcedReset page s
  | .quote page => Sys2Proof.Machine.execQuote page s
  | .capsuleRelease page => Sys2Proof.Machine.execCapsuleRelease page s
  | .faultReplay page => Sys2Proof.Machine.execFaultReplay page s
  | .faultFail page => Sys2Proof.Machine.execFaultFail page s
  | .trapResume page => Sys2Proof.Machine.execTrapResume page s
  | .trapReset page => Sys2Proof.Machine.execTrapReset page s
  | .lostLineClear page => Sys2Proof.Machine.execLostLineClear page s
  | .writePerformedAtHomeSlice core idx => Sys2Proof.Machine.execWritePerformedAtHomeSlice core idx s
  | .badOpcode page => Sys2Proof.Machine.execBadOpcode page s
  | .patrolScrub line => Sys2Proof.Machine.execPatrolScrub line s
  | .powerSample die tj => Sys2Proof.Machine.execPowerSample die tj s
  | .linkCrcRetransmit src dst => Sys2Proof.Machine.execLinkCrcRetransmit src dst s
  | .linkRetrainFailure core => Sys2Proof.Machine.execLinkRetrainFailure core s
  | .powerGood result => Sys2Proof.Machine.execPowerGood result s
  | .bringUpTimeout => Sys2Proof.Machine.execBringUpTimeout s
  | .powerLoss => Sys2Proof.Machine.execPowerLoss s
  | .managementWarmReset => Sys2Proof.Machine.execManagementWarmReset s
  | .managementColdReset => Sys2Proof.Machine.execManagementColdReset s
  | .managementCapsuleRelease => Sys2Proof.Machine.execManagementCapsuleRelease s
  | .managementReadCapsule block => Sys2Proof.Machine.execManagementReadCapsule block s
  | .managementReadSummary die => Sys2Proof.Machine.execManagementReadSummary die s
  | .managementReadStatus => Sys2Proof.Machine.execManagementReadStatus s
  | .managementReadKeys => Sys2Proof.Machine.execManagementReadKeys s
  | .managementReadTelemetry => Sys2Proof.Machine.execManagementReadTelemetry s
  | .hostWrite offset bytes => Sys2Proof.Machine.execHostWrite offset bytes s
  | .hostRead offset len => Sys2Proof.Machine.execHostRead offset len s
  | .peerInboundAccess peer addr write len => Sys2Proof.Machine.execPeerInboundAccess peer addr write len s
  | .sessionAgree session port => Sys2Proof.Machine.execSessionAgree session port s
  | .frameReceive session counter body tag => Sys2Proof.Machine.execFrameReceive session counter body tag s
  | .frameTransmit session body => Sys2Proof.Machine.execFrameTransmit session body s
  | .sessionRekey session => Sys2Proof.Machine.execSessionRekey session s
  | .oldKeyExpiry session => Sys2Proof.Machine.execOldKeyExpiry session s
  | .registerWrite offset value => Sys2Proof.Machine.execRegisterWrite offset value s
  | .cplHeadWrite page value => Sys2Proof.Machine.execCplHeadWrite page value s
  | .lrReadWrite page value => Sys2Proof.Machine.execLrReadWrite page value s
  | .peerAcknowledgement peer => Sys2Proof.Machine.execPeerAcknowledgement peer s
  | .liveRouteChange peer up => Sys2Proof.Machine.execLiveRouteChange peer up s
  | .doorbell page tail => Sys2Proof.Machine.execDoorbell page tail s

end Sys2Proof.Machine
end

