-- ==== Sys2Proof/Machine/Fetch.lean ====
section
/-! DEFINITION. Fetching and issuing: words at a pc, traces, passes, the split a sub-core chooses (file 08, R210 to
R213; file 09, R226, R227; file 01, R35; file 02, R52). -/

namespace Sys2Proof.Machine

/-! ### Words (R35, R52, R227, R380) -/

/-- What a fetch of one word ends with. -/
inductive Fetched where
  | word (w : Dword)
  /-- the translation fails -/
  | miss (m : Miss)
  /-- the line is not in the instruction cache -/
  | absent (line va : Nat)
  /-- a firmware reserve (R56) -/
  | reserve (va : Nat)
  deriving DecidableEq, Repr

/-- One instruction word: a warp of a privileged context may read P = 1 pages. Of a word that was written after its line
was cached, the fetch returns the old or the new content (R52; log 68). -/
def State.fetchWord (s : State) (core ctx va : Nat) : Fetched × State :=
  match s.translate core ctx va .execute (s.ctx ctx).privileged with
  | (.error m, s) => (.miss m, s)
  | (.ok p, s) =>
    if inReserve p.pa then (.reserve va, s)
    else
      match (s.core core).icache.look (ctx * 2 ^ 52 + p.pa / 128) with
      | none => (.absent (p.pa / 128) va, s)
      | some bytes =>
        let held := wordOfBytes ((bytes.drop (p.pa % 128)).take 8)
        let now := wordOfBytes (s.mem.bytes p.pa 8)
        (.word (if held ≠ now ∧ !s.badLine (p.pa / 128) ∧ Config.fetchesNew s.tick p.pa then now else held), s)

/-- n words from an address up; the first that cannot be fetched ends it. -/
def State.fetchWords (core ctx : Nat) : (n va : Nat) → State → Except Fetched (List Dword) × State
  | 0, _, s => (.ok [], s)
  | n + 1, va, s =>
    match s.fetchWord core ctx (va % 2 ^ 57) with
    | (.word w, s) =>
      match State.fetchWords core ctx n (va + 8) s with
      | (.ok ws, s) => (.ok (w :: ws), s)
      | e => e
    | (e, s) => (.error e, s)

/-- An instruction's words from the instruction cache: its own, then its extension words. -/
def State.fetchLines (s : State) (core ctx pc : Nat) : Except Fetched (List Dword) × State :=
  match s.fetchWord core ctx (pc % 2 ^ 57) with
  | (.word w, s) =>
    match State.fetchWords core ctx (extCount w) (pc + 8) s with
    | (.ok ws, s) => (.ok (w :: ws), s)
    | e => e
  | (e, s) => (.error e, s)

/-- The words of a split's next instruction: of the trace that it hits, or else from the instruction cache (R212). -/
def State.fetch (s : State) (c : Ctx) : Except Fetched (List Dword) × State :=
  match (s.core c.g.core).traced c.g.ctx c.uid c.wi c.width c.sp with
  | some ws => (.ok ws, s)
  | none => s.fetchLines c.g.core c.g.ctx c.sp.pc

/-! ### Passes and traces (R178, R212, R389, R426) -/

/-- Passes of an instruction of a split: its lanes' slices of sixteen that are not empty. -/
def passesOf (lanes : Lanes) (width : Nat) : Nat :=
  ((List.range (width / 16)).filter fun i => lanes.extractLsb' (16 * i) 16 != 0).length

/-- Instructions that end a trace as branches. -/
def isBranch : Instr → Bool
  | .bra _ => true
  | .brx _ => true
  | .call _ => true
  | .ret _ => true
  | .switch _ => true
  | _ => false

/-- Puts the words of a trace in the cache of 2,048 traces: behind those it holds under that tag, if there are more now. -/
def Core.keepTrace (k : Core) (tick : Nat) (x : Trace) : Core :=
  let same (t : Trace) : Bool := t.ctx == x.ctx && t.pc == x.pc && t.class_ == x.class_
  match k.traces.find? same with
  | some old =>
    if old.words.length < x.words.length then { k with traces := k.traces.map fun t => if same t then x else t } else k
  | none =>
    { k with traces := x :: if k.traces.length < 2048 then k.traces
                            else k.traces.eraseIdx (Config.victim tick % k.traces.length) }

/-- Notes an instruction of a split in the trace that it follows or builds; one that begins here hits, or is built. A trace
holds at most 16 words, and a branch ends it (R212). Answers whether it hit. -/
def Core.noteTrace (k : Core) (tick : Nat) (c : Ctx) (i : Instr) (ws : List Dword) : Bool × Core :=
  let on := (k.onTrace c.uid c.wi c.sp).filter fun t => t.words.length + ws.length ≤ 16
  let class_ := maskClass c.sp.lanes c.width
  let hit := on.isNone && (k.traces.any fun t => t.ctx == c.g.ctx && t.pc == c.sp.pc && t.class_ == class_)
  let before := (on.map (·.words)).getD []
  let k := k.keepTrace tick ⟨c.g.ctx, (c.sp.pc + 2 ^ 57 - 8 * before.length) % 2 ^ 57, class_, before ++ ws⟩
  let others := k.tracing.filter fun t =>
    !(t.wg == c.uid && t.warp == c.wi && t.split == c.sp.id) && (c.s.wgs.look t.wg).isSome
  (hit, { k with tracing := if isBranch i then others
      else ⟨c.uid, c.wi, c.sp.id, (c.sp.pc + 8 * ws.length) % 2 ^ 57, c.sp.lanes, before ++ ws,
        hit || (on.map (·.hit)).getD false⟩ :: others })

/-- Counts the passes of an instruction that issues: for the work-group's counters, and for the sample that each
4,096th pass of a sub-core takes. -/
def State.countIssue (s : State) (sub : Nat) (c : Ctx) (i : Instr) (ws : List Dword) : State :=
  let n := passesOf c.sp.lanes c.width
  let (hit, k) := (s.core c.g.core).noteTrace s.tick c i ws
  let x := k.sub sub
  let total := x.passes + n
  let x := if total < 4096 then { x with passes := total }
    else { x with passes := total - 4096,
                  sample := some ⟨c.sp.pc, maskClass c.sp.lanes c.width, c.context.tenant, c.w.slot⟩ }
  (s.setCore c.g.core (k.setSub sub x)).modWg c.uid fun g =>
    (g.count 1 n).count 5 (if hit then 1 else 0)

/-! ### One split -/

/-- What an instruction does when it issues: `exec`; a `txe` that begins its commits does not end them (R167; log 134). -/
def runAs (begins : Bool) (i : Instr) (s : State) : Res :=
  match i with
  | .txe f => if begins then beginTxe f s else exec (.txe f) s
  | i => exec i s

/-- The instruction of the current split, with what its issue counts; none when it stays in the wait it stands in,
which issues nothing (R185). -/
def State.issueOne (s : State) (begins : Bool) (sub : Nat) (c : Ctx) (i : Instr) (ws : List Dword) : Option Res :=
  let after (r : Res) : Option Split := match r with
    | .next t => (t.warp? c.uid c.wi).bind (·.split? c.sp.id)
    | _ => none
  let stays (r : Res) : Bool := match after r with
    | some sp => sp.wait.isSome && sp.wait == c.sp.wait && sp.arrived == c.sp.arrived
    | none => false
  let r := runAs begins i (s.countIssue sub c i ws)
  if (after r).any fun sp => sp.wait == some .retry then
    if stays (runAs begins i s) then none else some (runAs begins i s)
  else if stays r then none else some r

/-- A missing line freezes the sub-core until it arrives; the miss is counted (R213). -/
def State.freezeSub (s : State) (sub : Nat) (c : Ctx) (line va : Nat) : State :=
  let (n, s) := s.stamp
  s.modCore c.g.core fun k =>
    k.setSub sub { (k.sub sub) with frozen := some ⟨c.g.ctx, line, c.uid, c.wi, c.sp.id, va, n⟩ }

/-- A fetch that ends in no words: the sub-core is frozen, or the split takes the fault of its fetch. Each is a miss
(R35, R213). -/
def Ctx.noWords (c : Ctx) (sub : Nat) (x : Fetched) : Option Res :=
  let c := { c with s := c.s.modWg c.uid fun g => g.count 2 1 }
  match x with
  | .absent line va => some (.next (c.s.freezeSub sub c line va))
  | .miss m => some (c.faultOf (.miss m) c.sp.lanes .execute false)
  | .reserve va => some (c.faultOf (.access 4 va) c.sp.lanes .execute false)
  | .word _ => none

/-- Fetches and issues the next instruction of a split. -/
def State.runSplit (s : State) (begins : Bool) (sub u i id : Nat) : Option Res :=
  let s := { s with cur := some ⟨u, i, id, none⟩ }
  match ctxOf s with
  | none => none
  | some c =>
    match s.fetch c with
    | (.error x, s) => ({ c with s := s }).noWords sub x
    | (.ok ws, s) =>
      match decodeWords ws with
      | .ok (i, _) => s.issueOne begins sub { c with s := s } i ws
      | .error _ => none

/-- Whether the words of a split's next instruction are in reach: the split is ready only then (R211). -/
def State.inReach (s : State) (u i id : Nat) : Bool :=
  let s := { s with cur := some ⟨u, i, id, none⟩ }
  match ctxOf s with
  | none => false
  | some c =>
    match (s.fetch c).1 with
    | .ok _ => true
    | .error _ => false

/-! ### The choice (R211, Table 8.4) -/

/-- A split that a sub-core may choose: its work-group, warp and number, whether it waits, its key. -/
structure Choice where
  wg : Nat
  warp : Nat
  split : Nat
  key : List Nat
  deriving DecidableEq, Repr

/-- Table 8.4, key 2. -/
def roleRank (role : Nat) : Nat := if role = 1 then 0 else if role = 0 then 1 else 2

/-- The keys of Table 8.4; a wait that ends now makes its split ready now. -/
def choiceKey (now ageing : Nat) (g : WorkGroup) (i : Nat) (w : Warp) (sp : Split) : List Nat :=
  let ready := if sp.wait.isNone then sp.readyAt else now
  let aged := ready + ageing ≤ now
  [if aged then 0 else 1, if aged then ready else 0, roleRank (g.desc.role i), ready, w.slot,
    (lowest sp.lanes).getD 0]

/-- Whether one key comes before another. -/
def keyBefore : List Nat → List Nat → Bool
  | a :: r, b :: q => a < b || (a == b && keyBefore r q)
  | _, _ => false

def insertChoice (x : Choice) : List Choice → List Choice
  | [] => [x]
  | y :: r => if keyBefore x.key y.key then x :: y :: r else y :: insertChoice x r

/-- Whether a warp may issue a split, once it is active: firmware does not hold it, no trap of the split is held. -/
def Warp.mayIssue (w : Warp) (sp : Split) : Bool := w.fw.isNone && !w.heldFor sp.id && sp.runnable

/-- Whether every member of a work-group's gang is resident: no member issues before (R192). -/
def State.wholeGang (s : State) (u : Nat) (g : WorkGroup) : Bool :=
  (s.gangOf g u).all fun v => ((s.wgs.look v).map (·.resident)).getD true

/-- The splits of the active warps of a sub-core, or of all its resident ones, that may issue, in the order of Table 8.4.
None does while the sub-core is frozen or its die is too hot (R213, R467), or in a work-group that is being saved (R408). -/
def State.options (s : State) (core sub : Nat) (all : Bool) : List Choice :=
  if ((s.core core).sub sub).frozen.isSome || (s.die (core / 64)).stopped then []
  else
    let found := (s.warpsOn core sub).flatMap fun p =>
      match s.wgs.look p.1 with
      | none => []
      | some g =>
        if g.saving || !s.wholeGang p.1 g || !(all || p.2.2.active) then []
        else (p.2.2.splits.filter p.2.2.mayIssue).map fun sp =>
          (⟨p.1, p.2.1, sp.id, choiceKey (s.now core) (s.ctx g.ctx).ageing g p.2.1 p.2.2 sp⟩ : Choice)
    found.foldl (fun l x => insertChoice x l) []

/-- The splits that a sub-core may choose, first those whose next words are in reach: the others are not ready. When the
sub-core fetches for one of those is free (R211, R213; log 145). -/
def State.choices (s : State) (core sub : Nat) : List Choice :=
  let (ready, absent) := (s.options core sub false).partition fun c => s.inReach c.wg c.warp c.split
  if !absent.isEmpty && Config.fetchesAhead s.tick then absent ++ ready else ready ++ absent

/-- The blocked splits of a sub-core whose instruction now issues. -/
def State.unblocked (s : State) (core sub : Nat) : List Choice :=
  (s.options core sub true).filter fun c =>
    match (s.warp? c.wg c.warp).bind (·.split? c.split) with
    | some sp => sp.wait == some .retry && (s.runSplit false sub c.wg c.warp c.split).isSome
    | none => false

/-- Ends the waits of blocked splits whose instruction now issues, of pending warps too: they are ready from now (R210,
R211). -/
def State.unblock (s : State) (core sub : Nat) : State :=
  (s.unblocked core sub).foldl (fun t c => t.modWarp c.wg c.warp fun w => w.modSplit c.split fun sp =>
    { sp with wait := none, readyAt := s.now core, aged := false }) s

/-- Counts the promotion of the splits that have been ready for the ageing bound (Table 8.4, key 1; Table 18.3, event
9). -/
def State.promote (s : State) (core sub : Nat) : State :=
  (s.options core sub false).foldl (fun t c =>
    match execAgeingPromotion c.wg c.warp c.split t with
    | .next t => t
    | _ => t) s

/-- One turn of a sub-core: the first choice that issues; or only the ends of waits. -/
def State.issueTurn (s : State) (begins : Bool) (core sub : Nat) : Res :=
  let t := (s.unblock core sub).promote core sub
  match (t.choices core sub).findSome? fun c => t.runSplit begins sub c.wg c.warp c.split with
  | some r => r
  | none => if (s.unblocked core sub).isEmpty then .fault .notEnabled else .next t

/-! ### Turns -/

/-- Time passes: on the global timebase, and in the cycles that every die's clock makes (R6). -/
def State.passTime (s : State) (ps : Nat) : State :=
  (List.range 24).foldl (fun s d => s.modDie d fun k =>
      let made := k.phase + ps * k.clockMHz
      { k with cycles := k.cycles + made / 1000000, phase := made % 1000000 })
    { s with time := s.time + (s.sub + ps) / 1000, sub := (s.sub + ps) % 1000 }

/-- A bank shows its own core one write of another member, behind the writes before it to the same words (R138). -/
def State.showBank (s : State) (u n : Nat) : Res :=
  match s.wgs.look u with
  | none => .fault .notEnabled
  | some g =>
    match g.inbox[n]? with
    | none => .fault .notEnabled
    | some bs =>
      if (g.inbox.take n).any fun x => x.any fun a => bs.any fun b => a.1 / 4 == b.1 / 4 then .fault .notEnabled
      else .next (s.setWg u { g.take bs with inbox := g.inbox.eraseIdx n })

/-! ### What follows at once -/

/-- Ends the `monw` of the monitors that a table walk's write has woken (R162). -/
def State.endWoken (s : State) : State :=
  s.dies.foldl (fun s d => d.2.monitors.foldl (fun s p =>
    match p.2.woken with
    | some v => (s.modDie d.1 fun k => { k with monitors := k.monitors.del p.1 }).endMonitor p.2 0 v
    | none => s) s) s

/-- The entries of a slice in a lost-line table. -/
def Die.lostIn (d : Die) (slice : Nat) : List (Nat × Nat × List Byte) := d.lost.filter fun p => p.1 == slice

/-- A lost-line table that got a 17th entry of a slice: a fatal fault (R68, R412). -/
def State.lostOverflow (s : State) : State :=
  s.dies.foldl (fun s d => (List.range 64).foldl (fun s slice =>
    if (d.2.lostIn slice).length ≤ 16 then s
    else (s.modDie d.1 fun k => { k with lost := k.lost.filter (fun p => p.1 != slice) ++ (k.lostIn slice).take 16 }).fatal
      (d.1 * 64 + slice) 1) s) s

/-- Replays the splits whose replay waited and whose atomics are performed (R314). -/
def State.lateReplays (s : State) (u i : Nat) : State :=
  match s.warp? u i with
  | none => s
  | some w => w.splits.foldl (fun s sp =>
      if sp.wait == some .replay && (sp.lanes &&& s.unfinished u i) == 0 then s.replay u i sp.id else s) s

/-- What follows from a turn without a turn of its own: woken monitors, full lost-line tables, refused images, decided
commits, replays, gang barriers. -/
def State.settle (s : State) : State :=
  let s := s.endWoken.lostOverflow.failRestores
  let warps := s.wgs.flatMap fun g => (List.range g.2.warps.length).map fun i => (g.1, i)
  let s := warps.foldl (fun s p => (s.endCommits p.1 p.2).lateReplays p.1 p.2) s
  s.gangs.foldl (fun s g => s.gangTest g.1) s

/-- Splits created in a turn, for the counters of Table 18.3, event 8. -/
def State.countSplits (s old : State) : State :=
  { s with wgs := s.wgs.map fun p =>
      match old.wgs.look p.1 with
      | none => p
      | some g =>
        let made (g : WorkGroup) : Nat := (g.warps.map (·.nextSplit)).sum
        (p.1, p.2.count 8 (made p.2 - made g)) }

/-- What one turn does. -/
def State.playTurn (s : State) (t : Turn) : Res :=
  match t with
  | .issue core sub => s.issueTurn false core sub
  | .event e => exec e s
  | .pass ps => .next (s.passTime ps)
  | .upset x => .next (s.upset x)
  | .begin_ core sub => s.issueTurn true core sub
  | .lock u i l => s.lockNext u i l
  | .commit u i l => s.commitEnd u i l
  | .engine job put => s.engineMove job put
  | .relaxed offset bytes => s.hostPosts offset bytes true
  | .inbound n => s.inboundTurn n
  | .bank u n => s.showBank u n
  | .debugger on => .next (s.attachDebugger on)
  | .alter u => s.alterImage u

/-- A turn with what follows from it at once. -/
def State.play (s : State) (t : Turn) : Res :=
  match s.playTurn t with
  | .next x => .next { x.settle.countSplits s with cur := none, tick := x.settle.tick + 1 }
  | r => r

/-- Steps of the device about one work-group. -/
def groupEvents (p : Nat × WorkGroup) : List Instr :=
  let (u, g) := p
  [.matrixOpExecute u, .matrixOpComplete u, .barrierDeadlock u, .workGroupRetire u, .gangSave u] ++
    g.warps.zipIdx.flatMap fun q =>
      let (w, i) := q
      [.storeQueueDrain u i, .rejoinDeadlock u i, .trapDelivery u i] ++
        (List.range w.producers.length).map (fun k => .producerComplete u i k) ++
        w.splits.flatMap fun sp =>
          [.formatEmulation u i sp.id, .sleepExpiry u i sp.id, .ageingPromotion u i sp.id]

/-- Steps of the device about one die. -/
def dieEvents (s : State) (d : Nat) : List Instr :=
  [.faultQueueWaitEnd d, .workGroupPlace d, .gangPlace d, .clockStepDown d, .clockStepUp d,
    .powerSample d (Config.junction d s.tick)] ++
    (s.die d).faultQ.flatMap (fun p => [.faultEntryRecheck d p.1, .faultResolutionLimit d p.1]) ++
    (s.die d).monitors.map (fun p => .monitorTimeout d p.1) ++
    s.contexts.flatMap fun c => c.2.queues.map fun q => .headAged d c.1 q.1

/-- Steps of the device about one core. -/
def coreEvents (p : Nat × Core) : List Instr :=
  [.varveTimeAnchor p.1, .varveDropRecord p.1] ++
    (List.range p.2.outbound.length).map (fun k => .writePerformedAtHomeSlice p.1 k) ++
    (List.range 4).flatMap fun sub => [.icacheFill p.1 sub, .issueSample p.1 sub]

/-- Commands of a command page. -/
def pageEvents (p : Nat) : List Instr :=
  [.createContext p, .destroyContext p, .load p, .unload p, .hostLaunch p, .preEmpt p, .resume p,
    .translationInvalidate p, .instructionCacheInvalidate p, .forcedReset p, .quote p, .capsuleRelease p,
    .faultReplay p, .faultFail p, .trapResume p, .trapReset p, .lostLineClear p, .badOpcode p]

/-- Steps the device may take by itself. -/
def deviceEvents (s : State) : List Instr :=
  s.wgs.flatMap groupEvents ++
    s.gangs.flatMap (fun p => [.gangBarrierDeadlock p.1, .gangSave p.1]) ++
    (List.range 24).flatMap (dieEvents s) ++ s.cores.flatMap coreEvents ++
    (if s.frozen then (List.range 1536).map fun c => .freezeArrival c else []) ++
    s.jobs.flatMap (fun p => [.cpaJobComplete p.1, .kickRequestComplete p.1, .trellisJobComplete p.1,
      .caprdJobComplete p.1]) ++
    s.launches.flatMap (fun p => [.watchdog p.1, .launchComplete p.1]) ++
    s.contexts.flatMap (fun p => [.preemptionComplete p.1, .preemptionDeadline p.1] ++
      p.2.partition.map fun c => .timeSlice p.1 c) ++
    s.invals.map (fun p => .translationInvalidateComplete p.1) ++
    s.pages.flatMap (fun p => pageEvents p.1) ++ [.capsuleSeal, .patrolScrub (Config.pick (s.tick + 1))]

/-- The places where a sub-core has resident warps. -/
def State.places (s : State) : List (Nat × Nat) :=
  (s.wgs.flatMap fun g => if g.2.resident then g.2.warps.map fun w => (g.2.core, w.sub) else []).eraseDups

/-- Moves of commits under way (R167). -/
def commitTurns (s : State) : List Turn :=
  s.wgs.flatMap fun g => g.2.warps.zipIdx.flatMap fun w => w.1.txns.flatMap fun t =>
    if t.2.locks.isSome then [.lock g.1 w.2 t.1, .commit g.1 w.2 t.1] else []

/-- Moves of jobs that go on piece by piece (R142). -/
def jobTurns (s : State) : List Turn :=
  s.jobs.flatMap fun j => .engine j.1 none :: (List.range j.2.buf.length).map fun k => .engine j.1 (some k)

/-- Moves of accesses that have arrived and wait, and of writes that a bank does not show yet (R138, R146). -/
def waitingTurns (s : State) : List Turn :=
  (List.range s.inbound.length).map .inbound ++
    s.wgs.flatMap fun g => (List.range g.2.inbox.length).map fun n => .bank g.1 n

/-- The turns that may come next by themselves. -/
def State.turns (s : State) : List Turn :=
  s.places.flatMap (fun p => [.issue p.1 p.2, .begin_ p.1 p.2, .event (.warpSwap p.1 p.2)]) ++
    (deviceEvents s).map .event ++ commitTurns s ++ jobTurns s ++ waitingTurns s

/-- A step that nothing outside asks for: one of the possible turns, or none, and time passes. -/
def State.freeStep (s : State) : State :=
  let nexts := s.turns.filterMap fun t =>
    match s.play t with
    | .next x => some x
    | _ => none
  let x := match nexts[Config.pick s.tick % max 1 nexts.length]? with
    | some x => x
    | none => { s with tick := s.tick + 1 }
  x.passTime (Config.elapsedPs s.tick)

end Sys2Proof.Machine
end

