-- ==== Sys2Proof/Machine/Step.lean ====
section
/-! DEFINITION. The step of the module, and the state in which its next step runs a given instruction. -/

namespace Sys2Proof.Machine

/-- One step: the first turn of the agenda, or else a turn of the device's own choice (log 1, 2). A turn of the
agenda that is not possible then passes. -/
def step (s : State) : Host.Outcome State Fault Refusal :=
  match s.agenda with
  | [] => .next s.freeStep
  | t :: rest =>
    let s := { s with agenda := rest }
    match s.play t with
    | .fault .notEnabled => .next { s with tick := s.tick + 1 }
    | r => r

/-- A launch descriptor of one warp of 32 threads with 224 registers, whose first instruction stands at address
65,536. -/
def probeDesc : Desc :=
  { entry := 65536, args := 0, gridX := 0, gridY := 0, gridZ := 0, pool := 0, threads := 32, width := 32, regs := 224,
    gangW := 1, gangH := 1, energy := 0, matrix := true, persist := false, after := false, needDet := false,
    roles := 0, succTab := 0, digest := 0, seed := 0, ctrBase := 0 }

/-- A privileged context with every feature. -/
def probeContext : Context :=
  { noContext with privileged := true, feat1 := Config.hardwareFeatures, partition := [0], execFrames := [1] }

/-- A translation of the page at 65,536 to the frame at 65,536: readable, executable, privileged. -/
def probePage : TlbEntry := ⟨63, 1, 1, 65536, 0x0835, 0, [1], []⟩

/-- A work-group of context 63 on core 0 whose one warp, on sub-core 0, is about to issue. -/
def probeGroup (s : State) : WorkGroup :=
  newWorkGroup { s with wgs := [] } 63 s.nextUid 0 probeDesc none 0 0 0 0 true

/-- The state with an instruction's bytes at the program counter that the next step fetches from: in the memory and
the instruction cache of core 0, in context 63, for the only work-group of that core (log 7). -/
def State.withFetchWord (s : State) (nbits w : Nat) : State :=
  let bytes := tableBytes nbits w
  let line := bytes ++ List.replicate 88 0
  let others := s.wgs.filter fun (p : Nat × WorkGroup) => p.2.core != 0
  let cells := bytes.zipIdx.map fun (p : Byte × Nat) => (65536 + p.2, p.1)
  let s := { s with
    agenda := .issue 0 0 :: s.agenda
    contexts := s.contexts.put 63 (some probeContext)
    wgs := Sparse.put others s.nextUid (some (probeGroup s))
    nextUid := s.nextUid + 1
    mem := s.mem.setBytes cells }
  let s := s.modDie 0 fun d => { d with stopped := false }
  s.modCore 0 fun k =>
    { k.setSub 0 .reset with
      tlb := probePage :: k.tlb
      icache := k.icache.put (63 * 2 ^ 52 + 512) (some line)
      traces := k.traces.filter fun t => t.ctx != 63
      tracing := k.tracing.filter fun t => t.wg != s.nextUid }

end Sys2Proof.Machine
end

