-- ==== Sys2Proof/Safety.lean ====
section
/-! DEFINITION. The terms in which the statements speak: when an instruction issues, and what a next state of its own
effect is. -/

namespace Sys2Proof.Machine

/-! ### When an instruction issues -/

/-- The instruction `i` issues in `s` for the split of `c`: the word is legal (R241), no executing lane is in a
transaction that it would end (R164), no register it names is empty (R185, R263), its format records are well formed and
of no width that firmware completes (R73, R74), and no register it reads is uncorrectable (R67). -/
structure Issues (i : Instr) (s : State) (c : Ctx) : Prop where
  here : ctxOf s = some c
  legal : causeOf c.env i = none
  free : disallowed i = true → ∀ l ∈ lanesOf (c.execs i), c.w.txns.look l = none
  full : ∀ o ∈ c.operands i, o.late = false → emptyLanes c.w c.sp.lanes o = 0
  drained : drains i = true → anyEmpty c.w c.sp.lanes = false
  records : badSlot c.slots (slotsOf i) = none
  native : wide c.slots i = true → c.emul.isSome = true
  sound : c.damaged i = []

/-! ### What a completed instruction leaves -/

/-- The state of `c` with the warp `w` in place of its own and the split at the next instruction. -/
def Ctx.after (c : Ctx) (i : Instr) (w : Warp) : State :=
  c.s.setWarp c.uid c.wi (w.modSplit c.sp.id fun sp => sp.next (sizeOf i) c.now)

/-- The state of `c` with the warp `w`, whose split of `c` begins a region at the next instruction (R263, R403). -/
def Ctx.afterRegion (c : Ctx) (i : Instr) (w : Warp) : State :=
  let w := w.openRegion
  c.s.setWarp c.uid c.wi (w.modSplit c.sp.id fun sp =>
    { w.atRegion sp ((sp.pc + sizeOf i) % 2 ^ 57) with readyAt := c.now, aged := false })

/-- `w'` is the warp `w` with n registers of `d` written in each unit of execution by the low 32 n bits of `value`,
which gives them sound check bits (R67), every other register as it was, and nothing else changed (R229, R230). -/
structure Ctx.Writes (c : Ctx) (w : Warp) (i : Instr) (d : BitVec 8) (n : Nat) (value : Nat → Nat) (w' : Warp) :
    Prop where
  only : w' = { w with regs := w'.regs, damaged := w'.damaged }
  value : ∀ l ∈ unitsOf d (c.execs i), w'.rdN d l n = value l % 2 ^ (32 * n)
  frame : ∀ k, k ∉ destKeys d n (unitsOf d (c.execs i)) →
    Sparse.get (0 : Word) w'.regs k = Sparse.get (0 : Word) w.regs k
  sound : ∀ k, w'.isDamaged k = (w.isDamaged k && decide (k ∉ destKeys d n (unitsOf d (c.execs i))))

/-- `t` is the state after an instruction that leaves the warp as `w` and writes n registers of `d` per unit. -/
def Ctx.ResultOn (c : Ctx) (w : Warp) (i : Instr) (d : BitVec 8) (n : Nat) (value : Nat → Nat) (t : State) : Prop :=
  ∃ w', t = c.after i w' ∧ c.Writes w i d n value w'

/-- `t` is the state after an instruction that writes n registers of `d` per unit and has no other effect. -/
def Ctx.Result (c : Ctx) (i : Instr) (d : BitVec 8) (n : Nat) (value : Nat → Nat) (t : State) : Prop :=
  c.ResultOn c.w i d n value t

/-- The same for a typed integer result: element j of D is `value l j` modulo 2^n (R249). -/
def Ctx.TypedResult (c : Ctx) (i : Instr) (d : BitVec 8) (ty : BitVec 4) (value : (l j : Nat) → Int) (t : State) :
    Prop :=
  ∃ x, c.Result i d (typeRegs ty) x t ∧
    ∀ l ∈ unitsOf d (c.execs i), ∀ j < typeCount ty, elemInt ty (x l) j = asType ty (value l j)

/-- `w'` is the warp of `c` with the bits of some lanes of mask register m written, and nothing else changed (R179). -/
structure Ctx.WritesMask (c : Ctx) (m : Nat) (lanes : Nat → Bool) (bit : Nat → Bool) (w' : Warp) : Prop where
  only : w' = { c.w with masks := w'.masks }
  value : ∀ l, l < 128 → (w'.mask m).getLsbD l = if lanes l then bit l else (c.w.mask m).getLsbD l
  frame : ∀ k, k ≠ m → w'.mask k = c.w.mask k

/-- `t` is the state after an instruction that writes mask bits, after which the `rwait`s on the mask are tested
(R182). -/
def Ctx.MaskResult (c : Ctx) (i : Instr) (m : Nat) (lanes bit : Nat → Bool) (t : State) : Prop :=
  ∃ w', t = (c.after i w').rejoin c.uid c.wi m ∧ c.WritesMask m lanes bit w'

/-- The executing lanes below W. -/
def Ctx.maskLanes (c : Ctx) (i : Instr) (l : Nat) : Bool := (c.execs i).getLsbD l && decide (l < c.width)

/-- `w'` is the warp `w` with n registers of `d` per unit marked empty and a new producer in flight that will write
`value` to them; nothing else is changed (R184). -/
structure Ctx.Starts (c : Ctx) (w : Warp) (i : Instr) (d : BitVec 8) (n : Nat) (value : Nat → Nat) (w' : Warp) :
    Prop where
  only : w' = { w with empty := w'.empty, producers := w'.producers, nextProducer := w.nextProducer + 1 }
  empties : ∀ k, w'.isEmpty k = (w.isEmpty k || decide (k ∈ destKeys d n (unitsOf d (c.execs i))))
  last : ∃ p, w'.producers = w.producers ++ [p] ∧ p.id = w.nextProducer ∧ p.split = c.sp.id ∧
    p.dests = destKeys d n (unitsOf d (c.execs i)) ∧
    p.work = .values (regWrites d n ((unitsOf d (c.execs i)).map fun l => (l, value l)))

/-- `t` is the state after a long-running instruction that leaves the warp as `w`: its results are in flight, or no lane
executes it. -/
def Ctx.Later (c : Ctx) (w : Warp) (i : Instr) (d : BitVec 8) (n : Nat) (value : Nat → Nat) (t : State) : Prop :=
  ∃ w', t = c.after i w' ∧ if c.execs i = 0 then w' = w else c.Starts w i d n value w'

/-- `t` is `s` but for records in the rings of the cores' recorders (R424). -/
def Recorded (s t : State) : Prop :=
  t = { s with cores := t.cores } ∧ ∀ k, t.core k = { s.core k with varve := (t.core k).varve }

/-- `t` is the state after lane l of the split has moved to `target l`, with the warp `w` otherwise: the split divides
by distinct targets and its lanes keep their region; the other splits stay (R180, R259). -/
def Ctx.Branched (c : Ctx) (w : Warp) (target : Nat → Nat) (t : State) : Prop :=
  ∃ w', Recorded (c.s.setWarp c.uid c.wi w') t ∧
    w' = { w with splits := w'.splits, nextSplit := w'.nextSplit } ∧
    (∀ sp ∈ w.splits, sp.id ≠ c.sp.id → sp ∈ w'.splits) ∧
    (∀ l, c.sp.lanes.getLsbD l = true → ∃ sp ∈ w'.splits, sp.lanes.getLsbD l = true ∧ sp.pc = target l ∧
      sp.wait = none ∧ sp.entry = c.sp.entry ∧ sp.counter = c.sp.counter ∧
      ∀ k, sp.lanes.getLsbD k = (c.sp.lanes.getLsbD k && decide (target k = target l))) ∧
    ∀ sp ∈ w'.splits, (sp ∈ w.splits ∧ sp.id ≠ c.sp.id) ∨
      ∃ l, c.sp.lanes.getLsbD l = true ∧ sp.lanes.getLsbD l = true ∧ sp.pc = target l

/-- The state after the instruction of `c` takes a trap and has no other effect: its split's own wait is over, and the
trap is taken (R394). -/
def Ctx.trapped (c : Ctx) (t : Trap) : State :=
  (c.s.modWarp c.uid c.wi fun w => w.modSplit c.sp.id fun sp => { sp with wait := none, arrived := none }).takeTrap
    c.uid c.wi t

/-- A trap of the split of `c` with the fields of Table 19.3 that every kind fills; `resume` is where the split goes on,
none at its region entry. -/
def Ctx.trapOf (c : Ctx) (kind cause : Nat) (lanes : Lanes) (resume : Option Nat) : Trap :=
  { kind := kind, cause := cause, detail := 0, lanes := lanes, pc := c.sp.pc, entry := c.sp.entry,
    counter := c.sp.counter, address := 0, reg := 0, unit := 0, time := c.s.time, splits := [(c.sp.id, resume)] }

/-- An instruction of the set of opcodes, an unassigned opcode among them; the other constructors are steps of the
device and inputs from outside. -/
def isInstruction (i : Instr) : Bool :=
  match i with
  | .unassignedOpcode _ => true
  | i => (useOf ⟨32, 224, [], 0, true, true⟩ i).isSome

/-! ### Values the tables describe -/

/-- Bit k of a shifted or rotated element of n bits: 0 left, 1 right, 2 right with copies of the top bit, 3 rotated left
(Table 10.3). -/
def shiftedBit (kind n a count k : Nat) : Bool :=
  match kind with
  | 0 => count ≤ k && a.testBit (k - count)
  | 1 => k + count < n && a.testBit (k + count)
  | 2 => a.testBit (min (k + count) (n - 1))
  | _ => a.testBit ((k + (n - count % n)) % n)

/-- What a reduction of operation `op` gives at element j over some operands (R270, Table 10.10): sum, least, greatest,
and, or, exclusive or. -/
def reduced (op : Nat) (t : BitVec 4) (xs : List Nat) (j : Nat) : Int :=
  let bits := xs.map fun x => elemOf x (typeBits t) j
  match op with
  | 0 => (xs.map fun x => elemInt t x j).sum
  | 1 => (xs.map fun x => elemInt t x j).foldl min (typeMax t)
  | 2 => (xs.map fun x => elemInt t x j).foldl max (typeMin t)
  | 3 => (bits.foldl (· &&& ·) (2 ^ typeBits t - 1) : Nat)
  | 4 => (bits.foldl (· ||| ·) 0 : Nat)
  | _ => (bits.foldl (· ^^^ ·) 0 : Nat)

/-- The elements of a register run of a floating result: element j is `value l j` and the bits above the last are zero
(R89, R274). -/
def Elements (r : Dword) (n : Nat) (x : Nat) (value : Nat → Nat) : Prop :=
  x < 2 ^ (Rec.w r * n) ∧ ∀ j < n, elemOf x (Rec.w r) j = value j % 2 ^ Rec.w r

/-- `w` is the warp of `c` with the stochastic count of some lanes raised by ⌈n / 4⌉ when the record rounds
stochastically, and nothing else changed (R83). -/
def Ctx.Draws (c : Ctx) (r : Dword) (n : Nat) (lanes : List Nat) (w : Warp) : Prop :=
  w = { c.w with seq := w.seq } ∧ ∀ l, Sparse.get (0 : Word) w.seq l =
    if Rec.round r = 5 ∧ l ∈ lanes then Sparse.get (0 : Word) c.w.seq l + BitVec.ofNat 32 ((n + 3) / 4)
    else Sparse.get (0 : Word) c.w.seq l

/-- `t` is the state after a floating instruction with destination `d`, record `r` and `n` elements per unit, of which
element j is `value l j`; its stochastic counts have risen. -/
def Ctx.FloatResult (c : Ctx) (i : Instr) (d : BitVec 8) (r : Dword) (n : Nat) (value : (l j : Nat) → Nat)
    (t : State) : Prop :=
  ∃ w x, c.Draws r n (unitsOf d (c.execs i)) w ∧ c.ResultOn w i d (recRegs r) x t ∧
    ∀ l ∈ unitsOf d (c.execs i), Elements r n (x l) (value l)

/-! ### Memory -/

/-- `t` is `s` but for A and D bits of table entries, set and never cleared, for what the TLBs, walk caches and L2 slices
hold (R17, R21, R24, R51), for what a line's leaving its slice damages and logs (R68), and for monitors that a table
entry's write wakes (R162). -/
def Touched (s t : State) : Prop :=
  t = { s with mem := t.mem, cores := t.cores, dies := t.dies, hbmBad := t.hbmBad } ∧
  (∀ a, t.mem.byte a ||| 0x60 = s.mem.byte a ||| 0x60 ∧ s.mem.byte a &&& t.mem.byte a = s.mem.byte a) ∧
  (∀ k, t.core k = { s.core k with tlb := (t.core k).tlb }) ∧
  (∀ d, t.die d = { s.die d with
    tlb := (t.die d).tlb, walks := (t.die d).walks, l2 := (t.die d).l2, lost := (t.die d).lost,
    eccLog := (t.die d).eccLog, monitors := (t.die d).monitors }) ∧
  ∀ d, (s.die d).eccLog <+: (t.die d).eccLog ∧
    (t.die d).monitors.map (fun p => (p.1, { p.2 with woken := none })) =
      (s.die d).monitors.map (fun p => (p.1, { p.2 with woken := none }))

/-- The targets of spans and the context in the state that their translation leaves. -/
def Ctx.reached (c : Ctx) (h : Nat → How) (space : Nat) (xs : List Span) : List Target × Ctx :=
  ((c.targets c.s h space xs).1, { c with s := (c.targets c.s h space xs).2 })

/-- The context behind the next running number, which the access at hand takes (R126). -/
def Ctx.stamped (c : Ctx) : Ctx := { c with s := { c.s with order := c.s.order + 1 } }

/-- `w'` is the warp `w` with registers marked empty and a new producer in flight that does `work`; nothing else is
changed (R184). -/
structure Ctx.InFlight (c : Ctx) (w : Warp) (keys : List RegKey) (work : Work) (order : Nat) (w' : Warp) : Prop where
  only : w' = { w with empty := w'.empty, producers := w'.producers, nextProducer := w.nextProducer + 1 }
  empties : ∀ k, w'.isEmpty k = (w.isEmpty k || decide (k ∈ keys))
  last : w'.producers = w.producers ++ [⟨w.nextProducer, c.sp.id, keys, work, order, none⟩]

/-- No claim of a job holds the lines of targets against the split, and their data is sound (R141, R67). -/
def Ctx.Unclaimed (c : Ctx) (ts : List Target) : Prop :=
  c.s.claimed c.uid c.wi c.s.order (c.sp.arrived.map (·.1)) (targetLocs ts) = false ∧
  ∀ t ∈ ts, ∀ a ∈ t.addrs, c.s.badAddr a = false

/-- `t` is a state in which the instruction `i` has queued an operation of its work-group (R327): the last of the queue,
with the next queue number, the values it read, its elements and tokens, the records sampled and the warp's key given;
nothing of the warp's registers, masks or stores has changed. -/
def Ctx.Queues (c : Ctx) (i : Instr) (scalars : List Nat) (elems : List (Nat × Nat × Nat)) (tokens : List (Nat × Word))
    (key : BitVec 128) (t : State) : Prop :=
  ∃ g w op j, t.wgs.look c.uid = some g ∧ g.warps[c.wi]? = some w ∧ g.ops = c.g.ops ++ [op] ∧
    op.number = c.g.queueNo ∧ op.instr = i ∧ op.warp = c.wi ∧ op.scalars = scalars ∧ op.elems = elems ∧
    op.tokens = tokens ∧ op.slots = c.slots ∧ op.key = key ∧ op.executed = false ∧ t.jobs.look op.job = some j ∧
    j.kind = .matrix c.g.queueNo tokens ∧ j.done = false ∧ g.queueNo = c.g.queueNo + 1 ∧ w.masks = c.w.masks ∧
    w.storeQ = c.w.storeQ ∧ w.regs = c.w.regs ∧ g.tiles = c.g.tiles ∧ g.scratch = c.g.scratch ∧
    ∀ a, t.mem.byte a ||| 0x60 = c.s.mem.byte a ||| 0x60

/-! ### Commands -/

/-- The command processor of a page takes up the entry `c` of an opcode, and every check of R461, R462 and R469 passes:
the module is ready, the page may name the context, no bit but the operands' is set. -/
structure Accepted (s : State) (page opcode : Nat) (operands : List (Nat × Nat)) (c : Cmd) : Prop where
  next : s.nextCommand page = some c
  opcode : c.opcode = opcode
  ready : s.ready = true
  named : s.mayName c = true
  clean : c.reserved operands = false

end Sys2Proof.Machine
end

