-- ==== Sys2Proof/Certificates/Slice0/Obligations.lean ====
section
/-! DEFINITION. The statements for the provers, each a rule of the manual or a consequence of rules. -/

open Sys2Proof Sys2Proof.Machine

/-! ### Encoding -/

/-- Tables 9.3 to 9.12, 9.15, R226: words that the manual writes out decode to the instructions it gives them. -/
def Obligations.WordsDecode : Prop :=
  let all : Guard := ⟨false, false, 0⟩
  decodeWords [0x43CC28101418C158] = .ok (.ffma ⟨⟨true, true, 3⟩, 10, 4, 5, 6, 3, 1, 2, 3, 0⟩, []) ∧
  decodeWords [0x80000B901E840288, 0x40] =
    .ok (.ld ⟨all, 2, 0xE4, 7, true, 1, 0, 4, 0, 1, 1, 0, false, 0, some 0x40⟩, []) ∧
  decodeWords [0x06000000000C0C03, 0x00000C0400000801, 0x1007, 0x43CC28101418C158] =
    .ok (.switch ⟨⟨all, 3, 0, 3, 3⟩, [0x00000C0400000801, 0x1007]⟩, [0x43CC28101418C158]) ∧
  decodeWords [0x87000B9000044000, 5] =
    .ok (.atom ⟨⟨all, 2, 0xE4, 0, false, 0, 0, 4, 4, 0, 0, 0, false, 0, none⟩, 5⟩, []) ∧
  decodeWords [0xA3004E84C0A80000] = .ok (.mma ⟨all, 4, 0xE8, 1, 3, 0, false, 2, true, 1, 0⟩, []) ∧
  decodeWords [0xD6000C0000080000] = .ok (.trapr ⟨all, 3, 0, 2, 0, 0, 0⟩, []) ∧
  decodeWords [0x80000B901E840288] = .error .short ∧ decodeWords [0] = .ok (.unassignedOpcode 0, [])

/-- R226 to R240: decoding the words of a well-formed instruction gives back the instruction, with every field at every
value, and the words behind it. R226, R227, R240: every word begins some well-formed instruction of one to five words,
and the words that decoding consumes are those that encoding gives. -/
def Obligations.DecodeAndEncodeAgree : Prop :=
  (∀ i rest, i.wellFormed = true → decodeWords (encode i ++ rest) = .ok (i, rest)) ∧
  (∀ ws i rest, decodeWords ws = .ok (i, rest) → i.wellFormed = true ∧ encode i ++ rest = ws ∧
     1 ≤ (encode i).length ∧ (encode i).length ≤ 5)

/-! ### Integers -/

/-- R249, Table 10.1: each element of D is the row's result of the elements of A, B and C after their modifiers, modulo
2^n; nothing but the destination registers and the split's place changes. Table 10.1, `isat`: a signed T clamps the
element read as unsigned to 2^(n−1) − 1, an unsigned T clamps the element read as signed below at 0. R253: `qadd` adds
quads modulo 2^128. R256: `lea` adds the scaled signed index to a pair modulo 2^64. R257: `iaddi`, `imuli` and `imadi`
act as their format R counterparts, with the immediate read as T for B and D as the addend of `imadi`. -/
def Obligations.IntegerResults : Prop :=
  (∀ p ∈ ([(.iadd, fun _ a b _ => a + b), (.isub, fun _ a b _ => a - b), (.imul, fun _ a b _ => a * b),
       (.imulh, fun t a b _ => Int.fdiv (a * b) (2 ^ typeBits t)), (.imad, fun _ a b c => a * b + c),
       (.imin, fun _ a b _ => if a ≤ b then a else b), (.imax, fun _ a b _ => if a ≤ b then b else a),
       (.iabs, fun _ a _ _ => a.natAbs), (.ineg, fun _ a _ _ => -a),
       (.iadds, fun t a b _ => clampType t (a + b)), (.isubs, fun t a b _ => clampType t (a - b))] :
       List ((FmtR → Instr) × (BitVec 4 → Int → Int → Int → Int))),
     ∀ f s c, Issues (p.1 f) s c → ∃ t, exec (p.1 f) s = .next t ∧
       c.TypedResult (p.1 f) f.d f.f (fun l j => p.2 f.f (c.smod f 0 l j) (c.smod f 1 l j) (c.smod f 2 l j)) t) ∧
  (∀ f s c, Issues (.isat f) s c → ∃ t, exec (.isat f) s = .next t ∧
     c.TypedResult (.isat f) f.d f.f (fun l j =>
       let u := elemOf (c.typed f.f f.a l) (typeBits f.f) j
       if typeSigned f.f then min (u : Int) (2 ^ (typeBits f.f - 1) - 1)
       else max (BitVec.ofNat (typeBits f.f) u).toInt 0) t) ∧
  ((∀ f s c, Issues (.qadd f) s c → ∃ t, exec (.qadd f) s = .next t ∧
     c.Result (.qadd f) f.d 4 (fun l => (c.w.rdN f.a l 4 + c.w.rdN f.b l 4) % 2 ^ 128) t) ∧
   ∀ f s c, Issues (.lea f) s c → ∃ t x, exec (.lea f) s = .next t ∧ c.Result (.lea f) f.d 2 x t ∧
     ∀ l, (x l : Int) = ((c.w.rd64 f.a l : Int) + (c.w.rd f.b l).toInt * leaScale f.f) % 2 ^ 64) ∧
  (∀ p ∈ ([(.iaddi, fun a b _ => a + b), (.imuli, fun a b _ => a * b), (.imadi, fun a b d => a * b + d)] :
       List ((FmtI → Instr) × (Int → Int → Int → Int))),
     ∀ f s c, Issues (p.1 f) s c → ∃ t, exec (p.1 f) s = .next t ∧
       c.TypedResult (p.1 f) f.d f.f (fun l j => p.2 (elemInt f.f (c.typed f.f f.a l) j)
         (elemInt f.f (immOf f false).toNat j) (elemInt f.f (c.typed f.f f.d l) j)) t)

/-- R251, Table 10.2: the quotient toward zero and the remainder with the sign of a, the edges as the table lists them;
D is empty from issue on, its values in flight. -/
def Obligations.DivisionEdges : Prop :=
  (∀ f s c, Issues (.idiv f) s c → ∃ t x, exec (.idiv f) s = .next t ∧
    c.Later c.w (.idiv f) f.d (typeRegs f.f) x t ∧
    ∀ l j, j < typeCount f.f → elemInt f.f (x l) j = asType f.f (
      let a := c.smod f 0 l j
      let b := c.smod f 1 l j
      if b = 0 then (if typeSigned f.f then -1 else 2 ^ typeBits f.f - 1)
      else if typeSigned f.f ∧ a = -(2 ^ (typeBits f.f - 1)) ∧ b = -1 then -(2 ^ (typeBits f.f - 1))
      else a.tdiv b)) ∧
  ∀ f s c, Issues (.irem f) s c → ∃ t x, exec (.irem f) s = .next t ∧
    c.Later c.w (.irem f) f.d (typeRegs f.f) x t ∧
    ∀ l j, j < typeCount f.f → elemInt f.f (x l) j = asType f.f (
      let a := c.smod f 0 l j
      let b := c.smod f 1 l j
      if b = 0 then a else a - b * a.tdiv b)

/-- R252, R257: `icmp` and `icmpi` set bit l of the mask of each executing lane to the condition, compared as T; every
other bit of the mask is unchanged, and then the `rwait`s on the mask are tested. R278: the mask bit is the condition
of every element pair. R279: `fclass` writes a class code for each of the first eight elements and zeros above. -/
def Obligations.Comparisons : Prop :=
  ((∀ f s c, Issues (.icmp f) s c → ∃ t, exec (.icmp f) s = .next t ∧
     c.MaskResult (.icmp f) (f.d.toNat % 16) (c.maskLanes (.icmp f))
       (fun l => intCond (f.d.toNat / 16) (elemInt f.f (c.typed f.f f.a l) 0) (elemInt f.f (c.typed f.f f.b l) 0)) t) ∧
   ∀ f s c, Issues (.icmpi f) s c → ∃ t, exec (.icmpi f) s = .next t ∧
     c.MaskResult (.icmpi f) (f.d.toNat % 16) (c.maskLanes (.icmpi f))
       (fun l => intCond (f.d.toNat / 16) (elemInt f.f (c.typed f.f f.a l) 0)
         (elemInt f.f (immOf f false).toNat 0)) t) ∧
  ((∀ f s c, Issues (.fcmp f) s c → ∃ t, exec (.fcmp f) s = .next t ∧
     let r := c.record f.f.toNat
     c.MaskResult (.fcmp f) (f.d.toNat % 16) (c.maskLanes (.fcmp f)) (fun l =>
       decide (∀ j < Rec.ne r, valCond (f.d.toNat / 16) (c.src f r 0 l j) (c.src f r 1 l j) = true)) t) ∧
   ∀ f s c, Issues (.fclass f) s c → ∃ t x, exec (.fclass f) s = .next t ∧ c.Result (.fclass f) f.d 1 x t ∧
     let r := c.record f.f.toNat
     ∀ l, x l < 2 ^ (4 * min (Rec.ne r) 8) ∧ ∀ j < min (Rec.ne r) 8,
       elemOf (x l) 4 j = classOf r (f.mod.getLsbD 0) (f.mod.getLsbD 1) (c.code r f.a l j))

/-- R254: `and`, `or`, `xor`, `andn`, `not` and their immediate forms act bit by bit on 32 or 64 bits. Table 10.3: the
shifts and the rotate, element by element, by the counts of B or of the immediate. -/
def Obligations.BitwiseAndShiftResults : Prop :=
  ((∀ p ∈ ([(.and, fun a b => a && b), (.or, fun a b => a || b), (.xor, fun a b => a ^^ b),
       (.andn, fun a b => a && !b), (.not, fun a _ => !a)] : List ((FmtR → Instr) × (Bool → Bool → Bool))),
     ∀ f s c, Issues (p.1 f) s c → ∃ t x, exec (p.1 f) s = .next t ∧ c.Result (p.1 f) f.d (typeRegs f.f) x t ∧
       ∀ l k, k < 32 * typeRegs f.f → (x l).testBit k =
         p.2 ((c.typed f.f f.a l).testBit k) ((c.typed f.f f.b l).testBit k)) ∧
   ∀ p ∈ ([(.andi, fun a b => a && b), (.ori, fun a b => a || b), (.xori, fun a b => a ^^ b)] :
       List ((FmtI → Instr) × (Bool → Bool → Bool))),
     ∀ f s c, Issues (p.1 f) s c → ∃ t x, exec (p.1 f) s = .next t ∧ c.Result (p.1 f) f.d (typeRegs f.f) x t ∧
       ∀ l k, k < 32 * typeRegs f.f → (x l).testBit k =
         p.2 ((c.typed f.f f.a l).testBit k) ((immOf f false).getLsbD k)) ∧
  ((∀ p ∈ ([(.shl, 0), (.shr, 1), (.sar, 2), (.rol, 3)] : List ((FmtR → Instr) × Nat)),
     ∀ f s c, Issues (p.1 f) s c → ∃ t x, exec (p.1 f) s = .next t ∧ c.Result (p.1 f) f.d (typeRegs f.f) x t ∧
       ∀ l j k, j < typeCount f.f → k < typeBits f.f → (elemOf (x l) (typeBits f.f) j).testBit k =
         shiftedBit p.2 (typeBits f.f) (elemOf (c.typed f.f f.a l) (typeBits f.f) j)
           (shiftCount f.f (c.typed f.f f.b l) j) k) ∧
   ∀ p ∈ ([(.shli, 0), (.shri, 1), (.sari, 2)] : List ((FmtI → Instr) × Nat)),
     ∀ f s c, Issues (p.1 f) s c → ∃ t x, exec (p.1 f) s = .next t ∧ c.Result (p.1 f) f.d (typeRegs f.f) x t ∧
       ∀ l j k, j < typeCount f.f → k < typeBits f.f → (elemOf (x l) (typeBits f.f) j).testBit k =
         shiftedBit p.2 (typeBits f.f) (elemOf (c.typed f.f f.a l) (typeBits f.f) j)
           (shiftCount f.f ((immOf f false).toNat % 2 ^ (32 * typeRegs f.f)) j) k)

/-- Table 10.3: `popc`, `clz`, `ctz` and `brev` of each element. R255: `bfx` extracts a field, cut at bit n − 1 and
extended by T; `bfi` replaces one in D. -/
def Obligations.BitCountsAndFields : Prop :=
  (∀ p ∈ ([(.popc, fun n a r => r = (List.range n).countP fun k => a.testBit k),
       (.clz, fun n a r => r ≤ n ∧ (∀ k, n - r ≤ k → k < n → a.testBit k = false) ∧
         (r < n → a.testBit (n - 1 - r) = true)),
       (.ctz, fun n a r => r ≤ n ∧ (∀ k, k < r → a.testBit k = false) ∧ (r < n → a.testBit r = true)),
       (.brev, fun n a r => ∀ k, k < n → r.testBit k = a.testBit (n - 1 - k))] :
       List ((FmtR → Instr) × (Nat → Nat → Nat → Prop))),
     ∀ f s c, Issues (p.1 f) s c → ∃ t x, exec (p.1 f) s = .next t ∧ c.Result (p.1 f) f.d (typeRegs f.f) x t ∧
       ∀ l j, j < typeCount f.f →
         p.2 (typeBits f.f) (elemOf (c.typed f.f f.a l) (typeBits f.f) j) (elemOf (x l) (typeBits f.f) j)) ∧
  (let start (c : Ctx) (f : FmtR) (l : Nat) : Nat := (c.w.rd f.b l).toNat % 256
   let length (c : Ctx) (f : FmtR) (l : Nat) : Nat :=
     min ((c.w.rd f.c l).toNat % 256) (typeBits f.f - (c.w.rd f.b l).toNat % 256)
   (∀ f s c, Issues (.bfx f) s c → ∃ t x, exec (.bfx f) s = .next t ∧ c.Result (.bfx f) f.d (typeRegs f.f) x t ∧
     ∀ l k, k < typeBits f.f → (x l).testBit k =
       if k < length c f l then (c.typed f.f f.a l).testBit (start c f l + k)
       else typeSigned f.f && decide (0 < length c f l) &&
         (c.typed f.f f.a l).testBit (start c f l + length c f l - 1)) ∧
   ∀ f s c, Issues (.bfi f) s c → ∃ t x, exec (.bfi f) s = .next t ∧ c.Result (.bfi f) f.d (typeRegs f.f) x t ∧
     ∀ l k, k < typeBits f.f → (x l).testBit k =
       if start c f l ≤ k ∧ k < start c f l + length c f l then (c.typed f.f f.a l).testBit (k - start c f l)
       else (c.typed f.f f.d l).testBit k)

/-- R258: the moves. `movs` reads the scalar its lane's index selects, when that scalar is full and sound and D is full. -/
def Obligations.Moves : Prop :=
  (∀ f s c, Issues (.movi f) s c → ∃ t, exec (.movi f) s = .next t ∧
    c.Result (.movi f) f.d 1 (fun _ => (immOf f false).toNat) t) ∧
  (∀ f s c, Issues (.movw f) s c → ∃ t, exec (.movw f) s = .next t ∧
    c.Result (.movw f) f.d 2 (fun _ => (immOf f true).toNat) t) ∧
  (∀ f s c, Issues (.mov f) s c → ∃ t, exec (.mov f) s = .next t ∧
    c.Result (.mov f) f.d (typeRegs f.f) (fun l => c.w.rdN f.a l (typeRegs f.f)) t) ∧
  (∀ f s c, Issues (.sel f) s c → ∃ t, exec (.sel f) s = .next t ∧
    c.Result (.sel f) f.d 1 (fun l =>
      if (c.w.mask f.c.toNat).getLsbD l then (c.w.rd f.a l).toNat else (c.w.rd f.b l).toNat) t) ∧
  (∀ f s c, Issues (.movs f) s c →
    let source (l : Nat) : RegKey := 32768 + (f.a.toNat - 0xE0 + (c.w.rd f.b l).toNat) % 32
    (∀ l ∈ unitsOf f.d (c.execs (.movs f)), c.w.isEmpty (source l) = false ∧ c.w.isDamaged (source l) = false) →
    emptyLanes c.w c.sp.lanes (dstOp f.d 1) = 0 →
    ∃ t, exec (.movs f) s = .next t ∧
      c.Result (.movs f) f.d 1 (fun l => (Sparse.get (0 : Word) c.w.regs (source l)).toNat) t) ∧
  ∀ f s c, Issues (.prmt f) s c → ∃ t x, exec (.prmt f) s = .next t ∧ c.Result (.prmt f) f.d 1 x t ∧
    ∀ l k, k < 4 →
      let n := ((c.w.rd f.c l).toNat >>> (4 * k)) % 16
      let source := (if n % 8 < 4 then (c.w.rd f.a l).toNat else (c.w.rd f.b l).toNat) >>> (8 * (n % 4)) % 256
      elemOf (x l) 8 k = if n < 8 then source else if 128 ≤ source then 255 else 0

/-- Table 10.7: mask operations lane by lane, counts and copies of whole masks, `ballot` and the modes of `vote`. -/
def Obligations.MaskInstructions : Prop :=
  (∀ p ∈ ([(.mand, fun a b => a && b), (.mor, fun a b => a || b), (.mxor, fun a b => a ^^ b), (.mnot, fun a _ => !a)] :
      List ((FmtR → Instr) × (Bool → Bool → Bool))),
    ∀ f s c, Issues (p.1 f) s c → ∃ t, exec (p.1 f) s = .next t ∧
      c.MaskResult (p.1 f) (f.d.toNat % 16) (c.maskLanes (p.1 f)) (fun l =>
        p.2 ((c.w.mask (f.a.toNat % 16)).getLsbD l) ((c.w.mask (f.b.toNat % 16)).getLsbD l)) t) ∧
  (∀ f s c, Issues (.mpopc f) s c → ∃ t, exec (.mpopc f) s = .next t ∧
    c.Result (.mpopc f) f.d 1 (fun _ =>
      (List.range 128).countP fun l => l < c.width && (c.w.mask (f.a.toNat % 16)).getLsbD l) t) ∧
  (∀ f s c, Issues (.mfirst f) s c → ∃ t x, exec (.mfirst f) s = .next t ∧ c.Result (.mfirst f) f.d 1 (fun _ => x) t ∧
    ((∀ l < c.width, (c.w.mask (f.a.toNat % 16)).getLsbD l = false) → x = 0xFFFFFFFF) ∧
    ∀ l < c.width, (c.w.mask (f.a.toNat % 16)).getLsbD l = true →
      (∀ k < l, (c.w.mask (f.a.toNat % 16)).getLsbD k = false) → x = l) ∧
  (∀ f s c, Issues (.mtos f) s c → ∃ t x, exec (.mtos f) s = .next t ∧
    c.Result (.mtos f) f.d (c.width / 32) (fun _ => x) t ∧
    ∀ k < c.width, x.testBit k = (c.w.mask (f.a.toNat % 16)).getLsbD k) ∧
  (∀ f s c, Issues (.stom f) s c → ∃ t, exec (.stom f) s = .next t ∧
    if c.execs (.stom f) = 0 then t = c.after (.stom f) c.w
    else c.MaskResult (.stom f) (f.d.toNat % 16) (fun l => l < c.width) (fun l =>
      (c.w.rdN f.a 0 (c.width / 32)).testBit l) t) ∧
  (∀ f s c, Issues (.ballot f) s c → ∃ t, exec (.ballot f) s = .next t ∧
    c.MaskResult (.ballot f) (f.d.toNat % 16) (c.maskLanes (.ballot f))
      (fun l => !c.helper l && c.w.rd f.a l != 0) t) ∧
  ∀ f s c, Issues (.vote f) s c → ∃ t r, exec (.vote f) s = .next t ∧
    c.MaskResult (.vote f) (f.d.toNat % 16) (c.maskLanes (.vote f)) (fun l => !c.helper l && r) t ∧
    let votes (l : Nat) : Prop := (c.execs (.vote f)).getLsbD l = true ∧ c.helper l = false
    (f.c = 0 → (r = true ↔ ∀ l, votes l → c.w.rd f.a l ≠ 0)) ∧
    (f.c = 1 → (r = true ↔ ∃ l, votes l ∧ c.w.rd f.a l ≠ 0)) ∧
    (f.c = 2 → (r = true ↔ ∀ l k, votes l → votes k → c.w.rd f.a l = c.w.rd f.a k))

/-- R268, Table 10.8: when register A is full and sound in every lane that is read, and D full, each executing lane's D is A
of its source lane, as A was at issue. R269: `bfly` writes one register of each executing lane from its partner's other one, every
value read before any is written. -/
def Obligations.ExchangesBetweenLanes : Prop :=
  (∀ p ∈ ([(.shfl, fun w _ b _ => b.toNat % w),
       (.shflb, fun w l b c =>
         let s := if c = 0 then 1 else 2 ^ Nat.log2 (min c.toNat w)
         let t : Int := l + b.toInt
         if (l - l % s : Nat) ≤ t ∧ t < (l - l % s : Nat) + s then t.toNat else l),
       (.qswp, fun _ l b _ => 4 * (l / 4) + (l % 4 ^^^ b.toNat % 4)),
       (.qbcst, fun _ l b _ => 4 * (l / 4) + b.toNat % 4)] :
       List ((FmtR → Instr) × (Nat → Nat → Word → Word → Nat))),
     ∀ f s c, Issues (p.1 f) s c →
       let source (l : Nat) : Nat := p.2 c.width l (c.w.rd f.b l) (c.w.rd f.c l)
       (∀ l ∈ unitsOf f.d (c.execs (p.1 f)), c.w.isEmpty (keyOf f.a (source l)) = false ∧
         c.w.isDamaged (keyOf f.a (source l)) = false) →
       emptyLanes c.w c.sp.lanes (dstOp f.d 1) = 0 →
       ∃ t, exec (p.1 f) s = .next t ∧ c.Result (p.1 f) f.d 1 (fun l => (c.w.rd f.a (source l)).toNat) t) ∧
  (∀ f s c, Issues (.bfly f) s c →
     let d (l : Nat) : Nat := (c.w.rd f.b l).toNat % c.width
     let written (l : Nat) : BitVec 8 := if l &&& d l = 0 then f.a else f.d
     let source (l : Nat) : BitVec 8 := if l &&& d l = 0 then f.d else f.a
     (∀ l ∈ unitsOf f.d (c.execs (.bfly f)), c.w.isEmpty (keyOf (source l) (l ^^^ d l)) = false ∧
       c.w.isDamaged (keyOf (source l) (l ^^^ d l)) = false) →
     emptyLanes c.w c.sp.lanes (dstOp f.d 1) = 0 → emptyLanes c.w c.sp.lanes (dstOp f.a 1) = 0 →
     ∃ t w', exec (.bfly f) s = .next t ∧ t = c.after (.bfly f) w' ∧
       w' = { c.w with regs := w'.regs, damaged := w'.damaged } ∧
       (∀ l ∈ unitsOf f.d (c.execs (.bfly f)), w'.rd (written l) l = c.w.rd (source l) (l ^^^ d l)) ∧
       ∀ k, (∀ l ∈ unitsOf f.d (c.execs (.bfly f)), k ≠ keyOf (written l) l) →
         Sparse.get (0 : Word) w'.regs k = Sparse.get (0 : Word) c.w.regs k ∧ w'.isDamaged k = c.w.isDamaged k)

/-- R270, R271: an integer `wred` gives every executing lane the sum, extreme or bitwise combination of A over the
executing non-helper lanes, and `wscan` that of the lanes below, with the lane itself unless exclusive; no contribution
gives the identity. R270: a floating `wred` or `wscan` under a record that does not round stochastically combines the
contributions, each the elements of its register (R89), in the fixed tree, each combination one encode under the record. -/
def Obligations.Reductions : Prop :=
  ((∀ f s c, Issues (.wred f) s c → f.c.toNat % 16 < 6 → c.width ∈ [32, 64, 128] →
     (∀ l, c.sp.lanes.getLsbD l = true → l < c.width) →
     ∃ t x, exec (.wred f) s = .next t ∧ c.Result (.wred f) f.d (typeRegs f.f) x t ∧
       ∀ l j, j < typeCount f.f → elemInt f.f (x l) j = asType f.f (reduced (f.c.toNat % 16) f.f
         (((lanesOf (c.execs (.wred f))).filter fun k => !c.helper k).map fun k => c.typed f.f f.a k) j)) ∧
   ∀ f s c, Issues (.wscan f) s c → f.c.toNat % 16 < 6 → c.width ∈ [32, 64, 128] →
     (∀ l, c.sp.lanes.getLsbD l = true → l < c.width) →
     ∃ t x, exec (.wscan f) s = .next t ∧ c.Result (.wscan f) f.d (typeRegs f.f) x t ∧
       ∀ l j, l < c.width → j < typeCount f.f → elemInt f.f (x l) j = asType f.f (reduced (f.c.toNat % 16) f.f
         (((lanesOf (c.execs (.wscan f))).filter fun k =>
           !c.helper k && (k < l || (k == l && !f.c.getLsbD 4))).map fun k => c.typed f.f f.a k) j)) ∧
  (let part (c : Ctx) (i : Instr) (f : FmtR) (l : Nat) : Option Nat :=
     if (c.execs i).getLsbD l && !c.helper l then
       some (c.w.rdN f.a l (slotRegs c.env f.f.toNat) % 2 ^ (Rec.ne (c.record f.f.toNat) * Rec.w (c.record f.f.toNat)))
     else none
   (∀ f s c, Issues (.wred f) s c → 6 ≤ f.c.toNat % 16 → Rec.round (c.record f.f.toNat) ≠ 5 →
     ∃ t, exec (.wred f) s = .next t ∧ c.Result (.wred f) f.d (slotRegs c.env f.f.toNat) (fun _ =>
       (treeNode (combine (f.c.toNat % 16) f.f (c.record f.f.toNat)) (part c (.wred f) f) 0 (Nat.log2 c.width)).getD
         (identOf (f.c.toNat % 16) f.f (c.record f.f.toNat))) t) ∧
   ∀ f s c, Issues (.wscan f) s c → 6 ≤ f.c.toNat % 16 → Rec.round (c.record f.f.toNat) ≠ 5 →
     ∃ t, exec (.wscan f) s = .next t ∧ c.Result (.wscan f) f.d (slotRegs c.env f.f.toNat) (fun l =>
       (treePrefix (combine (f.c.toNat % 16) f.f (c.record f.f.toNat)) (part c (.wscan f) f)
         (if f.c.getLsbD 4 then l else l + 1)).getD
         (identOf (f.c.toNat % 16) f.f (c.record f.f.toNat))) t)

/-- R275, R277, R281, R282: each element of D is the operation of the elements of the sources after their modifiers,
scaled, clamped and encoded once under the sampled record. -/
def Obligations.FloatArithmetic : Prop :=
  (∀ p ∈ ([(.fadd, fun r _ _ a b _ => a.add (Rec.round r == 3) b), (.fsub, fun r _ _ a b _ => a.add (Rec.round r == 3) b.neg),
      (.fmul, fun _ _ _ a b _ => a.mul b), (.ffma, fun r _ _ a b c => (a.mul b).add (Rec.round r == 3) c),
      (.fmin, fun _ _ _ a b _ => a.min b), (.fmax, fun _ _ _ a b _ => a.max b),
      (.fminn, fun _ _ _ a b _ => if a.isNan then b else if b.isNan then a else a.min b),
      (.fmaxn, fun _ _ _ a b _ => if a.isNan then b else if b.isNan then a else a.max b),
      (.frnd, fun r _ word a _ _ => rndVal r word a), (.fscale, fun _ t _ a _ _ => a.scale t)] :
      List ((FmtR → Instr) × (Dword → Int → Nat → Val → Val → Val → Val))),
    ∀ f s c, Issues (p.1 f) s c → ∃ t, exec (p.1 f) s = .next t ∧
      let r := c.record f.f.toNat
      c.FloatResult (p.1 f) f.d r (Rec.ne r) (fun l j =>
        finishVal r f.sc.toInt f.clamp.toNat
          (p.2 r (modInt 4 (f.mod.getLsbD 2) (f.mod.getLsbD 3) (c.w.rd f.b l).toInt) (c.draw l j)
            (c.src f r 0 l j) (c.src f r 1 l j) (c.src f r 2 l j)) (c.draw l j)) t) ∧
  ∀ p ∈ ([(.faddi, fun r a i _ => a.add (Rec.round r == 3) i), (.fmuli, fun _ a i _ => a.mul i),
      (.ffmai, fun r a i d => (a.mul i).add (Rec.round r == 3) d)] :
      List ((FmtI → Instr) × (Dword → Val → Val → Val → Val))),
    ∀ f s c, Issues (p.1 f) s c → ∃ t, exec (p.1 f) s = .next t ∧
      let r := c.record f.f.toNat
      c.FloatResult (p.1 f) f.d r (Rec.ne r) (fun l j =>
        finishVal r 0 f.clamp.toNat
          (p.2 r (modVal f.neg f.abs (decodeCode r (c.code r f.a l j))) (immVal f) (decodeCode r (c.code r f.d l j)))
          (c.draw l j)) t

/-- R276: NaN operands, products of an infinity and a zero, sums of opposite infinities, infinite terms, and the signs
of exact zeros. Table 11.3: the special operands of the functions. -/
def Obligations.SpecialValues : Prop :=
  ((∀ rdn v, Val.add rdn .nan v = .nan ∧ Val.add rdn v .nan = .nan ∧ Val.mul .nan v = .nan ∧ Val.mul v .nan = .nan) ∧
   (∀ s t, Val.mul (.inf s) (.zero t) = .nan ∧ Val.mul (.zero t) (.inf s) = .nan) ∧
   (∀ rdn s, Val.add rdn (.inf s) (.inf !s) = .nan) ∧
   (∀ rdn s v, v ≠ .nan → v ≠ .inf (!s) → Val.add rdn (.inf s) v = .inf s ∧ Val.add rdn v (.inf s) = .inf s) ∧
   (∀ s v, v ≠ .nan → v.isZero = false →
     Val.mul (.inf s) v = .inf (s != v.sign) ∧ Val.mul v (.inf s) = .inf (v.sign != s)) ∧
   (∀ s v, v ≠ .nan → v.isInf = false →
     Val.mul (.zero s) v = .zero (s != v.sign) ∧ Val.mul v (.zero s) = .zero (v.sign != s)) ∧
   (∀ rdn s, Val.add rdn (.zero s) (.zero s) = .zero s ∧ Val.add rdn (.zero s) (.zero !s) = .zero rdn) ∧
   ∀ rdn p q, (p.add q).isZero = true → Val.add rdn (.fin p) (.fin q) = .zero rdn) ∧
  ((∀ r v, divVal .nan v = .val .nan ∧ divVal v .nan = .val .nan ∧ sqrtVal .nan = .val .nan ∧ rcpVal .nan = .val .nan ∧
     rsqVal .nan = .val .nan ∧ exp2Val r .nan = .val .nan ∧ log2Val .nan = .val .nan ∧ sinVal .nan = .val .nan ∧
     cosVal .nan = .val .nan ∧ tanhVal .nan = .val .nan) ∧
   (∀ s t, divVal (.zero s) (.zero t) = .val .nan ∧ divVal (.inf s) (.inf t) = .val .nan) ∧
   (∀ q s, q.isZero = false → divVal (.fin q) (.zero s) = .val (.inf (q.isNeg != s)) ∧
     divVal (.fin q) (.inf s) = .val (.zero (q.isNeg != s))) ∧
   (∀ s, sqrtVal (.zero s) = .val (.zero s) ∧ rcpVal (.zero s) = .val (.inf s) ∧ rcpVal (.inf s) = .val (.zero s) ∧
     rsqVal (.zero s) = .val (.inf s) ∧ log2Val (.zero s) = .val (.inf true) ∧ sinVal (.zero s) = .val (.zero s) ∧
     sinVal (.inf s) = .val .nan ∧ cosVal (.inf s) = .val .nan ∧ tanhVal (.zero s) = .val (.zero s)) ∧
   (∀ q, q.isNeg = true → sqrtVal (.fin q) = .val .nan ∧ rsqVal (.fin q) = .val .nan ∧ log2Val (.fin q) = .val .nan) ∧
   (∀ r, sqrtVal (.inf false) = .val (.inf false) ∧ rsqVal (.inf false) = .val (.zero false) ∧
     exp2Val r (.inf true) = .val (.zero false) ∧ exp2Val r (.inf false) = .val (.inf false) ∧
     log2Val (.inf false) = .val (.inf false)) ∧
   log2Val (.fin ⟨1, 1⟩) = .val (.zero false) ∧
   tanhVal (.inf false) = .val (.fin ⟨1, 1⟩) ∧ tanhVal (.inf true) = .val (.fin ⟨-1, 1⟩))

/-- R280, Table 11.3: the functions mark D empty and their producer writes each element as `finish` of the exact value
of the function. -/
def Obligations.FloatFunctions : Prop :=
  ∀ p ∈ ([(.fdiv, fun _ a b => divVal a b), (.fsqrt, fun _ a _ => sqrtVal a), (.frcp, fun _ a _ => rcpVal a),
      (.frsq, fun _ a _ => rsqVal a), (.fexp2, fun r a _ => exp2Val r a), (.flog2, fun _ a _ => log2Val a),
      (.fsin, fun _ a _ => sinVal a), (.fcos, fun _ a _ => cosVal a), (.ftanh, fun _ a _ => tanhVal a)] :
      List ((FmtR → Instr) × (Dword → Val → Val → Exact))),
    ∀ f s c, Issues (p.1 f) s c → ∃ t w x, exec (p.1 f) s = .next t ∧
      let r := c.record f.f.toNat
      c.Draws r (Rec.ne r) (unitsOf f.d (c.execs (p.1 f))) w ∧
      c.Later w (p.1 f) f.d (recRegs r) x t ∧
      ∀ l, Elements r (Rec.ne r) (x l) fun j =>
        finishExact r f.sc.toInt f.clamp.toNat (p.2 r (c.src f r 0 l j) (c.src f r 1 l j)) (c.draw l j)

/-- R283, Table 11.4: source element j converts to destination element j; the elements without a source are zero; the
counts advance by the destination's elements. R284: `exte` reads a raw element and `inse` replaces one; an index past
the last element gives 0, or leaves D. -/
def Obligations.ConversionsAndElements : Prop :=
  ((∀ f s c, Issues (.fcvt f) s c → ∃ t w x, exec (.fcvt f) s = .next t ∧
     let rs := c.record (f.c.toNat % 16)
     let rd := c.record f.f.toNat
     c.Draws rd (Rec.ne rd) (unitsOf f.d (c.execs (.fcvt f))) w ∧ c.ResultOn w (.fcvt f) f.d (recRegs rd) x t ∧
     ∀ l, Elements rd (min (Rec.ne rs) (Rec.ne rd)) (x l) fun j => encodeVal rd (c.src f rs 0 l j) (c.draw l j)) ∧
   (∀ f s c, Issues (.ftoi f) s c → ∃ t w x, exec (.ftoi f) s = .next t ∧
     let rs := c.record f.f.toNat
     let ty := f.c.extractLsb' 0 4
     c.Draws rs (typeCount ty) (unitsOf f.d (c.execs (.ftoi f))) w ∧ c.ResultOn w (.ftoi f) f.d (typeRegs ty) x t ∧
     ∀ l, x l < 2 ^ (typeBits ty * min (Rec.ne rs) (typeCount ty)) ∧ ∀ j < min (Rec.ne rs) (typeCount ty),
       elemInt ty (x l) j = asType ty (
         match c.src f rs 0 l j with
         | .nan => 0
         | .inf neg => if neg then typeMin ty else typeMax ty
         | .zero _ => 0
         | .fin q => clampType ty (roundInt rs q (c.draw l j)))) ∧
   ∀ f s c, Issues (.itof f) s c → ∃ t w x, exec (.itof f) s = .next t ∧
     let rd := c.record f.f.toNat
     let ty := f.c.extractLsb' 0 4
     c.Draws rd (Rec.ne rd) (unitsOf f.d (c.execs (.itof f))) w ∧ c.ResultOn w (.itof f) f.d (recRegs rd) x t ∧
     ∀ l, Elements rd (min (typeCount ty) (Rec.ne rd)) (x l) fun j =>
       let n := elemInt ty (c.typed ty f.a l) j
       let m := if f.mod.getLsbD 1 then (n.natAbs : Int) else n
       encodeVal rd (.ofQ ⟨if f.mod.getLsbD 0 then -m else m, 1⟩) (c.draw l j)) ∧
  ((∀ f s c, Issues (.exte f) s c → ∃ t, exec (.exte f) s = .next t ∧
     let r := c.record f.f.toNat
     c.Result (.exte f) f.d (recRegs r) (fun l =>
       if (c.w.rd f.b l).toNat < Rec.ne r then elemOf (c.w.rdN f.a l (recRegs r)) (Rec.w r) (c.w.rd f.b l).toNat
       else 0) t) ∧
   ∀ f s c, Issues (.inse f) s c → ∃ t x, exec (.inse f) s = .next t ∧
     let r := c.record f.f.toNat
     c.Result (.inse f) f.d (recRegs r) x t ∧
     ∀ l, (Rec.ne r ≤ (c.w.rd f.b l).toNat → x l = c.w.rdN f.d l (recRegs r)) ∧
       ((c.w.rd f.b l).toNat < Rec.ne r → Elements r (Rec.ne r) (x l) fun j =>
         if j = (c.w.rd f.b l).toNat then c.w.rdN f.a l (recRegs r)
         else elemOf (c.w.rdN f.d l (recRegs r)) (Rec.w r) j))

/-- R285 to R292: `fmtset` checks a record, writes the slot and ends the region, or traps and leaves the slot; `fmtget`
and `fmtchk` read; `srseed` sets the key and ends the region; `wrng` reads the lane's count; `rand` is Fount. -/
def Obligations.FormatSlots : Prop :=
  let exposed (c : Ctx) : State :=
    if c.context.deterministic = true ∧ 2 ≤ c.w.liveSplits.length then
      c.s.modLaunch c.g.launch fun l => { l with orderExposed := true }
    else c.s
  (∀ f s c, Issues (.fmtset f) s c →
    let r := BitVec.ofNat 64 (c.w.rd64 f.a 0)
    (Rec.check r = 0 → exec (.fmtset f) s =
      .next ({ c with s := exposed c }.afterRegion (.fmtset f) { c.w with slots := c.w.slots.set f.f.toNat r })) ∧
    (Rec.check r ≠ 0 → exec (.fmtset f) s = .next (c.trapped
      { c.trapOf 10 (Rec.check r) c.sp.lanes (some c.sp.pc) with unit := f.f.toNat }))) ∧
  (∀ f s c, Issues (.srseed f) s c → exec (.srseed f) s =
    .next ({ c with s := exposed c }.afterRegion (.srseed f)
      { c.w with key := BitVec.ofNat 128 (c.w.rdN f.a 0 4) })) ∧
  (∀ f s c, Issues (.fmtget f) s c → ∃ t, exec (.fmtget f) s = .next t ∧
    c.Result (.fmtget f) f.d 2 (fun _ => (c.w.slots.getD f.f.toNat 0).toNat) t) ∧
  (∀ f s c, Issues (.fmtchk f) s c → ∃ t, exec (.fmtchk f) s = .next t ∧
    c.Result (.fmtchk f) f.d 1 (fun l => fmtchkWord (BitVec.ofNat 64 (c.w.rd64 f.a l))) t) ∧
  (∀ f s c, Issues (.wrng f) s c → ∃ t, exec (.wrng f) s = .next t ∧
    c.Result (.wrng f) f.d 1 (fun l => (Sparse.get (0 : Word) c.w.seq l).toNat) t) ∧
  ∀ f s c, Issues (.rand f) s c → ∃ t x, exec (.rand f) s = .next t ∧ c.Result (.rand f) f.d 4 x t ∧
    ∀ l j, j < 4 → elemOf (x l) 32 j = ((fount ((List.range 4).map fun k => c.w.rd (plusReg f.a k) l)
      ((List.range 4).map fun k => c.w.rd (plusReg f.b k) l)).getD j 0).toNat

/-! ### Control -/

/-- R259, R260: the branches. Executing lanes go to their targets, the others to the next instruction; `call` writes
the return address; `nop` and `yield` only advance. `brx` stands for a split whose pc is a multiple of 8, as every pc
is. R263, R264: `region` opens a region at the next instruction; `exit` ends the executing lanes, with the helper lanes
whose quads end with them, and in warp 0 names the successor. -/
def Obligations.ControlFlow : Prop :=
  ((∀ f s c, Issues (.nop f) s c → exec (.nop f) s = .next (c.after (.nop f) c.w)) ∧
   (∀ f s c, Issues (.yield f) s c → exec (.yield f) s = .next (c.after (.yield f) c.w)) ∧
   (∀ f s c, Issues (.bra f) s c → ∃ t, exec (.bra f) s = .next t ∧
     c.Branched c.w (fun l => if (c.execs (.bra f)).getLsbD l then (((c.sp.pc : Int) + 8 * f.offset.toInt) % 2 ^ 57).toNat
       else (c.sp.pc + 8) % 2 ^ 57) t) ∧
   (∀ f s c, Issues (.brx f) s c → c.sp.pc % 8 = 0 → ∃ t, exec (.brx f) s = .next t ∧
     c.Branched c.w (fun l => if (c.execs (.brx f)).getLsbD l then
         (((c.sp.pc : Int) + 8 * (f.offset.toInt + (c.w.rd (f.low.extractLsb' 0 8) l).toInt)) % 2 ^ 57).toNat
       else (c.sp.pc + 8) % 2 ^ 57) t) ∧
   (∀ f s c, Issues (.call f) s c → ∃ t w, exec (.call f) s = .next t ∧
     c.Writes c.w (.call f) (f.low.extractLsb' 0 8) 2 (fun _ => (c.sp.pc + 8) % 2 ^ 57) w ∧
     c.Branched w (fun l => if (c.execs (.call f)).getLsbD l then
         (((c.sp.pc : Int) + 8 * f.offset.toInt) % 2 ^ 57).toNat
       else (c.sp.pc + 8) % 2 ^ 57) t) ∧
   (∀ f s c, Issues (.ret f) s c →
     let target (l : Nat) : Nat := c.w.rd64 (f.low.extractLsb' 0 8) l
     ((∀ l, (c.execs (.ret f)).getLsbD l = true → target l % 8 = 0 ∧ target l < 2 ^ 57) →
       ∃ t, exec (.ret f) s = .next t ∧ c.Branched c.w (fun l =>
         if (c.execs (.ret f)).getLsbD l then target l else (c.sp.pc + 8) % 2 ^ 57) t) ∧
     ((∃ l, (c.execs (.ret f)).getLsbD l = true ∧ (target l % 8 ≠ 0 ∨ 2 ^ 57 ≤ target l)) →
       ∃ bad, exec (.ret f) s = .next (c.trapped (c.trapOf 2 10 bad (some c.sp.pc))) ∧
         ∀ l, l < 128 → (bad.getLsbD l = true ↔
           (c.execs (.ret f)).getLsbD l = true ∧ (target l % 8 ≠ 0 ∨ 2 ^ 57 ≤ target l)))) ∧
   ∀ f s c, Issues (.switch f) s c → (Instr.switch f).wellFormed = true → ∃ t target, exec (.switch f) s = .next t ∧
     c.Branched c.w target t ∧
     ∀ l, c.sp.lanes.getLsbD l = true →
       let v := (c.w.rd (f.c.low.extractLsb' 0 8) l).toNat
       ((c.execs (.switch f)).getLsbD l = false → target l = (c.sp.pc + 8 * (1 + (f.c.site.toNat + 1) / 2)) % 2 ^ 57) ∧
       ((c.execs (.switch f)).getLsbD l = true →
         (∀ k < f.c.site.toNat, (switchCase f k).1 = v → (∀ j < k, (switchCase f j).1 ≠ v) →
           target l = (((c.sp.pc : Int) + 8 * (switchCase f k).2) % 2 ^ 57).toNat) ∧
         ((∀ k < f.c.site.toNat, (switchCase f k).1 ≠ v) →
           target l = (((c.sp.pc : Int) + 8 * f.c.offset.toInt) % 2 ^ 57).toNat))) ∧
  ((∀ f s c, Issues (.region f) s c → exec (.region f) s = .next (c.afterRegion (.region f) c.w)) ∧
   ∀ f s c, Issues (.exit f) s c →
     (c.execs (.exit f) = 0 → exec (.exit f) s = .next (c.after (.exit f) c.w)) ∧
     (c.execs (.exit f) ≠ 0 → ∃ t g w gone, exec (.exit f) s = .next t ∧ t.wgs.look c.uid = some g ∧
       g.warps[c.wi]? = some w ∧ w.regs = c.w.regs ∧ w.live = c.w.live &&& ~~~gone ∧
       g.succ = (if c.wi = 0 then f.low.toNat else c.g.succ) ∧
       ∀ l, gone.getLsbD l = true ↔ (c.execs (.exit f)).getLsbD l = true ∨
         (l < 128 ∧ (c.w.live &&& ~~~(c.execs (.exit f))).getLsbD l = true ∧ c.helper l = true ∧
           ∀ k < 4, (c.w.threads &&& ~~~(c.execs (.exit f))).getLsbD (4 * (l / 4) + k) = false)))

/-- R182, R261: `rset` writes the whole mask with the split's lanes, `rleave` clears them in it, and `rwait` lets the
lanes outside the mask go on and the others wait; each then tests the `rwait`s on the mask. R182 steps 3 and 4: when
every live lane of m waits in an `rwait` on m at one program counter, and no waiting lane is outside m, they merge into
one split of exactly those lanes at the next instruction. -/
def Obligations.Rejoining : Prop :=
  ((∀ f s c, Issues (.rset f) s c → ∃ t, exec (.rset f) s = .next t ∧
     c.MaskResult (.rset f) f.mask.toNat (fun _ => true) (fun l => c.sp.lanes.getLsbD l) t) ∧
   (∀ f s c, Issues (.rleave f) s c → ∃ t, exec (.rleave f) s = .next t ∧
     c.MaskResult (.rleave f) f.mask.toNat (fun l => c.sp.lanes.getLsbD l) (fun _ => false) t) ∧
   ∀ f s c, Issues (.rwait f) s c →
     let m := f.mask.toNat
     let inside := c.sp.lanes &&& c.w.mask m
     let out := c.sp.lanes &&& ~~~inside
     (inside = 0 → exec (.rwait f) s = .next (c.after (.rwait f) c.w)) ∧
     (inside ≠ 0 → ∃ w', exec (.rwait f) s = .next ((c.s.setWarp c.uid c.wi w').rejoin c.uid c.wi m) ∧
       w' = { c.w with splits := w'.splits, nextSplit := w'.nextSplit } ∧
       { c.sp with lanes := inside, wait := some (.rwait m), arrived := none } ∈ w'.splits ∧
       (out ≠ 0 → ∃ sp ∈ w'.splits, sp.lanes = out) ∧
       (∀ sp ∈ c.w.splits, sp.id ≠ c.sp.id → sp ∈ w'.splits) ∧
       ∀ sp ∈ w'.splits, (sp ∈ c.w.splits ∧ sp.id ≠ c.sp.id) ∨
         sp = { c.sp with lanes := inside, wait := some (.rwait m), arrived := none } ∨
         (out ≠ 0 ∧ sp.lanes = out ∧ sp.pc = (c.sp.pc + 8) % 2 ^ 57 ∧ sp.wait = none ∧ sp.entry = c.sp.entry ∧
           sp.counter = c.sp.counter))) ∧
  (∀ (s : State) (u i m pc : Nat) (g : WorkGroup) (w : Warp), s.wgs.look u = some g → g.warps[i]? = some w →
     (∀ sp ∈ w.splits, sp.wait = some (.rwait m) → sp.lanes &&& ~~~(w.mask m) = 0 ∧ sp.pc = pc) →
     w.mask m &&& w.live ≠ 0 →
     (∀ l, (w.mask m &&& w.live).getLsbD l = true → ∃ sp ∈ w.splits, sp.lanes.getLsbD l = true ∧
       sp.wait = some (.rwait m)) →
     ∃ w' sp, Recorded (s.setWarp u i w') (s.rejoin u i m) ∧ sp ∈ w'.splits ∧ sp.lanes = w.mask m &&& w.live ∧
       sp.pc = (pc + 8) % 2 ^ 57 ∧ sp.entry = sp.pc ∧ sp.wait = none ∧
       (∀ sq ∈ w'.splits, sq = sp ∨ sq.lanes &&& sp.lanes = 0) ∧
       w' = { w with splits := w'.splits, nextSplit := w.nextSplit + 1, regions := w.regions + 1 })

/-! ### Traps -/

/-- R241: a word that decoding refuses takes the illegal-instruction trap with the lowest cause and no other effect; an
unassigned opcode has cause 0. R380, R241: an unprivileged instruction that names a privileged selector, or `caprd`,
otherwise legal, has cause 9; an instruction of a feature that the context did not declare has cause 0. -/
def Obligations.IllegalWords : Prop :=
  ((∀ i s c cause, isInstruction i = true → ctxOf s = some c → causeOf c.env i = some cause →
     exec i s = .next (c.trapped (c.trapOf 2 cause (c.execs i) (some c.sp.pc)))) ∧
   ∀ w s c, ctxOf s = some c →
     exec (.unassignedOpcode w) s = .next (c.trapped (c.trapOf 2 0 c.sp.lanes (some c.sp.pc)))) ∧
  ((∀ env i, (match i with
       | .caprd _ => true
       | .sread f => f.sel == 0x380 || f.sel == 0x381
       | .swrite f => f.sel == 0x380 || f.sel == 0x381
       | _ => false) = true →
     env.priv = false → causeOf { env with priv := true } i = none → causeOf env i = some 9) ∧
   ∀ env i b, useOf env i ≠ none → featureOf i = some b → env.feat1.getLsbD b = false → causeOf env i = some 0)

/-- R185, R186: an instruction with an empty operand waits; when a source field with its empty-action bit is empty, the
warp takes the empty-operand trap that names the first such field and its lanes. R73, R74, R274: an instruction that
names a slot with a malformed record takes the format fault with the record's check code; one outside native support,
with no atomic of its split in flight (R314), waits for firmware, which completes it as the instruction itself under the
records and for the lanes sampled at issue (R88, R228), where it need not wait. -/
def Obligations.OperandsAndRecords : Prop :=
  (∀ i s c, isInstruction i = true → ctxOf s = some c → causeOf c.env i = none →
     (disallowed i = true → ∀ l ∈ lanesOf (c.execs i), c.w.txns.look l = none) →
     (∀ o ∈ c.operands i, o.late = false → emptyLanes c.w c.sp.lanes o ≠ 0 →
       (∀ p ∈ c.operands i, p.reads = true → p.ea = true → p.late = false → emptyLanes c.w c.sp.lanes p = 0) →
       exec i s = .next (c.s.setWarp c.uid c.wi (c.w.modSplit c.sp.id fun sp => { sp with wait := some .retry }))) ∧
     ∀ before o after, c.operands i = before ++ o :: after → o.reads = true → o.ea = true → o.late = false →
       emptyLanes c.w c.sp.lanes o ≠ 0 →
       (∀ p ∈ before, p.reads = true → p.ea = true → p.late = false → emptyLanes c.w c.sp.lanes p = 0) →
       exec i s = .next (c.trapped
         { c.trapOf 3 0 (emptyLanes c.w c.sp.lanes o) (some c.sp.pc) with reg := o.f.toNat })) ∧
  ((∀ i s c n code, isInstruction i = true → ctxOf s = some c → causeOf c.env i = none →
     (disallowed i = true → ∀ l ∈ lanesOf (c.execs i), c.w.txns.look l = none) →
     (∀ o ∈ c.operands i, o.late = false → emptyLanes c.w c.sp.lanes o = 0) →
     (drains i = true → anyEmpty c.w c.sp.lanes = false) →
     badSlot c.slots (slotsOf i) = some (n, code) →
     code ≠ 0 ∧ Rec.check (c.slots.getD n 0) = code ∧
       exec i s = .next (c.trapped { c.trapOf 10 code (c.execs i) (some c.sp.pc) with unit := n })) ∧
   (∀ i s c, ctxOf s = some c → causeOf c.env i = none →
     (disallowed i = true → ∀ l ∈ lanesOf (c.execs i), c.w.txns.look l = none) →
     (∀ o ∈ c.operands i, o.late = false → emptyLanes c.w c.sp.lanes o = 0) →
     (drains i = true → anyEmpty c.w c.sp.lanes = false) → badSlot c.slots (slotsOf i) = none →
     wide c.slots i = true → c.emul = none → c.w.txLanes = [] → c.sp.lanes &&& c.s.unfinished c.uid c.wi = 0 →
     ∃ t, exec i s = .next t ∧
       Recorded (c.s.setWarp c.uid c.wi { (c.w.modSplit c.sp.id fun sp =>
           { sp with wait := some (.emul i c.slots (c.execs i)), arrived := none })
         with trapSeq := c.w.trapSeq + 1 }) t) ∧
   ∀ (s : State) u k id sp i slots lanes c, (s.warp? u k).bind (·.split? id) = some sp →
     sp.wait = some (.emul i slots lanes) →
     let s' := { (s.modWarp u k fun w => w.modSplit id fun sp => { sp with wait := none }) with
                 cur := some ⟨u, k, id, some (slots, lanes)⟩ }
     Issues i s' c → wide slots i = true →
     c.slots = slots ∧ c.execs i = c.sp.lanes &&& lanes ∧ ∃ t, exec i s' = .next t ∧
       ((∀ after, (t.warp? u k).bind (·.split? id) = some after → after.wait ≠ some .retry) →
         exec (.formatEmulation u k id) s = .next { t with cur := none }))

/-- R394: an instruction of a split that may issue never stops the machine: it has its effect, waits, or takes a trap. -/
def Obligations.InstructionsNeverStop : Prop :=
  ∀ i s c, isInstruction i = true → ctxOf s = some c → ∃ t, exec i s = .next t

/-- R392: `trap` and `bkpt` take an immediate trap with the code and the executing lanes, whose split goes on at the next
instruction; with no executing lane they only advance; an attached debugger has the record of a `bkpt`. R398 to R401: a
trap delivered to a warp with no open transaction, no trap of its own in hand and no atomic of the trap's splits in
flight. The record is saved with the warp's splits; a program handler starts as one split of the affected live lanes, a
region of its own at the handler address; else firmware holds the warp. Registers, masks, slots and producers stay. R391,
R402: `eret` outside a handler takes cause reserved; the last handler split's `eret` ends handler mode, and a saved split
that still has live lanes, and shares its number with no other, goes on at its resume point with its region, a replay once
no atomic of its lanes is in flight (R314); before the last, the split's lanes only leave; the lanes have no open
transaction. `trapr` reads a word of the record, 0 outside a handler. -/
def Obligations.TrapsTakenAndReturned : Prop :=
  ((∀ f s c, Issues (.trap f) s c →
     (c.execs (.trap f) ≠ 0 → exec (.trap f) s = .next (c.trapped
       { c.trapOf 0 0 (c.execs (.trap f)) (some ((c.sp.pc + 8) % 2 ^ 57)) with
         detail := f.low.toNat })) ∧
     (c.execs (.trap f) = 0 → exec (.trap f) s = .next (c.after (.trap f) c.w))) ∧
   ∀ f s c, Issues (.bkpt f) s c →
     (c.execs (.bkpt f) ≠ 0 →
       let t := { c.trapOf 1 0 (c.execs (.bkpt f)) (some ((c.sp.pc + 8) % 2 ^ 57)) with detail := f.low.toNat }
       exec (.bkpt f) s = .next (Ctx.trapped
         (if c.s.debugger then { c with s := { c.s with debugOut := c.s.debugOut ++ [t] } } else c) t)) ∧
     (c.execs (.bkpt f) = 0 → exec (.bkpt f) s = .next (c.after (.bkpt f) c.w))) ∧
  (∀ (s : State) (u i : Nat) (t : Trap) (g : WorkGroup) (w : Warp), s.wgs.look u = some g → g.warps[i]? = some w →
     w.txLanes = [] → w.waitsFor (s.unfinished u i) t = false →
     let program := handlerTakes s g w t.kind
     ∃ w', (s.takeTrap u i t).warp? u i = some w' ∧ w'.trapSeq = w.trapSeq + 1 ∧ w'.regs = w.regs ∧
       w'.masks = w.masks ∧ w'.slots = w.slots ∧ w'.live = w.live ∧ w'.hmask = w.hmask ∧ w'.storeQ = w.storeQ ∧
       (program = true → t.lanes &&& w.live ≠ 0 → ∃ h sp, w'.handler = some h ∧ w'.fw = w.fw ∧ w'.splits = [sp] ∧
         h.splits = t.wakes w.splits ∧ h.resumes = t.splits ∧
         h.record = recordWords (trapRecord t true (w.trapSeq + 1)) ∧
         sp.lanes = t.lanes &&& w.live ∧ sp.pc = w.handlerAddr ∧ sp.entry = w.handlerAddr ∧ sp.wait = none ∧
         sp.counter = w.regions + 1) ∧
       (program = false → ∃ h, w'.fw = some h ∧ w'.handler = w.handler ∧ w'.splits = t.wakes w.splits ∧
         h.splits = t.wakes w.splits ∧ h.resumes = t.splits ∧
         h.record = recordWords (trapRecord t false (w.trapSeq + 1)))) ∧
  ((∀ f s c, ctxOf s = some c → c.w.handler = none →
     exec (.eret f) s = .next (c.trapped (c.trapOf 2 1 (c.execs (.eret f)) (some c.sp.pc)))) ∧
   (∀ f s c h, Issues (.eret f) s c → c.w.handler = some h → (∃ sp ∈ c.w.splits, sp.id ≠ c.sp.id) →
     exec (.eret f) s = .next (c.s.setWarp c.uid c.wi
       { c.w with splits := c.w.splits.filter fun sp => sp.id != c.sp.id })) ∧
   (∀ f s c h, Issues (.eret f) s c → c.w.handler = some h → (∀ sp ∈ c.w.splits, sp.id = c.sp.id) →
     c.w.txLanes = [] →
     ∃ w' t, exec (.eret f) s = .next (t.returned c.uid c.wi) ∧ Recorded (c.s.setWarp c.uid c.wi w') t ∧
       w'.handler = none ∧ w'.regs = c.w.regs ∧ w'.live = c.w.live ∧ w'.masks = c.w.masks ∧
       ∀ sp ∈ h.splits, sp.lanes &&& c.w.live ≠ 0 → (∀ sq ∈ h.splits, sq.id = sp.id → sq = sp) →
         ∃ sq ∈ w'.splits, sq.id = sp.id ∧ sq.lanes = sp.lanes &&& c.w.live ∧ sq.entry = sp.entry ∧
           sq.counter = sp.counter ∧
           ((∀ r ∈ h.resumes, r.1 ≠ sp.id) → sq.pc = sp.pc ∧ sq.wait = sp.wait) ∧
           ((∃ r ∈ h.resumes, r.1 = sp.id) → ∀ at_, (∀ r ∈ h.resumes, r.1 = sp.id → r.2 = at_) →
             if at_ = none ∧ sq.lanes &&& c.s.unfinished c.uid c.wi ≠ 0 then sq.pc = sp.pc ∧ sq.wait = some .replay
             else sq.pc = at_.getD sp.entry)) ∧
   ∀ f s c, Issues (.trapr f) s c → ∃ t, exec (.trapr f) s = .next t ∧
     c.Result (.trapr f) f.d 1 (fun _ => match c.w.handler with
       | some h => (h.record.getD f.sel.toNat 0).toNat
       | none => 0) t)

/-! ### Memory -/

/-- R19 to R24: translating an address, or the pages of an instruction's targets, sets A and D bits, fills TLBs, walk caches
and L2 slices, with what a line's leaving its slice entails, wakes monitors on the entries it writes (R162) and changes
nothing else; a translation that fails changes nothing. R15 to R17: with nothing cached, no damage, and no table in a
firmware reserve (R56), an address whose three entries are two pointers and a well-formed leaf of a 64 KiB page that permits
the access is translated to its frame; a first entry with V = 0 is not-present. -/
def Obligations.Translation : Prop :=
  ((∀ (s : State) core c va access priv, Touched s (s.translate core c va access priv).2) ∧
   (∀ (s : State) core c va access priv m, (s.translate core c va access priv).1 = .error m →
     (s.translate core c va access priv).2 = s) ∧
   ∀ (c : Ctx) s how space xs, Touched s (c.targets s how space xs).2) ∧
  (∀ (s : State) core c va access priv, (s.core core).tlb = [] → (s.die (core / 64)).tlb = [] →
     (s.die (core / 64)).walks = [] → (∀ a, s.badByte a = false) → va < 2 ^ 57 →
     let a1 := (s.ctx c).root + 8 * (va / 2 ^ 42)
     let e1 := BitVec.ofNat 64 (s.mem.value a1 8)
     let a2 := eAddr e1 + 8 * (va / 2 ^ 29 % 8192)
     let e2 := BitVec.ofNat 64 (s.mem.value a2 8)
     let a3 := eAddr e2 + 8 * (va / 2 ^ 16 % 8192)
     let e3 := BitVec.ofNat 64 (s.mem.value a3 8)
     inReserve a1 = false → inReserve a2 = false → inReserve a3 = false →
     (e1.getLsbD 0 = false → (s.translate core c va access priv).1 = .error ⟨0, 1, 0, va, a1⟩) ∧
     (e1 &&& 0xF000000000FFFF = 3 → eAddr e1 < hbmTop → e2 &&& 0xF000000000FFFF = 3 → eAddr e2 < hbmTop →
       e3.getLsbD 0 = true → e3.getLsbD 1 = false → e3.getLsbD 7 = false → malformed 3 e3 = false →
       reservedPa (eAddr e3) = false → permits e3 access priv = true →
       (access = .execute → eAddr e3 / 2 ^ 16 ∈ (s.ctx c).execFrames) →
       ∃ p, (s.translate core c va access priv).1 = .ok p ∧ p.pa = eAddr e3 + va % 2 ^ 16 ∧
         p.priv = e3.getLsbD 11))

/-- R299, R301, R303: `ld` and `ldf` whose lanes pass every check, outside transactions, mark their destination empty and
leave a load in flight with the next running number; with no executing lane they only advance. -/
def Obligations.Loads : Prop :=
  let starts (i : Instr) (f : FmtM) (n : Ctx → Nat) (shape : Ctx → Shape) (shift : Ctx → Nat → Nat)
      (spans : Ctx → List Span) : Prop :=
    ∀ s c, Issues i s c → c.w.txns = [] → c.failing (c.how .read) f.space.toNat (spans c) = none →
      let r := c.reached (c.how .read) f.space.toNat
        ((spans c).filter fun x => (unitsOf f.data (c.execs i)).contains x.lane)
      (c.execs i = 0 → exec i s = .next (r.2.after i c.w)) ∧
      (c.execs i ≠ 0 → ∃ w', exec i s = .next (r.2.stamped.after i w') ∧
        c.InFlight c.w (destKeys f.data (n c) (unitsOf f.data (c.execs i)))
          (.load (r.1.map (c.loadLane f (shift c))) f.data (shape c) (f.order == 4) (acquireOf f)) c.s.order w')
  (∀ f, starts (.ld f) f (fun _ => sizeRegs f.size) (fun _ => loadShape f.size) (fun _ _ => 0) fun c =>
    c.spans (.ld f) f (sizeBytes f.size) (sizeBytes f.size)) ∧
  ∀ f, starts (.ldf f) f (fun c => recRegs (c.record f.f.toNat) * (f.count.toNat + 1))
    (fun c => .packed (Rec.w (c.record f.f.toNat)) (f.count.toNat + 1))
    (fun c => c.bitShift f (c.record f.f.toNat)) fun c => c.packedSpans (.ldf f) f (c.record f.f.toNat)

/-- R125, R126, R301, R303: `st` and `stf` whose lanes pass every check, outside transactions, put the merged bytes of
their non-helper lanes at the end of the warp's store queue, one entry per location; they write no memory yet. R125,
R92: of the lanes of one store that write a byte, the highest lane's bits stand, and the bits that no lane writes stay
out. -/
def Obligations.StoresAndTheirMerging : Prop :=
  (let enters (i : Instr) (f : FmtM) (value bits : Ctx → Nat → Nat) (spans : Ctx → List Span) : Prop :=
     ∀ s c, Issues i s c → c.w.txns = [] →
       c.failing (c.how .write) f.space.toNat (c.storeSpans (spans c)) = none →
       let r := c.reached (c.how .write) f.space.toNat (c.storeSpans (spans c))
       let all := r.1.map fun t => (⟨t, value c t.lane, bits c t.lane⟩ : LaneStore)
       let entries := storeEntries (mergeStores all) (releaseOf f) f.hint.toNat c.sp.id c.s.order (vaAt all)
         (fun a => f.hint == 2 || typeAt all (· != 0) a) (typeAt all (· == 2))
       exec i s = .next (r.2.stamped.after i { c.w with storeQ := c.w.storeQ ++ entries })
   (∀ f, enters (.st f) f (fun c l => c.w.rdN f.data l (sizeRegs f.size)) (fun _ _ => 256 ^ sizeBytes f.size - 1)
     fun c => c.spans (.st f) f (sizeBytes f.size) (sizeBytes f.size)) ∧
   ∀ f, enters (.stf f) f
     (fun c l => c.packedValue f (c.record f.f.toNat) l * 2 ^ c.bitShift f (c.record f.f.toNat) l)
     (fun c l => (2 ^ packedBits (c.record f.f.toNat) f - 1) * 2 ^ c.bitShift f (c.record f.f.toNat) l)
     fun c => c.packedSpans (.stf f) f (c.record f.f.toNat)) ∧
  (∀ (xs : List LaneStore) (x : LaneStore) (a : Addr), x.target.addrs.Nodup →
     let entry (ys : List LaneStore) : Option StoreByte := (mergeStores ys).find? fun b => b.addr == a
     (a ∉ x.target.addrs → entry (xs ++ [x]) = entry xs) ∧
     ∀ k, x.target.addrs[k]? = some a →
       let b : Byte := BitVec.ofNat 8 (x.value / 256 ^ k)
       let m : Byte := BitVec.ofNat 8 (x.bits / 256 ^ k)
       entry (xs ++ [x]) = some (match entry xs with
         | none => ⟨a, laneBit x.target.lane, b, m⟩
         | some y => ⟨a, y.lanes ||| laneBit x.target.lane, (y.byte &&& ~~~m) ||| (b &&& m), y.mask ||| m⟩))

/-- R299, Tables 19.2 and 13.1: a load or store outside transactions with a failing lane has no effect but the access
fault of its lowest failing lane, a region-precise trap; a misaligned address is cause 2, one that is not canonical
cause 3, one past the scratchpad cause 0. -/
def Obligations.AccessFaults : Prop :=
  let faults (i : Instr) (f : FmtM) (how : Access) (spans : Ctx → List Span) : Prop :=
    ∀ s c l cause address lanes, Issues i s c → c.w.txns = [] →
      c.failing (c.how how) f.space.toNat (spans c) = some (l, .access cause address, lanes) →
      exec i s = .next (c.trapped { c.trapOf 17 cause lanes none with address := address })
  (∀ f, faults (.ld f) f .read fun c => c.spans (.ld f) f (sizeBytes f.size) (sizeBytes f.size)) ∧
  (∀ f, faults (.st f) f .write fun c =>
    c.storeSpans (c.spans (.st f) f (sizeBytes f.size) (sizeBytes f.size))) ∧
  (∀ f, faults (.ldf f) f .read fun c => c.packedSpans (.ldf f) f (c.record f.f.toNat)) ∧
  (∀ f, faults (.stf f) f .write fun c => c.storeSpans (c.packedSpans (.stf f) f (c.record f.f.toNat))) ∧
  ∀ (c : Ctx) how (x : Span),
    (x.addr % x.align ≠ 0 → c.badSpan how 0 x = some (.access 2 x.addr)) ∧
    (x.addr % x.align = 0 → 2 ^ 57 < x.addr + x.len → c.badSpan how 0 x = some (.access 3 x.addr)) ∧
    (c.g.scratchSize < x.addr + x.len → c.badSpan how 1 x = some (.access 0 x.addr)) ∧
    (x.addr + x.len ≤ c.g.scratchSize → x.addr % x.align ≠ 0 → c.badSpan how 1 x = some (.access 2 x.addr)) ∧
    (x.addr + x.len ≤ c.g.scratchSize → x.addr % x.align = 0 → c.badSpan how 1 x = none)

/-- R126, R128, R129, R132: the oldest entry of a store queue leaves once no earlier load or atomic of the warp is
unperformed and its release holds; bytes of the warp's own scratchpad are written, any other operation sets out from
the core, and a fence only leaves. R92, R128, R141: a write on its way that nothing holds back is performed: each byte
of memory takes the bits its store wrote, every other byte stays, and the write has left the core. R138: one to another
member's scratchpad is held by that member's bank. -/
def Obligations.StoreQueues : Prop :=
  (∀ (s : State) u i g w e rest, s.wgs.look u = some g → g.warps[i]? = some w → w.storeQ = e :: rest →
     (∀ p ∈ w.producers, p.memory = true → e.order ≤ p.order) → s.releases g.core u i e.order e.release w = true →
     let left := s.setWarp u i { w with storeQ := rest }
     (e.op = .fence → exec (.storeQueueDrain u i) s = .next left) ∧
     (∀ bs, e.op = .bytes bs → e.op.own u = true →
       s.claimed u i e.order e.arrived ((e.op.addrs.map locOf).eraseDups) = false →
       s.refusedAt e.op = none →
       exec (.storeQueueDrain u i) s = .next (left.writeUnder e.hint (storeBytes bs))) ∧
     (e.op ≠ .fence → e.op.own u = false → ∃ t, exec (.storeQueueDrain u i) s = .next t ∧ t.mem = s.mem ∧
       t.warp? u i = some { w with storeQ := rest } ∧ (t.core g.core).outbound = (s.core g.core).outbound ++
         [⟨e.op, e.va, u, i, e.strict, e.full, e.hint, e.split, e.order, none, s.order⟩])) ∧
  ((∀ (s : State) bs a, (∀ u off, a = .scratch u off → (s.wgs.look u).isSome = true) →
     (s.writeBytes bs).byteAt a = bs.foldl (fun b x => if x.1 = a then (b &&& ~~~x.2.2) ||| (x.2.1 &&& x.2.2) else b)
       (s.byteAt a)) ∧
   ∀ (s : State) core idx o bs, (s.core core).outbound[idx]? = some o → o.op = .bytes bs →
     heldBack ((s.core core).outbound.take idx) o = false →
     s.claimed o.wg o.warp o.order o.arrived ((o.op.addrs.map locOf).eraseDups) = false → s.refusesWrite o = false →
     ∃ t, exec (.writePerformedAtHomeSlice core idx) s = .next t ∧
       (t.core core).outbound = (s.core core).outbound.take idx ++ (s.core core).outbound.drop (idx + 1) ∧
       (∀ v off, o.op.addr = .scratch v off → t.mem = s.mem ∧ ∀ g, s.wgs.look v = some g →
         t.wgs.look v = some { g with inbox := g.inbox ++ [bs.filterMap fun b => match b.addr with
           | .scratch x off => if x = v then some (off, b.byte, b.mask) else none
           | .phys _ => none] }) ∧
       ∀ pa₀, o.op.addr = .phys pa₀ → ∀ pa, t.mem.byte pa = (storeBytes bs).foldl (fun b x =>
         if x.1 = .phys pa then (b &&& ~~~x.2.2) ||| (x.2.1 &&& x.2.2) else b) (s.mem.byte pa))

/-- R184, R126, R301: a producer that completes writes those registers that it still fills (R186) and sets them full.
Known values are written as they are; a load that nothing holds back writes what its lanes read, the newest queued bytes
of the same lane over memory. R144, R145: a read at the home slice sees memory, unless the launch's promise to an
invariant load was broken: then it sees one of the values that the location has held. -/
def Obligations.ProducersComplete : Prop :=
  let ends (w w' : Warp) (p : Producer) (ws : List (RegKey × Word)) : Prop :=
    w'.regs = w.regs.setMany (0 : Word) (ws.filter fun x => p.dests.contains x.1) ∧
      w'.producers = w.producers.filter (fun q => q.id != p.id) ∧
      w'.masks = w.masks ∧ w'.splits = w.splits ∧ w'.storeQ = w.storeQ ∧
      ∀ k, w'.isEmpty k = (w.isEmpty k && !decide (k ∈ p.dests)) ∧
        w'.isDamaged k = (w.isDamaged k && !decide (k ∈ p.dests ∧ k ∈ ws.map (·.1)))
  (∀ (s : State) u i g w k p ws, s.wgs.look u = some g → g.warps[i]? = some w → w.producers[k]? = some p →
    p.work = .values ws → ∃ w', exec (.producerComplete u i k) s = .next (s.setWarp u i w') ∧ ends w w' p ws) ∧
  (∀ (s : State) u i g w k p lanes d shape inv drop, s.wgs.look u = some g → g.warps[i]? = some w →
    w.producers[k]? = some p → p.work = .load lanes d shape inv drop → w.firstMemory p = true →
    (s.core g.core).outbound = [] → s.jobs = [] → s.hostEarly = [] →
    (∀ e ∈ w.storeQ, e.strict = true → p.order ≤ e.order) → (∀ l ∈ lanes, waitsForRed w.storeQ p.order l = false) →
    (∀ l ∈ lanes, ∀ a ∈ l.addrs, s.badAddr a = false ∧ s.lockedLoc (locOf a) = false) →
    ∃ t w', exec (.producerComplete u i k) s = .next t ∧ t.mem = s.mem ∧ t.warp? u i = some w' ∧
      ends w w' p (regWrites d shape.regs (lanes.map fun l =>
        (l.lane, if l.zero then 0 else shapeValue shape l.shift (s.loadValue u (s.core g.core) g.launch w p.order l))))) ∧
  (∀ (s : State) u k launch (w : Warp) order l, w.storeQ = [] → l.tx = false → l.home = true →
    (∀ pa, s.heldValues launch pa = none) → s.loadValue u k launch w order l = natOfBytes (l.addrs.map s.byteAt)) ∧
  (∀ (s : State) u k launch l pa vs, s.heldValues launch pa = some vs →
    ∃ v ∈ vs, s.seenByte u k launch l (.phys pa) = BitVec.ofNat 8 (v.toNat / 256 ^ (pa % 4))) ∧
  ∀ q e bs x order lane a b, e.op = .bytes bs → bs.filter (fun y => y.addr == a) = [x] → e.order < order →
    x.lanes.getLsbD lane = true → forwarded (q ++ [e]) order lane a b =
      (forwarded q order lane a b &&& ~~~x.mask) ||| (x.byte &&& x.mask)

/-- R305, R306, Table 5.5: a prefetch whose addresses are canonical and outside the reserves changes no register and no
memory but A bits; an `ipref` may set ready times of splits whose next line it installs (R211). A release fence stands in the
store queue; an acquire that has its values, and an acq-rel fence whose earlier accesses are performed, show the banks of
the core's work-groups and drop the core's L1 lines at scopes above the core; either is an acquire-side event (R134). -/
def Obligations.PrefetchesAndFences : Prop :=
  (let untimed (s : State) : Sparse WorkGroup := s.wgs.map fun p => (p.1, { p.2 with warps := p.2.warps.map fun w =>
     { w with splits := w.splits.map fun sp => { sp with readyAt := 0 } } })
   ∀ p ∈ ([(.pref, .read), (.ipref, .execute)] : List ((FmtM → Instr) × Access)), ∀ f s c, Issues (p.1 f) s c →
    (∀ l ∈ lanesOf (c.execs (p.1 f)), c.helper l = false → ∀ b,
      c.badSpan ⟨p.2, p.2, 0⟩ 0 ⟨l, c.ea f l, 1, 1⟩ = some b → ∃ m, b = .miss m ∧ m.type ≠ 5) →
    ∃ t, exec (p.1 f) s = .next t ∧ untimed t = untimed (c.after (p.1 f) c.w) ∧
      (p.2 = .read → t.wgs = (c.after (p.1 f) c.w).wgs) ∧
      ∀ a, t.mem.byte a ||| 0x60 = s.mem.byte a ||| 0x60) ∧
  ∀ f s c, Issues (.fence f) s c →
    let dropped : State := if f.scope = 0 then c.s else c.s.acquire c.g.core c.g.launch
    (c.execs (.fence f) = 0 → exec (.fence f) s = .next (c.after (.fence f) c.w)) ∧
    (c.execs (.fence f) ≠ 0 → f.order = 1 → c.w.reading = false →
      exec (.fence f) s = .next (({ c with s := dropped } : Ctx).after (.fence f) (c.w.sync c.s.order))) ∧
    (c.execs (.fence f) ≠ 0 → f.order = 2 → exec (.fence f) s = .next (c.stamped.after (.fence f)
      { c.w with storeQ := c.w.storeQ ++ [⟨.fence, 0, f.scope.toNat + 1, false, false, false, 0, c.sp.id, c.s.order, none⟩] })) ∧
    (c.execs (.fence f) ≠ 0 → f.order = 3 →
      c.s.performedAt c.g.core c.uid c.wi c.s.order f.scope.toNat c.w = true →
      exec (.fence f) s = .next (({ c with s := dropped } : Ctx).after (.fence f) (c.w.sync c.s.order)))

/-- R307, R309, R310, R314: `atom`, `cas` and `red` complete when their lanes pass every check and their record has native
width. `atom` and `cas` mark D empty, put one atomic operation in flight and close the region; with no lane that takes part
they write 0 and close it. `red` puts a group per address at the end of the store queue, or in a deterministic launch adds
each lane's elements of a global floating addition to the staged sums (R222), and closes the region. -/
def Obligations.Atomics : Prop :=
  (∀ p ∈ ([(.atom, false), (.cas, true)] : List ((FmtMO → Instr) × Bool)), ∀ f s c, Issues (p.1 f) s c →
    let k := c.atomKind f p.2
    let lanes := c.participants (p.1 f) f.m.data
    let idle := (unitsOf f.m.data (c.execs (p.1 f))).filter fun l => !lanes.contains l
    let w := (c.atomDrawn k lanes).wrAll f.m.data (k.bytes / 4) (idle.map fun l => (l, 0))
    (∀ r, k.record = some r → Rec.w r ≤ 32) → c.failing atomHow f.m.space.toNat (c.atomSpans f k lanes) = none →
    let r := c.reached atomHow f.m.space.toNat (c.atomSpans f k lanes)
    (lanes = [] → exec (p.1 f) s = .next (r.2.afterRegion (p.1 f) w)) ∧
    (lanes ≠ [] → ∃ w', exec (p.1 f) s =
        .next (({ r.2 with s := r.2.s.expose c.g } : Ctx).stamped.afterRegion (p.1 f) w') ∧
      c.InFlight w (destKeys f.m.data (k.bytes / 4) lanes) (.atomic (groupLanes r.1 (c.atomLane f k)) [] f.m.data k
        (releaseOf f.m) (acquireOf f.m)) c.s.order w')) ∧
  ∀ f s c, Issues (.red f) s c →
    let k := c.atomKind f false
    let lanes := lanesOf (c.execs (.red f) &&& ~~~c.w.helpers)
    (∀ r, k.record = some r → Rec.w r ≤ 32) → c.failing atomHow f.m.space.toNat (c.atomSpans f k lanes) = none →
    let r := c.reached atomHow f.m.space.toNat (c.atomSpans f k lanes)
    let w := c.atomDrawn k lanes
    (c.stages f = false → exec (.red f) s = .next (r.2.stamped.afterRegion (.red f)
      { w with storeQ := w.storeQ ++ (groupLanes r.1 (c.atomLane f k)).map fun g =>
          ⟨.red k g, g.va, releaseOf f.m, true, r.1.any fun t => t.type == 2 && t.addrs.head? == some g.addr, false, 0,
            c.sp.id, c.s.order, none⟩ })) ∧
    (c.stages f = true → exec (.red f) s = .next (Ctx.afterRegion
      { r.2 with s := r.1.foldl (fun s t => s.modCtx c.g.ctx fun x => x.stage c.g.launch (stageCore c.g) t.va
          (c.record f.m.f.toNat) (laneVals (c.record f.m.f.toNat) (c.atomLane f k t.lane).v)) r.2.s } (.red f) w))

/-- R136, R308: a group's integer lanes act one at a time in ascending order, each returning the value before its own
step; the eight operations on a location of n bits. R137: the first lane of a floating group receives the location as
it is, and a group of one leaves the location combined with its operand and encoded once. R131, R136: the last group of
an `atom` or `cas` in flight, with nothing that holds it back and no monitor armed, is performed at its address: the
location takes the group's value, every other byte stays, and D takes the returned values. -/
def Obligations.AtomicEffects : Prop :=
  ((∀ k lanes old, (atomInt k lanes old).1 = lanes.foldl (atomValue k) old ∧
     ∀ (n : Nat) l, lanes[n]? = some l →
       (atomInt k lanes old).2[n]? = some (l.lane, (lanes.take n).foldl (atomValue k) old)) ∧
   (∀ (k : AtomKind) old l, old < 2 ^ (8 * k.bytes) → l.v < 2 ^ (8 * k.bytes) →
     let less (x y : Nat) : Prop :=
       if k.type = 4 ∨ k.type = 6 then (BitVec.ofNat (8 * k.bytes) x).toInt < (BitVec.ofNat (8 * k.bytes) y).toInt
       else x < y
     (k.op = 0 → atomValue k old l = (old + l.v) % 2 ^ (8 * k.bytes)) ∧
     (k.op = 1 → (less l.v old → atomValue k old l = l.v) ∧ (¬less l.v old → atomValue k old l = old)) ∧
     (k.op = 2 → (less old l.v → atomValue k old l = l.v) ∧ (¬less old l.v → atomValue k old l = old)) ∧
     (k.op = 3 → atomValue k old l = old &&& l.v) ∧ (k.op = 4 → atomValue k old l = old ||| l.v) ∧
     (k.op = 5 → atomValue k old l = old ^^^ l.v) ∧ (k.op = 6 → atomValue k old l = l.v) ∧
     (k.op = 7 → atomValue k old l = if old = l.v then l.new else old)) ∧
   ∀ (k : AtomKind) r old l, k.record = some r →
     (∀ rest, ((atomGroup k old (l :: rest)).2.head?) = some (l.lane, old)) ∧
     ∀ j < Rec.ne r, elemOf (atomGroup k old [l]).1 (Rec.w r) j = encodeVal r (atomVal k r
       (decodeCode r (elemOf old (Rec.w r) j)) (decodeCode r (elemOf l.v (Rec.w r) j))) (l.words.getD j 0) % 2 ^ Rec.w r) ∧
  (∀ (s : State) u i g w n p x results d k release drop pa, s.wgs.look u = some g → g.warps[i]? = some w →
     w.producers[n]? = some p → p.work = .atomic [x] results d k release drop → w.firstMemory p = true →
     w.storeQ = [] → (s.core g.core).outbound = [] → (∀ q ∈ s.cores, q.2.outbound = []) → s.peerPending = [] →
     (∀ y, s.lockedLoc y = false) → s.hostEarly = [] → (∀ a, s.heldValues g.launch a = none) →
     (release = 0 ∨ ∀ q ∈ w.producers, q.id ≠ p.id → q.memory = true → p.order ≤ q.order) → s.jobs = [] →
     x.addr = .phys pa → (∀ j < k.bytes, s.badAddr (.phys (pa + j)) = false) → (∀ q, (s.die q).monitors = []) →
     let r := atomGroup k (s.mem.value pa k.bytes) x.lanes
     ∃ t w', exec (.producerComplete u i n) s = .next t ∧ t.mem.value pa k.bytes = r.1 % 256 ^ k.bytes ∧
       (∀ a, a < pa ∨ pa + k.bytes ≤ a → t.mem.byte a = s.mem.byte a) ∧ t.warp? u i = some w' ∧
       w'.regs = w.regs.setMany (0 : Word)
         ((results ++ regWrites d (k.bytes / 4) r.2).filter fun x => p.dests.contains x.1) ∧
       (∀ key, w'.isEmpty key = (w.isEmpty key && !decide (key ∈ p.dests))) ∧
       w'.producers = w.producers.filter fun q => q.id != p.id)

/-- R106, R108, R313: `amxadv` advances each entry its non-helper lanes name, and `sclget` writes an entry's ScaleExp
sign-extended; an advance moves the current maximum into the ring, steps the head and the count, clears the current
maximum and counts the step. -/
def Obligations.DelayedScaling : Prop :=
  (∀ f s c, Issues (.amxadv f) s c →
    let xs := (lanesOf (c.execs (.amxadv f) &&& ~~~c.w.helpers)).map fun l => (⟨l, c.ea f l, 64, 64⟩ : Span)
    let r := c.reached atomHow 0 xs
    c.failing atomHow 0 xs = none → c.quiet = true → c.Unclaimed r.1 →
    (r.2.s.advances c.g.core c.slots (entryGroups r.1)).1 = [] →
    let s' := (r.2.s.advances c.g.core c.slots (entryGroups r.1)).2
    exec (.amxadv f) s = .next (({ r.2 with s := s' } : Ctx).afterRegion (.amxadv f) (c.warpIn s'))) ∧
  (∀ f s c, Issues (.sclget f) s c →
    let xs := (lanesOf (c.execs (.sclget f))).map fun l => (⟨l, c.ea f l, 64, 64⟩ : Span)
    let r := c.reached readHow 0 (xs.filter fun x => (unitsOf f.data (c.execs (.sclget f))).contains x.lane)
    c.failing readHow 0 xs = none → c.w.reading = false → c.storesTo r.1 = false → c.Unclaimed r.1 →
    let s' := r.1.foldl (fun s t => t.lines.foldl (fun s line => s.dropLine c.g.core line) s)
      (r.2.s.touchLines 0 (r.1.flatMap (·.addrs)))
    ∃ w' x, exec (.sclget f) s = .next (({ r.2 with s := s' } : Ctx).after (.sclget f) w') ∧
      c.Writes c.w (.sclget f) f.data 1 x w' ∧
      ∀ t ∈ r.1, ∀ a, t.addrs.head? = some a → x t.lane =
        ((BitVec.ofNat 8 (entryBits (r.2.s.valueAt a 64) 424 8)).signExtend 32).toNat) ∧
  ∀ e r, e < 2 ^ 512 →
    let h := entryBits e 416 4 % 12
    entryBits (advanceEntry e r) 384 32 = 0 ∧ entryBits (advanceEntry e r) (32 * h) 32 = entryBits e 384 32 ∧
      entryBits (advanceEntry e r) 416 4 = (h + 1) % 12 ∧
      entryBits (advanceEntry e r) 420 4 = min (min (entryBits e 420 4) 12 + 1) 12 ∧
      entryBits (advanceEntry e r) 448 32 = (entryBits e 448 32 + 1) % 2 ^ 32 ∧
      ∀ k < 12, k ≠ h → entryBits (advanceEntry e r) (32 * k) 32 = entryBits e (32 * k) 32

/-- R164, R165, R167, R311, R312: `txb` outside transactions begins one in each executing non-helper lane and opens a
region at itself; `txe` of one lane that no lock or claim holds up commits a valid transaction whole, or sends the lane to its
fail target; `txa` ends a lane's transaction with the user code; `txst` reads the status word. `txe` and `txa` of lanes that
are in none only set their status. R171, R172: an abort ends the lanes' transactions, keeps every register and memory byte,
sets the status words, and lanes of one split and one fail target go on there as one new split. -/
def Obligations.TransactionsAndAborts : Prop :=
  ((∀ f s c, Issues (.txb f) s c → (∀ l ∈ lanesOf (c.execs (.txb f)), c.inTx l = false) → c.w.txLoads = false →
     let lanes := c.execs (.txb f) &&& ~~~c.w.helpers
     (lanes = 0 → exec (.txb f) s = .next (c.after (.txb f) c.w)) ∧
     (lanes ≠ 0 → ∃ w', exec (.txb f) s = .next ((c.s.expose c.g).setWarp c.uid c.wi w') ∧ w'.regs = c.w.regs ∧
       w'.regions = c.w.regions + 1 ∧
       (∀ l, l < 128 → w'.txns.look l = if lanes.getLsbD l
         then some ⟨(((c.sp.pc : Int) + 8 * f.offset.toInt) % 2 ^ 57).toNat, [], [], [], [], [], none, none⟩ else c.w.txns.look l) ∧
       (∀ l, lanes.getLsbD l = true → Sparse.get (0 : Word) w'.txst l = 0) ∧
       ∃ sp ∈ w'.splits, sp.id = c.sp.id ∧ sp.lanes = c.sp.lanes ∧ sp.pc = (c.sp.pc + 8) % 2 ^ 57 ∧
         sp.entry = c.sp.pc ∧ sp.counter = c.w.regions + 1)) ∧
   (∀ f s c l x, Issues (.txe f) s c → lanesOf (c.execs (.txe f)) = [l] → c.w.txns.look l = some x → x.verdict = none →
     c.quiet = true → c.Unclaimed (txTargets [(l, x)]) → c.s.meetsLock [(l, x)] = false →
     (x.valid s.mem = true → ∃ t w', exec (.txe f) s = .next t ∧ t.mem = (c.commit c.s x).mem ∧
       t.warp? c.uid c.wi = some w' ∧ w'.txns.look l = none ∧
       Sparse.get (0 : Word) w'.txst l = txStatus 1 0 x.readLines.length x.writeLines.length) ∧
     (x.valid s.mem = false → ∃ t w', exec (.txe f) s = .next t ∧ t.mem = s.mem ∧
       t.warp? c.uid c.wi = some w' ∧ w'.txns.look l = none ∧
       Sparse.get (0 : Word) w'.txst l = txStatus 3 0 x.readLines.length x.writeLines.length ∧
       ∃ sp ∈ w'.splits, sp.lanes.getLsbD l = true ∧ sp.pc = x.fail)) ∧
   (∀ p ∈ ([.txe, .txa] : List (FmtC → Instr)), ∀ f s c, Issues (p f) s c →
     (∀ l ∈ lanesOf (c.execs (p f)), c.w.txns.look l = none) →
     ∃ w', exec (p f) s = .next (c.after (p f) w') ∧ w' = { c.w with txst := w'.txst } ∧
       ∀ l, l < 128 → Sparse.get (0 : Word) w'.txst l =
         if (c.execs (p f)).getLsbD l then 13 else Sparse.get (0 : Word) c.w.txst l) ∧
   (∀ f s c, Issues (.txa f) s c → ∃ t w', exec (.txa f) s = .next t ∧ t.mem = s.mem ∧
     t.warp? c.uid c.wi = some w' ∧ w'.regs = c.w.regs ∧
     ∀ l x, (c.execs (.txa f)).getLsbD l = true → c.w.txns.look l = some x → w'.txns.look l = none ∧
       Sparse.get (0 : Word) w'.txst l = txStatus (x.verdict.getD 9) f.low.toNat x.readLines.length x.writeLines.length ∧
       ∃ sp ∈ w'.splits, sp.lanes.getLsbD l = true ∧ sp.pc = x.fail) ∧
   ∀ f s c, Issues (.txst f) s c → ∃ t, exec (.txst f) s = .next t ∧
     c.Result (.txst f) f.d 1 (fun l => (Sparse.get (0 : Word) c.w.txst l).toNat) t) ∧
  (∀ (s : State) u i lanes code user g w, s.wgs.look u = some g → g.warps[i]? = some w → lanes ≠ [] →
     (∀ l ∈ lanes, l < 128) → ∃ w', Recorded (s.setWarp u i w') (s.abortLanes u i lanes code user) ∧ w'.regs = w.regs ∧
       w'.masks = w.masks ∧
       w'.storeQ = w.storeQ ∧ w'.live = w.live ∧
       (∀ l, l ∉ lanes → w'.txns.look l = w.txns.look l ∧
         Sparse.get (0 : Word) w'.txst l = Sparse.get (0 : Word) w.txst l) ∧
       ∀ l ∈ lanes, ∀ x, w.txns.look l = some x → w'.txns.look l = none ∧
         Sparse.get (0 : Word) w'.txst l = txStatus (x.verdict.getD code) user x.readLines.length x.writeLines.length ∧
         ∀ from_, w.splitOf l = some from_ → ∃ sp ∈ w'.splits ++ (w'.handler.map (·.splits)).getD [],
           sp.pc = x.fail ∧ sp.wait = none ∧ sp.entry = x.fail ∧
           ∀ k, sp.lanes.getLsbD k = true ↔
             k ∈ lanes ∧ (w.txns.look k).map (·.fail) = some x.fail ∧ w.splitOf k = some from_)

/-! ### Copies and barriers -/

/-- R315, R316, R317: `cpa` whose lanes pass its checks starts one job that claims 32 bytes of scratchpad per lane and
counts under its tag, and closes the region. `cpwait` goes on when its tag's jobs are few enough, or with no job of the
tag, and else waits; `cpcnt` reads the count. R318: `kick` writes the code and index of its first failing check and
submits nothing; a list of requests that pass, in a warp whose earlier accesses are performed, when the slices have ownership
entries for their lines (R55), becomes one job per
request in list order and writes 0. -/
def Obligations.Copies : Prop :=
  ((∀ f s c, Issues (.cpa f) s c →
     let lanes := lanesOf (c.execs (.cpa f) &&& ~~~c.w.helpers)
     let n := Sparse.get 0 c.w.tags (Oper.tag f)
     (lanes = [] → exec (.cpa f) s = .next (c.afterRegion (.cpa f) c.w)) ∧
     (lanes ≠ [] → (∀ l ∈ lanes, (c.copyLane f l).bad c.g.scratchSize = none) → n < 1023 → c.quiet = true →
       exec (.cpa f) s = .next (({ c with s := (c.addJob c.s (.cpa (lanes.map (c.copyLane f)) 0 (Oper.tag f))
           (lanes.map fun l => blockClaim c.uid (c.w.rd f.m.data l).toNat 32) none f.m.hint.toNat).2 } : Ctx).afterRegion (.cpa f)
         { c.w with tags := c.w.tags.set 0 (Oper.tag f) (n + 1) }))) ∧
   (∀ f s c, Issues (.cpwait f) s c → (∀ p ∈ s.jobs, p.2.failed = none) →
     (c.execs (.cpwait f) = 0 → exec (.cpwait f) s = .next (c.after (.cpwait f) c.w)) ∧
     (c.execs (.cpwait f) ≠ 0 → f.site.getLsbD 2 = false →
       exec (.cpwait f) s = .next (if Sparse.get 0 c.w.tags (f.site.toNat % 4) ≤ f.low.toNat
         then c.after (.cpwait f) c.w
         else c.s.setWarp c.uid c.wi (c.w.modSplit c.sp.id fun sp => { sp with wait := some (.cpwait none) }))) ∧
     (c.execs (.cpwait f) ≠ 0 → f.site.getLsbD 2 = true → (∀ j, c.sp.wait ≠ some (.cpwait (some j))) →
       (∀ p ∈ s.jobs, p.2.onTag c.uid c.wi (f.site.toNat % 4) = true → p.2.done = true) →
       exec (.cpwait f) s = .next (c.after (.cpwait f) c.w))) ∧
   ∀ f s c, Issues (.cpcnt f) s c → ∃ t, exec (.cpcnt f) s = .next t ∧
     c.Result (.cpcnt f) f.d 1 (fun _ => Sparse.get 0 c.w.tags (f.sel.toNat % 4)) t) ∧
  (∀ f s c, Issues (.kick f) s c →
     let off := (c.w.rd f.a 0).toNat
     let n := (c.w.rd f.b 0).toNat
     let object := if f.o.getLsbD 0 then some (c.w.rd f.c 0).toNat else none
     let requests := (List.range n).map fun k => requestOf (c.s.valueAt (.scratch c.uid (off + 32 * k)) 32)
     let ends (d : Ctx) (word : Nat) : Prop := ∃ w', exec (.kick f) s = .next (d.afterRegion (.kick f) w') ∧
       c.Writes c.w (.kick f) f.d 1 (fun _ => word) w'
     (c.execs (.kick f) &&& ~~~c.w.helpers = 0 → ends c 0) ∧
     (c.execs (.kick f) &&& ~~~c.w.helpers ≠ 0 → (n = 0 ∨ 256 < n → ends c 1) ∧
       (0 < n → n ≤ 256 → c.g.scratchSize < off + 32 * n → ends c 2) ∧
       (0 < n → n ≤ 256 → off + 32 * n ≤ c.g.scratchSize → c.quiet = true →
         c.Unclaimed [⟨0, off, (List.range (32 * n)).map fun k => .scratch c.uid (off + k), 0, false⟩] →
         (∀ k code, firstBad c.g.scratchSize object requests = some (k, code) → ends c (code + k * 65536)) ∧
         ∀ ys s', firstBad c.g.scratchSize object requests = none →
           (∀ r ∈ requests, r.src.nonCanonical r.len = none ∧ r.dst.nonCanonical r.len = none) →
           c.kickDests requests c.s = (.ok ys, s') → c.s.ownersFull (ys.flatMap fun y => y.2.1) = none →
             ends { c with s := c.submit object ys s' } 0)))

/-- R151 to R156, R319: `binit` writes an object whole; `barr` makes one arrival per object with the sums of its lanes'
weights and bytes and returns the phase before it; `bwait` goes on when every lane's token tests complete and else
waits; `btest` writes the tests. R153, R155, R156, Table 6.2: the updates of an object and its test, and that an
object's 16 bytes hold it. -/
def Obligations.Barriers : Prop :=
  (let ready (c : Ctx) (a : BitVec 8) (lanes : List Nat) : Prop :=
     c.failing readHow 1 (c.objSpans a lanes) = none ∧ c.Unclaimed (c.objTargets (c.objSpans a lanes))
   let sound (c : Ctx) (a : BitVec 8) (lanes : List Nat) : Prop := ∀ l ∈ lanes,
     (c.s.barObj c.uid (c.objAt a l)).malformed = false ∧ (c.s.barObj c.uid (c.objAt a l)).errArr = false ∧
       (c.s.barObj c.uid (c.objAt a l)).errBytes = false
   (∀ f s c, Issues (.binit f) s c →
     let lanes := lanesOf (c.execs (.binit f) &&& ~~~c.w.helpers)
     ready c f.a lanes → c.w.settled = true → (∀ l ∈ lanes, badCount (c.w.rd f.b l) = false) →
     exec (.binit f) s = .next (({ c with s := lanes.foldl (fun s l => s.setBarObj c.uid (c.objAt f.a l)
       ⟨(c.w.rd f.b l).toNat, (c.w.rd f.b l).toNat, 0, 0, false, false, false⟩) c.s } : Ctx).afterRegion (.binit f) c.w)) ∧
   (∀ f s c, Issues (.barr f) s c →
     let lanes := c.participants (.barr f) f.d
     ready c f.a lanes → c.w.settled = true →
     (∀ l ∈ lanes, badCount (c.w.rd f.b l) = false ∧ (c.w.rd f.c l).toNat ≤ 2 ^ 31 - 1) →
     (∀ l ∈ lanes, (c.s.barObj c.uid (c.objAt f.a l)).malformed = false) →
     ∃ w' x, exec (.barr f) s = .next (({ c with s := (c.arrivals f lanes).foldl (fun s p =>
         s.setBarObj c.uid p.1 ((s.barObj c.uid p.1).arrive p.2.1 p.2.2)) c.s } : Ctx).afterRegion (.barr f) w') ∧
       c.Writes c.w (.barr f) f.d 1 x w' ∧
       ∀ l ∈ unitsOf f.d (c.execs (.barr f)), x l =
         if l ∈ lanes then (c.s.barObj c.uid (c.objAt f.a l)).phase else 0) ∧
   (∀ f s c, Issues (.bwait f) s c →
     let lanes := lanesOf (c.execs (.bwait f) &&& ~~~c.w.helpers)
     ready c f.a lanes → sound c f.a lanes → c.w.reading = false →
     c.storesTo (c.objTargets (c.objSpans f.a lanes)) = false → (∀ p ∈ s.jobs, p.2.failed = none) →
     ((∀ l ∈ lanes, c.tokenDone f l = true) →
       exec (.bwait f) s = .next (c.after (.bwait f) (c.w.sync c.s.order))) ∧
     ((∃ l ∈ lanes, c.tokenDone f l = false) → ∃ off token, exec (.bwait f) s =
       .next (c.s.setWarp c.uid c.wi (c.w.modSplit c.sp.id fun sp => { sp with wait := some (.bwait off token) })))) ∧
   ∀ f s c, Issues (.btest f) s c →
     let lanes := c.participants (.btest f) f.d
     ready c f.a lanes → sound c f.a lanes → c.w.reading = false →
     c.storesTo (c.objTargets (c.objSpans f.a lanes)) = false → (∀ p ∈ s.jobs, p.2.failed = none) →
     ∃ t, exec (.btest f) s = .next t ∧
       c.ResultOn (if lanes.any (c.tokenDone f) then c.w.sync c.s.order else c.w) (.btest f) f.d 1 (fun l => if l ∈ lanes ∧ c.tokenDone f l = true then 1 else 0) t) ∧
  ((∀ o : BarObj, o.settle = if o.pending = 0 ∧ o.bytes ≤ 0 then
      { o with errBytes := o.errBytes || decide (o.bytes < 0), phase := (o.phase + 1) % 2 ^ 31,
               pending := o.count, bytes := 0 } else o) ∧
   (∀ (o : BarObj) (a e : Nat), o.arrive a e = BarObj.settle
      { o with pending := if o.pending < a then 0 else o.pending - a, errArr := o.errArr || decide (o.pending < a),
               bytes := if 2 ^ 31 - 1 < o.bytes + e then 0 else o.bytes + e,
               errBytes := o.errBytes || decide (2 ^ 31 - 1 < o.bytes + e) }) ∧
   (∀ (o : BarObj) (n : Nat), o.countDown n = BarObj.settle
      { o with bytes := if o.bytes - n < -(2 ^ 31) then -(2 ^ 31) else o.bytes - n,
               errBytes := o.errBytes || decide (o.bytes - n < -(2 ^ 31)) }) ∧
   (∀ (o : BarObj) (token : Word), o.complete token = true ↔
     1 ≤ ((o.phase : Int) - token.toNat) % 2 ^ 31 ∧ ((o.phase : Int) - token.toNat) % 2 ^ 31 ≤ 2 ^ 30 - 1) ∧
   ∀ o : BarObj, o.pending < 2 ^ 16 → o.count < 2 ^ 16 → -(2 ^ 31) ≤ o.bytes → o.bytes < 2 ^ 31 → o.phase < 2 ^ 31 →
     o.malformed = false → BarObj.ofBits o.bits = o)

/-- R160, R320: `bar` and `gsync` wait in their barrier once their earlier accesses are performed, and the barrier is
tested. The work-group's barrier releases every waiting split when each warp has arrived or ended, an acquire-side event of
its warps (R135), and else changes nothing; the gang's does so over its members, once the accesses of the warps that have
ended are performed, and raises the phase. -/
def Obligations.GroupBarriers : Prop :=
  let waiting (c : Ctx) (wait : Wait) : State :=
    c.s.setWarp c.uid c.wi (c.w.modSplit c.sp.id fun sp => { sp with wait := some wait })
  (∀ f s c, Issues (.bar f) s c → c.w.settled = true →
    exec (.bar f) s = .next ((waiting c .bar).barTest c.uid)) ∧
  (∀ f s c, Issues (.gsync f) s c → c.s.performedAt c.g.core c.uid c.wi c.s.order 1 c.w = true →
    exec (.gsync f) s = .next (match c.g.gang with
      | none => (waiting c .bar).barTest c.uid
      | some k => (waiting c .gsync).gangTest k)) ∧
  (∀ (s : State) u g, s.wgs.look u = some g →
    let full : Prop := (∃ w ∈ g.warps, w.arrived .bar = true) ∧ ∀ w ∈ g.warps, w.threads = 0 ∨ w.arrived .bar = true
    let freed (sp : Split) : Split := if sp.wait = some .bar then sp.next 8 (s.now g.core) else sp
    (full → s.barTest u =
      s.setWg u { g with warps := g.warps.map fun w => { w.sync s.order with splits := w.splits.map freed } }) ∧
    (¬full → s.barTest u = s)) ∧
  ∀ (s : State) k x, s.gangs.look k = some x →
    let warps := x.members.flatMap fun u => ((s.wgs.look u).map (·.warps)).getD []
    let full : Prop := (∃ w ∈ warps, w.arrived .gsync = true) ∧
      (∀ w ∈ warps, w.threads = 0 ∨ w.arrived .gsync = true) ∧
      ∀ u ∈ x.members, ∀ g, s.wgs.look u = some g → s.exitsPerformed u g = true
    (full → ((s.gangTest k).gangs.look k).map (·.phase) = some (x.phase + 1) ∧
      ∀ u ∈ x.members, ∀ g, s.wgs.look u = some g → ∃ g', (s.gangTest k).wgs.look u = some g' ∧
        g'.warps.map (·.splits) = g.warps.map fun w => w.splits.map fun sp =>
          if sp.wait = some .gsync then sp.next 8 (s.now g.core) else sp) ∧
    (¬full → s.gangTest k = s)

/-- R161, R162, R163, R321, R322: `monw` and `monx` of a word of HBM that passes the checks, with its warp's earlier accesses
out of the way and no claim or error at the line. `monw` returns at once with the value and a status: no-entry when it would
wait and both monitor tables are full, changed when the value differs from the expected one, timeout with a zero timeout;
else it waits on a monitor at the word's home die. A changed return is an acquire. `monx` writes the word, an exchange that
is acq-rel, and returns how many monitors of the line its write woke. With no lane that takes part they only write or advance. -/
def Obligations.Monitors : Prop :=
  (∀ f s c, Issues (.monw f) s c → c.execs (.monw f) = 0 → exec (.monw f) s = .next (c.after (.monw f) c.w)) ∧
  (∀ f s c pa, Issues (.monw f) s c → c.failing armHow 0 (c.wordSpans (.monw f) f.a) = none →
    let r := c.reached armHow 0 ((c.wordSpans (.monw f) f.a).take 1)
    r.1.head?.bind (·.addrs.head?) = some (.phys pa) → c.w.reading = false → c.storesTo r.1 = false → c.Unclaimed r.1 →
    let s' := (r.2.s.touchLines 0 [.phys pa]).dropLine c.g.core (pa / 128)
    let v : Word := BitVec.ofNat 32 (r.2.s.mem.value pa 4)
    let timeout := (c.w.rd f.c 0).toNat
    let monitors := (s'.die (homeDie pa)).monitors
    let full : Prop := timeout ≠ 0 ∧ monitorEntries ≤ monitors.length
    let ends (t : State) (status order : Nat) : Prop := ∃ w',
      exec (.monw f) s = .next (({ r.2 with s := t } : Ctx).after (.monw f) (w'.sync order)) ∧
      c.Writes c.w (.monw f) f.d 2 (fun _ => v.toNat + status * 2 ^ 32) w'
    (full → ends (s'.expose c.g) 2 0) ∧
    (¬full → v ≠ c.w.rd f.b 0 → ends (s'.acquire c.g.core c.g.launch) 0 s'.order) ∧
    (v = c.w.rd f.b 0 → timeout = 0 → ends (s'.expose c.g) 1 0) ∧
    (¬full → v = c.w.rd f.b 0 → timeout ≠ 0 →
      let m : Monitor := ⟨pa, c.w.rd f.b 0, (s'.die (homeDie pa)).cycles + timeout, c.uid, c.wi, c.sp.id, f.d,
        c.execs (.monw f), none⟩
      exec (.monw f) s = .next ((State.modDie { s' with order := s'.order + 1 } (homeDie pa) fun d =>
        { d with monitors := d.monitors.put s'.order (some m) }).setWarp c.uid c.wi
          (c.w.modSplit c.sp.id fun sp => { sp with wait := some .monw })))) ∧
  ∀ f s c, Issues (.monx f) s c → c.failing exchangeHow 0 (c.wordSpans (.monx f) f.a) = none →
    (c.execs (.monx f) &&& ~~~c.w.helpers = 0 → ∃ w', exec (.monx f) s = .next (c.afterRegion (.monx f) w') ∧
      c.Writes c.w (.monx f) f.d 1 (fun _ => 0) w') ∧
    let r := c.reached exchangeHow 0 ((c.wordSpans (.monx f) f.a).take 1)
    ∀ pa, c.execs (.monx f) &&& ~~~c.w.helpers ≠ 0 → r.1.head?.bind (·.addrs.head?) = some (.phys pa) →
      c.quiet = true → c.Unclaimed r.1 →
      let bs := valueBytes (.phys pa) 4 (c.w.rd f.b 0).toNat
      let s' := (r.2.s.remember (bs.map (·.1))).dirtyLines 0 bs
      ∃ w₀ w₁ w₂, c.Writes c.w (.monx f) f.d 1 (fun _ => 0) w₀ ∧
        let written := { s' with mem := r.2.s.mem.setValue pa 4 (c.w.rd f.b 0).toNat }.setWarp c.uid c.wi w₀
        let woken := (written.die (homeDie (pa / 128 * 128))).monitors.filter fun p =>
          p.2.word / 128 == pa / 128 && BitVec.ofNat 32 (written.mem.value p.2.word 4) != p.2.x && p.2.woken.isNone
        let t := (((written.testMonitors (pa / 128)).2.dropLine c.g.core (pa / 128)).acquire c.g.core c.g.launch).expose c.g
        t.warp? c.uid c.wi = some w₁ ∧ c.Writes (w₁.sync t.order) (.monx f) f.d 1 (fun _ => woken.length) w₂ ∧
        exec (.monx f) s = .next (({ r.2 with s := t } : Ctx).afterRegion (.monx f) w₂)

/-! ### The matrix engine -/

/-- R327, R328, R330, R331, R338 to R346: a matrix instruction that passes its own checks, in a warp without a fault of its
own whose earlier accesses are performed, counts a token; unsigned and of native width it queues its operation with the
scalar values it reads, `mst` once the slices have ownership entries for its claims (R55); with no thread that executes it
only counts. -/
def Obligations.MatrixQueues : Prop :=
  let queues (i : Instr) (f : FmtX) (scalars : Ctx → List Nat) (ok : Ctx → Prop) : Prop :=
    ∀ s c, Issues i s c → c.w.matFaults = [] → c.g.desc.matrix = true →
      (c.execs i &&& ~~~c.w.helpers = 0 → exec i s = .next (c.afterRegion i
        { c.w with tokens := c.w.tokens + 1, badTokens := c.w.badTokens.del (c.w.tokens + 1).toNat })) ∧
      (c.execs i &&& ~~~c.w.helpers ≠ 0 → ok c → c.quiet = true → f.useK = false →
        ∃ t w', exec i s = .next t ∧ c.Queues i (scalars c) [] [(c.wi, c.w.tokens + 1)] c.w.key t ∧
          t.warp? c.uid c.wi = some w' ∧ w'.tokens = c.w.tokens + 1)
  let bankOk (f : FmtX) (c : Ctx) : Prop :=
    let r := c.record f.f.toNat
    let q := planesOf r f.planes.toNat
    let cols := if 9 ≤ q then 64 else 128
    let dense := c.scalar f.base + 255 * c.scalar (xReg f 11) + (cols * q + 7) / 8
    (f.planes = 0 ∨ (Rec.isInt r = true ∧ f.planes.toNat ≤ Rec.w r)) ∧ (q < 9 ∨ f.bank.toNat % 2 = 0) ∧
      (q ≤ 16 ∨ c.emul.isSome = true) ∧ c.scalar f.base % 4 = 0 ∧ c.scalar (xReg f 11) % 4 = 0 ∧
      (if f.sparse then max dense (c.scalar f.base + 256 * c.scalar (xReg f 11) + 256 * (6 * cols / 8)) else dense) ≤
        c.g.scratchSize
  let productOk (f : FmtX) (sparse : Bool) (c : Ctx) : Prop :=
    let r := c.record f.f.toNat
    let m := mulOf f sparse r (c.scalar f.base)
    c.badTile f.z.toNat = false ∧
      (f.planes = 0 ∨ (Rec.isInt r = true ∧ f.planes.toNat ≤ Rec.w r ∧ f.planes.toNat ≤ 16)) ∧
      (m.nested = true → Rec.isInt r = true ∧ Rec.w r ≤ 8) ∧ (m.scaled = true → Rec.isInt r = false) ∧
      c.scalar f.base + m.bytesA ≤ c.g.scratchSize ∧ c.scalar f.base % 4 = 0 ∧
      (c.emul.isSome = true ∨ (serialOf r f.planes.toNat ≤ 16 ∧ c.g.widthAhead f.bank.toNat ≤ 16))
  (∀ f, queues (.mldb f) f (fun c => [c.scalar f.base, c.scalar (xReg f 11)]) (bankOk f)) ∧
  (∀ f, queues (.mldbs f) f (fun c => [c.scalar f.base, c.scalar (xReg f 11)]) (bankOk f)) ∧
  (∀ f, queues (.mldt f) f (fun c => [c.scalar (xReg f 8)]) fun c => Rec.w (c.record f.f.toNat) ≤ 8 ∧
    ∃ x, c.g.windows.look (mldtWindow f) = some x ∧ x.badSlots c.slots = false ∧
      x.badTable c.slots c.g.scratchSize = false) ∧
  (∀ f, queues (.mma f) f (fun c => [c.scalar f.base]) (productOk f false)) ∧
  (∀ f, queues (.mmas f) f (fun c => [c.scalar f.base]) (productOk f true)) ∧
  (∀ f, queues (.msig f) f (fun _ => []) fun _ => True) ∧
  (∀ f, queues (.mzero f) f (fun _ => []) fun c => c.badTile f.z.toNat = false) ∧
  (∀ f, queues (.mst f) f (fun c => if mstEntry f then [c.scalar f.base, c.w.rd64 (xReg f 11) 0] else [c.scalar f.base])
    fun c => c.badTile f.z.toNat = false ∧ (c.emul.isSome = true ∨ Rec.w (c.record f.f.toNat) ≤ 32) ∧
      c.scalar f.base + 512 * Rec.w (c.record f.f.toNat) ≤ c.g.scratchSize ∧
      (mstEntry f = true → c.w.rd64 (xReg f 11) 0 % 64 = 0 ∧ c.w.rd64 (xReg f 11) 0 + 64 ≤ 2 ^ 57) ∧
      c.s.ownersFull (c.claimsOf ⟨[], [], none, [blockClaim c.uid (c.scalar f.base) (512 * Rec.w (c.record f.f.toNat))],
        if mstEntry f then some (c.w.rd64 (xReg f 11) 0, mstAmax f) else none, false⟩).1 = none) ∧
  ∀ f, queues (.mscl f) f (fun c => [c.scalar f.base]) fun c =>
    c.scalar f.base + (f.low.extractLsb' 11 8).toNat + 1 ≤ c.g.scratchSize

/-- R188, R189, R345: a signed instruction adds its threads' signatures to its convergence register; the signature that
completes the count queues the operation with every signer's token and the lowest warp's key, and a fresh round starts;
`mkset` sets the count and a fresh round. -/
def Obligations.ConvergenceRounds : Prop :=
  (∀ f s c, Issues (.msig f) s c → c.w.matFaults = [] → c.g.desc.matrix = true → f.useK = true →
    let lanes := c.execs (.msig f) &&& ~~~c.w.helpers
    let k := f.k.toNat
    let r := c.g.convReg k
    let threads := (lanesOf lanes).map fun l => c.wi * c.width + l
    let count := r.signed.length + threads.length
    lanes ≠ 0 → c.quiet = true → r.n ≠ 0 → r.abandoned = none → (∀ x ∈ threads, x ∉ r.signed) →
    (r.first = none ∨ r.first = some (bareWord (.msig f), [], [])) →
    (r.n ≤ count → ∃ t g, exec (.msig f) s = .next t ∧
      c.Queues (.msig f) [] [] (r.tokens ++ [(c.wi, c.w.tokens + 1)]) (lowestKey (r.keys ++ [(c.wi, c.w.key)])) t ∧
      t.wgs.look c.uid = some g ∧ (g.convReg k).n = r.n ∧ (g.convReg k).signed = [] ∧ (g.convReg k).tokens = []) ∧
    (count < r.n → ∃ (t : State) (g : WorkGroup) (w : Warp), exec (.msig f) s = .next (t.convTest c.uid) ∧
      t.wgs.look c.uid = some g ∧
      g.ops = c.g.ops ∧ (g.convReg k).signed = r.signed ++ threads ∧ g.warps[c.wi]? = some w ∧
      w.tokens = c.w.tokens + 1 ∧ w.regs = c.w.regs)) ∧
  ∀ f s c, Issues (.mkset f) s c → c.w.matFaults = [] → c.g.desc.matrix = true →
    let n := (f.low.extractLsb' 7 12).toNat
    ∃ (t : State) (g : WorkGroup), exec (.mkset f) s =
        .next (if n = 0 ∨ c.g.threads.length < n then t.convDeadlock c.uid f.k.toNat else t.convTest c.uid) ∧
      t.wgs.look c.uid = some g ∧ g.convReg f.k.toNat = ⟨n, [], [], [], none, none⟩ ∧ g.ops = c.g.ops ∧
      (∀ k, k ≠ f.k.toNat → g.convReg k = c.g.convReg k) ∧ g.tiles = c.g.tiles

/-- R344, R347, R348: `mrd` and `mwr` queue an operation of their elements without a token, once their warp's earlier
accesses are performed (R139), `mrd` with D empty until it has executed; `mwait` goes on when nothing it names is queued
or unsigned, and else waits; `mstat` writes the token count, and its other items once the earlier operations have
completed. -/
def Obligations.MatrixReads : Prop :=
  (∀ f s c, Issues (.mrd f) s c → c.w.matFaults = [] → c.g.desc.matrix = true →
    let d := xReg f 11
    let units := unitsOf d (c.execs (.mrd f))
    (c.execs (.mrd f) = 0 → exec (.mrd f) s = .next (c.after (.mrd f) c.w)) ∧
    (c.execs (.mrd f) ≠ 0 → c.badTile f.z.toNat = false → c.badIndex (.mrd f) f units = 0 → c.quiet = true →
      ∃ t w', exec (.mrd f) s = .next t ∧
        c.Queues (.mrd f) [] (units.map fun l => (keyOf d l, (c.w.rd (xReg f 3) l).toNat, 0)) [] c.w.key t ∧
        t.warp? c.uid c.wi = some w' ∧ w'.tokens = c.w.tokens ∧
        (∀ k, w'.isEmpty k = (c.w.isEmpty k || decide (k ∈ destKeys d 1 units))) ∧
        w'.producers = c.w.producers ++
          [⟨c.w.nextProducer, c.sp.id, destKeys d 1 units, .queued c.g.queueNo, c.s.order, none⟩])) ∧
  (∀ f s c, Issues (.mwr f) s c → c.w.matFaults = [] → c.g.desc.matrix = true →
    let lanes := lanesOf (c.execs (.mwr f) &&& ~~~c.w.helpers)
    (lanes = [] → exec (.mwr f) s = .next (c.after (.mwr f) c.w)) ∧
    (lanes ≠ [] → c.badTile f.z.toNat = false → c.badIndex (.mwr f) f lanes = 0 → c.quiet = true →
      ∃ t, exec (.mwr f) s = .next t ∧ c.Queues (.mwr f) []
        (lanes.map fun l => (0, (c.w.rd (xReg f 3) l).toNat, (c.w.rd (xReg f 11) l).toNat)) [] c.w.key t)) ∧
  (∀ f s c, Issues (.mwait f) s c → c.w.matFaults = [] → c.g.desc.matrix = true →
    (∀ p ∈ s.jobs, p.2.failed = none) →
    let waits (wait : Wait) : Prop := exec (.mwait f) s = .next
      (c.s.setWarp c.uid c.wi (c.w.modSplit c.sp.id fun sp => { sp with wait := some wait }))
    let token := c.w.rd (xReg f 11) 0
    let named : Prop := (∃ o ∈ c.g.ops, (c.wi, token) ∈ o.tokens) ∨ ∃ r ∈ c.g.conv, (c.wi, token) ∈ r.2.tokens
    (c.execs (.mwait f) = 0 → exec (.mwait f) s = .next (c.after (.mwait f) c.w)) ∧
    (c.execs (.mwait f) ≠ 0 → f.low.getLsbD 10 = true →
      (c.g.opsBefore c.waitNumber = true → waits (.mwait c.waitNumber)) ∧
      (c.g.opsBefore c.waitNumber = false → c.g.fifoA = [] → c.g.fifoB = [] →
        exec (.mwait f) s = .next (c.after (.mwait f) c.w))) ∧
    (c.execs (.mwait f) ≠ 0 → f.low.getLsbD 10 = false → token ≠ 0 → (c.w.tokens - token).toNat < 2 ^ 31 →
      c.w.badTokens.look token.toNat = none →
      (named → waits (.mtoken token)) ∧ (¬named → exec (.mwait f) s = .next (c.after (.mwait f) c.w)))) ∧
  ∀ f s c, Issues (.mstat f) s c → c.w.matFaults = [] → c.g.desc.matrix = true →
    let item := (f.low.extractLsb' 7 4).toNat
    (item = 0 ∨ c.execs (.mstat f) = 0 ∨ c.g.opsBefore c.waitNumber = false) →
    ∃ t x, exec (.mstat f) s = .next t ∧ c.Result (.mstat f) (xReg f 11) 1 (fun _ => x) t ∧
      (item = 0 → x = c.w.tokens.toNat) ∧
      (item = 1 → ∀ z < 32, x.testBit z = c.g.tileFlag z) ∧
      (item = 2 → ∀ z < 32, x.testBit z = c.g.tileFlag (32 + z)) ∧
      (item = 3 → x = c.g.fifoA.length % 65536 + c.g.fifoB.length % 65536 * 65536)

/-- R191, R327, R340, R342, R344, R347: the next operation of a queue, but a trellis load, whose reads may wait for
claims, executes, parks or faults when its job may go on; an executed one at the head completes and is gone with its job.
`mzero` zeroes its tile, `mwr` writes its elements, `mrd` lets its producer know the words, and `msig` exchanges the
copies of an unpaired bank. R336: an integer product's element. Without clamping it is the accumulator plus or minus the
whole sum, wrapped to 32 bits; with it, one block's sum is clamped to the nearer end and sets the flag. R334: a block
whose B values are all skipped adds an exact zero to a floating accumulator. -/
def Obligations.MatrixWork : Prop :=
  (let next (s : State) (u : Nat) (g : WorkGroup) (op : MatOp) : Prop := s.wgs.look u = some g ∧
     g.ops.find? (fun o => !o.executed) = some op ∧ (∃ j, s.jobs.look op.job = some j) ∧ s.opReady u op = true
   (∀ s u g op, next s u g op → op.window = none → ∃ t, exec (.matrixOpExecute u) s = .next t) ∧
   (∀ s u g op f, next s u g op → op.instr = .mzero f → ∃ t g', exec (.matrixOpExecute u) s = .next t ∧
     t.wgs.look u = some g' ∧ (∀ e < 4096, g'.tileWord f.z.toNat e = 0) ∧ g'.tileFlag f.z.toNat = false ∧
     ∀ z e, z ≠ f.z.toNat → e < 4096 → g'.tileWord z e = g.tileWord z e) ∧
   (∀ s u g op f k x v, next s u g op → op.instr = .mwr f → op.elems = [(k, x, v)] → x < 4096 →
     ∃ t g', exec (.matrixOpExecute u) s = .next t ∧ t.wgs.look u = some g' ∧
       ∀ z e, e < 4096 → g'.tileWord z e =
         if z = f.z.toNat ∧ e = x then BitVec.ofNat 32 v else g.tileWord z e) ∧
   (∀ s u g op f, next s u g op → op.instr = .msig f → g.pairedBank f.bank.toNat = false →
     ∃ t g', exec (.matrixOpExecute u) s = .next t ∧ t.wgs.look u = some g' ∧
       g'.banks.look f.bank.toNat = g.shadows.look f.bank.toNat ∧
       g'.shadows.look f.bank.toNat = g.banks.look f.bank.toNat) ∧
   (∀ s u g op f w p, next s u g op → op.instr = .mrd f → g.warps[op.warp]? = some w → p ∈ w.producers →
     p.work = .queued op.number → g.badTile f.z.toNat (fun e => op.elems.any fun x => x.2.1 == e) = false →
     ∃ t w', exec (.matrixOpExecute u) s = .next t ∧ t.warp? u op.warp = some w' ∧
       { p with work := .values (op.elems.map fun e => (e.1,
         if e.2.1 < 4096 then g.tileWord f.z.toNat e.2.1
         else if e.2.1 < 4224 ∧ f.z = 0 then Sparse.get (0 : Word) g.scaleTab (e.2.1 - 4096) else 0)) } ∈ w'.producers) ∧
   ∀ (s : State) u g op rest, s.wgs.look u = some g → g.ops = op :: rest → op.executed = true →
     (∀ o ∈ rest, o.number ≠ op.number) → ∃ t g', exec (.matrixOpComplete u) s = .next t ∧ t.wgs.look u = some g' ∧
       g'.ops = rest ∧ g'.tiles = g.tiles) ∧
  ((∀ (m : Mul) row col old, Rec.intOvf m.record = 0 → (m.int row col old).2 = false ∧
     ((m.int row col old).1 : Int) = ((if m.acc = 0 then 0 else (BitVec.ofNat 32 old).toInt) +
       (if m.acc = 2 then -1 else 1) * (col.zipIdx.map fun p =>
         (p.1.map fun b => (blockPart row p.2).getD b.1 0 * b.2).sum).sum) % 2 ^ 32) ∧
   (∀ (m : Mul) row b old, Rec.intOvf m.record = 1 →
     let start : Int := if m.acc = 0 then 0 else (BitVec.ofNat 32 old).toInt
     let t : Int := start + (if m.acc = 2 then -1 else 1) *
       (b.map fun (p : Nat × Int) => (blockPart row 0).getD p.1 0 * p.2).sum
     let clamped : Int := max (-(2 ^ 31)) (min t (2 ^ 31 - 1))
     m.int row [b] old = ((clamped % 2 ^ 32).toNat, decide (clamped ≠ t))) ∧
   ∀ (m : Mul) row s old, m.acc ≠ 2 → old < 2 ^ 32 → m.float row [[]] [some s] old = encodeVal binary32
     ((decodeVal binary32 false (if m.acc = 0 then 0 else old)).add false (.zero false)) 0)

/-! ### Trellis streams -/

/-- R353, R355, R357 to R361: `wset` installs the descriptor it reads, or takes the trellis fault of its first failing
check; `wget` reads a window register; `trdec` leaves a decoded weight per lane in flight; `trdecn` and `trenc` record
a job with its claims, `trenc` once the slices have entries for them (R55), count it and close the region, and with helper
lanes alone only close it (R177); `trwait` goes on without an earlier trellis job and else waits.
R100, R101, R102: bit b of window i of a group of n bits is the group's bit i × k + b modulo n; a weight is the value
of its window times its group's scale; a computed value is the sum of the hash's four bytes less 510. -/
def Obligations.Trellis : Prop :=
  (let usable (c : Ctx) (n : Nat) (x : Window) : Prop := c.g.windows.look n = some x ∧ x.badSlots c.slots = false ∧
     x.badTable c.slots c.g.scratchSize = false
   (∀ f s c, Issues (.wset f) s c →
     let n := f.sel.toNat % 8
     let va := c.w.rd64 f.a 0
     let xs := (lanesOf (c.execs (.wset f))).map fun l => (⟨l, va, 32, 32⟩ : Span)
     let r := c.reached readHow 0 (xs.take 1)
     let d := c.loadTargets r.2.s r.1
     let x : Window := ⟨BitVec.ofNat 256 ((d.1.head?.map (·.2)).getD 0), va⟩
     (c.execs (.wset f) = 0 → exec (.wset f) s = .next (c.after (.wset f) c.w)) ∧
     (c.execs (.wset f) ≠ 0 → c.failing readHow 0 xs = none → c.w.reading = false →
       c.storesTo r.1 = false → c.Unclaimed r.1 →
       (x.cause c.slots c.g.scratchSize = none → ∃ t g w, exec (.wset f) s = .next t ∧ t.mem = r.2.s.mem ∧
         t.wgs.look c.uid = some g ∧ g.warps[c.wi]? = some w ∧ w.regs = c.w.regs ∧
         ∀ k, g.windows.look k = if k = n then some x else c.g.windows.look k) ∧
       ∀ k, x.cause c.slots c.g.scratchSize = some k → exec (.wset f) s = .next (({ c with s := d.2 } : Ctx).trapped
         { c.trapOf 12 k (c.execs (.wset f)) (some c.sp.pc) with unit := n }))) ∧
   (∀ f s c, Issues (.wget f) s c → ∃ t, exec (.wget f) s = .next t ∧ c.Result (.wget f) f.d 1 (fun _ =>
     match c.g.windows.look (f.sel.toNat % 8) with
     | none => 0
     | some x => if f.sel.toNat / 8 % 4 = 0 then x.desc.toNat / 2 ^ 128 % 2 ^ 32
       else if f.sel.toNat / 8 % 4 = 1 then x.desc.toNat / 2 ^ 160 % 2 ^ 32
       else if f.sel.toNat / 8 % 4 = 2 then x.addr % 2 ^ 32 else x.addr / 2 ^ 32) t) ∧
   (∀ f s c x, Issues (.trdec f) s c → c.execs (.trdec f) ≠ 0 → usable c (f.c.toNat % 8) x →
     (x.computed = true ∨ c.g.badRange x.tabOff (x.tableBytes c.slots) = false ∧
       ∀ e ∈ c.w.storeQ, ∀ a ∈ e.op.addrs, ∃ pa, a = .phys pa) →
     let units := unitsOf f.d (c.execs (.trdec f))
     let xs := (lanesOf (c.execs (.trdec f))).flatMap fun l => x.spans c.slots l (c.w.rd f.a l).toNat
     let r := c.reached readHow 0 (xs.filter fun t => units.contains t.lane)
     let d := c.loadTargets r.2.s r.1
     c.failing readHow 0 xs = none → c.w.reading = false → c.storesTo r.1 = false → c.Unclaimed r.1 →
     ∃ t w v, exec (.trdec f) s = .next t ∧ c.Draws (c.record f.f.toNat) 1 units w ∧
       ({ c with s := d.2 } : Ctx).Later w (.trdec f) f.d (recRegs (c.record f.f.toNat)) v t ∧
       ∀ l ∈ units, (∀ y ∈ r.1, y.lane = l → y.bad = false) → v l = encodeVal (c.record f.f.toNat)
         (c.laneWeight x (c.w.rd f.a l).toNat ((d.1.filter fun p => p.1 == l).map (·.2))) (c.draw l 0)) ∧
   (∀ f s c, Issues (.trdecn f) s c → c.execs (.trdecn f) &&& ~~~c.w.helpers = 0 →
     exec (.trdecn f) s = .next (c.afterRegion (.trdecn f) c.w)) ∧
   (∀ f s c x, Issues (.trdecn f) s c → c.execs (.trdecn f) &&& ~~~c.w.helpers ≠ 0 → usable c (f.sel.toNat % 8) x →
     let off := (c.w.rd f.a 0).toNat
     let count := (c.w.rd f.c 0).toNat
     let r := c.record (f.sel.toNat / 8 % 16)
     let len := (count * Rec.w r + 7) / 8
     Rec.w r ≤ 32 → count ≤ 1048576 → (count ≠ 0 → off + len ≤ c.g.scratchSize ∧ c.quiet = true) →
     (count = 0 → exec (.trdecn f) s = .next (c.afterRegion (.trdecn f) c.w)) ∧
     (count ≠ 0 → ∃ t, exec (.trdecn f) s = .next t ∧ c.startTrellis (.trdecn f) c.s
       (.trdec (c.trellisRun x (c.w.rd f.b 0).toNat count off r 0 []) 0) [blockClaim c.uid off len] false = .next t)) ∧
   (∀ f s c, Issues (.trenc f) s c → c.execs (.trenc f) &&& ~~~c.w.helpers = 0 →
     exec (.trenc f) s = .next (c.afterRegion (.trenc f) c.w)) ∧
   (∀ f s c x pages s', Issues (.trenc f) s c → c.execs (.trenc f) &&& ~~~c.w.helpers ≠ 0 → usable c (f.sel.toNat % 8) x →
     let targets := c.w.rd64 f.a 0
     let first := (c.w.rd f.b 0).toNat
     let count := (c.w.rd f.c 0).toNat
     let va := x.groupAddr first
     let len := count * x.groupBytes
     0 < count → count ≤ 65536 → targets % 4 = 0 → targets + 4 * count * x.groupSize ≤ 2 ^ 57 → va + len ≤ 2 ^ 57 →
     c.quiet = true → c.s.claimPages c.g.core c.g.ctx c.privileged va len = (.ok pages, s') →
     (∀ m ∈ pages, inReserve m.pa = false) → c.s.ownersFull (pages.map fun m => lineClaim m va len) = none →
     ∃ t, exec (.trenc f) s = .next t ∧ c.startTrellis (.trenc f) s'
       (.trenc (c.trellisRun x first count 0 0 targets pages) 0) (pages.map fun m => lineClaim m va len) true = .next t) ∧
   (∀ (c : Ctx) i s kind claims queue, c.s.wgs.look c.uid = some c.g → s.wgs = c.s.wgs →
     ∃ t g j, c.startTrellis i s kind claims queue = .next t ∧ t.wgs.look c.uid = some g ∧
       g.trellis = c.g.trellis + 1 ∧ t.jobs.look s.nextUid = some j ∧ j.kind = kind ∧ j.claims = claims ∧
       j.wg = c.uid ∧ j.warp = c.wi ∧ j.done = false ∧ t.mem = s.mem) ∧
   ∀ f s c, Issues (.trwait f) s c → (∀ p ∈ s.jobs, p.2.failed = none) →
     (c.execs (.trwait f) = 0 ∨ (∀ p ∈ s.jobs, p.2.isTrellis c.uid c.wi = true → p.2.done = true) →
       exec (.trwait f) s = .next (c.after (.trwait f) c.w)) ∧
     (c.execs (.trwait f) ≠ 0 → (∀ n, c.sp.wait ≠ some (.trwait n)) →
       (∃ p ∈ s.jobs, p.2.isTrellis c.uid c.wi = true ∧ p.2.done = false ∧ p.2.order < s.order) →
       exec (.trwait f) s = .next (c.s.setWarp c.uid c.wi
         (c.w.modSplit c.sp.id fun sp => { sp with wait := some (.trwait s.order) })))) ∧
  ((∀ (x : Window) group i b, group < 2 ^ (x.groupSize * x.step) → i < x.groupSize → b < x.length →
     x.length ≤ x.groupSize * x.step →
     (x.window group i).testBit b = group.testBit ((i * x.step + b) % (x.groupSize * x.step))) ∧
   (∀ (x : Window) group i, x.window group i < 2 ^ x.length) ∧
   (∀ (s : State) u (x : Window) slots group i scale, x.computed = true → s.weight u x slots group i scale =
     (Val.ofQ (.ofInt (computedValue (x.window group i)))).mul scale) ∧
   ∀ win, let h : BitVec 32 := BitVec.ofNat 32 win * 0x02076F59
     computedValue win = ((h.extractLsb' 0 8).toNat + (h.extractLsb' 8 8).toNat + (h.extractLsb' 16 8).toNat +
       (h.extractLsb' 24 8).toNat : Int) - 510)

/-! ### Tapes -/

/-- R363 to R372: in the states of Table 16.5, with earlier accesses performed, a tape instruction whose engine accesses
succeed leaves the tape it describes bound and closes the region: `topen` a new or attached tape, `tgrant` the same tape,
`tclose` a closed one, `trec`, `tbr` and `tmark` one with the record written, `trev` one in reverse, `tget`, `tbrp` and
`tmark` in reverse one with the record consumed; `trev` as the control block says that it reads (R117); with no executing
lane they only close the region. R112, R113, R374: a record is whole words between two equal words that hold its length;
compressed deltas decompress to the same bytes; `tstat` reads the bound tape's items. -/
def Obligations.Tapes : Prop :=
  (let taped (c : Ctx) (i : Instr) (s' : State) (w : Warp) (b : Bound) : Prop := ∃ t, Recorded s' t ∧
     exec i c.s = .next (({ c with s := t } : Ctx).afterRegion i { w with tape := some b })
   let runs (c : Ctx) (i : Instr) (b : Bound) : Prop := c.recorded i ≠ 0 ∧ c.w.tape = some b ∧ c.quiet = true
   let records (c : Ctx) (i : Instr) (b : Bound) (bytes : List Byte) (after : Bound → Bound) : Prop :=
     (c.recorded i = 0 → exec i c.s = .next (c.afterRegion i c.w)) ∧
     (c.recorded i ≠ 0 → b.state = 1 → taped c i c.s c.w { b with dropped := b.dropped + 1 }) ∧
     ∀ b' s', c.recorded i ≠ 0 → b.state = 0 → c.oxbow.emit bytes chainFuel [] c.s b = .done b' s' →
       taped c i s' (c.warpIn s') (after b')
   let consumes (c : Ctx) (i : Instr) (s' : State) (b : Bound) (w : Warp) (len : Nat) : Prop :=
     ∀ b' t, c.oxbow.cross chainFuel [] s' { b with off := b.off - len } = .ok (some b', t) → taped c i t w b'
   (∀ p ∈ ([.topen, .tgrant, .tclose, .trec, .tbr, .tmark, .trev, .tget, .tbrp] : List (FmtS → Instr)), ∀ f s c,
     Issues (p f) s c → c.execs (p f) = 0 → exec (p f) s = .next (c.afterRegion (p f) c.w)) ∧
   (∀ f s c, Issues (.topen f) s c → c.recorded (.topen f) ≠ 0 → c.quiet = true →
     (∀ b, c.w.tape = some b → b.state = 2 ∨ b.state = 4) → c.w.rd64 f.a 0 % 128 = 0 →
     let chunk := c.w.rd64 f.b 0
     let size := (c.w.rd f.c 0).toNat
     (badChunk chunk size = false → chunk ≠ 0 ∨ size ≠ 0 → ∀ b s',
       c.oxbow.open_ c.s (c.w.rd64 f.a 0) chunk size (widthCode c.width) (f.o.getLsbD 0) = .ok (b, s') →
       taped c (.topen f) s' (c.warpIn s') b ∧ b.first = chunk ∧ b.cur = chunk ∧ b.off = 32 ∧ b.state = 0 ∧ b.seq = 0) ∧
     (chunk = 0 → size = 0 → ∀ b s', c.oxbow.attach c.s (c.w.rd64 f.a 0) = .ok (b, s') → b.state = 2 →
       b.width = widthCode c.width → taped c (.topen f) s' c.w b)) ∧
   (∀ f s c b s', Issues (.tgrant f) s c → runs c (.tgrant f) b → b.state = 0 →
     badChunk (c.w.rd64 f.a 0) (c.w.rd f.b 0).toNat = false →
     c.oxbow.grant c.s b (c.w.rd64 f.a 0) (c.w.rd f.b 0).toNat = .ok s' →
       taped c (.tgrant f) s' (c.warpIn s') b) ∧
   (∀ f s c b b' s', Issues (.tclose f) s c → runs c (.tclose f) b →
     (b.state = 2 → exec (.tclose f) s = .next (c.afterRegion (.tclose f) c.w)) ∧
     (b.state = 0 ∨ b.state = 1 → c.oxbow.close c.s b = .ok (b', s') →
       taped c (.tclose f) s' (c.warpIn s') b' ∧ b'.state = 2)) ∧
   (∀ f s c b, Issues (.trec f) s c → runs c (.trec f) b → b.state ≤ 1 →
     let keys := (lanesOf (c.recorded (.trec f))).flatMap fun l => (List.range (f.o.toNat + 1)).map fun j =>
       (refKey (siteOf f) l j, BitVec.ofNat 32 (c.tapeWord f.a l j))
     let deltas := keys.flatMap fun p => bytesOfNat 4 (p.2 ^^^ Sparse.get (0 : Word) b.refs p.1).toNat
     records c (.trec f) b (recordBytes 0 (siteOf f) f.o.toNat false
       (bytesOfNat (c.width / 8) (c.recorded (.trec f)).toNat ++ packBytes deltas)) fun b =>
         { b with refs := b.refs.setMany (0 : Word) keys, sites := b.sites ||| (1#16 <<< siteOf f) }) ∧
   (∀ f s c b, Issues (.tbr f) s c → runs c (.tbr f) b → b.state ≤ 1 →
     let decision (l : Nat) : Nat := if f.o.getLsbD 0 then (c.w.rd f.a l).toNat % 16 else if c.w.rd f.a l = 0 then 0 else 1
     let d := if f.o.getLsbD 0 then 4 else 1
     records c (.tbr f) b (recordBytes 1 (siteOf f) 0 (f.o.getLsbD 0)
       (bytesOfNat (c.width / 8) (c.recorded (.tbr f)).toNat ++ bytesOfNat (c.width * d / 8)
         ((lanesOf (c.recorded (.tbr f))).map fun l => decision l * 2 ^ (l * d)).sum)) id) ∧
   (∀ f s c b, Issues (.tmark f) s c → runs c (.tmark f) b →
     (b.state ≤ 1 → records c (.tmark f) b
       (recordBytes 2 (siteOf f) 0 false (bytesOfNat 4 (c.w.rd f.a 0).toNat)) id) ∧
     (b.state = 3 → ∀ r s', c.oxbow.peek c.s b = .ok (some r, s') → r.type = 2 → r.site = siteOf f →
       natOfBytes (r.body.take 4) = (c.w.rd f.a 0).toNat → consumes c (.tmark f) s' b c.w r.len)) ∧
   (∀ f s c b bs s₀ off s₁ b₂ s₂ b' s', Issues (.trev f) s c → runs c (.trev f) b → b.state = 2 →
     c.oxbow.read c.s b.block 64 = .ok (bs, s₀) →
     let found := Bound.ofBits b.block (natOfBytes bs) b.privileged
     c.oxbow.end_ s₀ found.cur = .ok (off, s₁) →
     c.oxbow.loadRefs s₁ { found with state := 3, off := off } = .ok (b₂, s₂) →
       c.oxbow.cross chainFuel [] s₂ b₂ = .ok (some b', s') → taped c (.trev f) s' c.w b') ∧
   (∀ f s c b r s', Issues (.tget f) s c → runs c (.tget f) b → b.state = 3 →
     c.oxbow.peek c.s b = .ok (some r, s') → r.type = 0 → r.site = siteOf f → r.words = f.o.toNat →
     let n := f.o.toNat + 1
     let keys := (lanesOf r.mask).flatMap fun l => (List.range n).map fun j => refKey (siteOf f) l j
     let ref (k : Nat) : Word := Sparse.get (0 : Word) b.refs k
     let lanes := lanesOf (c.execs (.tget f))
     ∃ w', c.InFlight c.w (destKeys f.d n lanes) (.values (lanes.flatMap fun l => (List.range n).map fun j =>
         (keyOf (plusReg f.d j) l, if r.mask.getLsbD l then ref (refKey (siteOf f) l j) else 0))) c.s.order w' ∧
       consumes c (.tget f) s' { b with refs := b.refs.setMany (0 : Word) ((keys.zip r.deltas).map fun p =>
         (p.1, ref p.1 ^^^ p.2)) } w' r.len) ∧
   ∀ f s c b r s', Issues (.tbrp f) s c → runs c (.tbrp f) b → b.state = 3 →
     c.oxbow.peek c.s b = .ok (some r, s') → r.type = 1 → r.site = siteOf f → r.multi = f.o.getLsbD 0 →
     r.mask = c.recorded (.tbrp f) →
     let d := if f.o.getLsbD 0 then 4 else 1
     ∃ w', c.Writes c.w (.tbrp f) f.d 1 (fun l =>
         if c.helper l then 0 else natOfBytes (r.body.drop (c.width / 8)) / 2 ^ (l * d) % 2 ^ d) w' ∧
       consumes c (.tbrp f) s' b w' r.len) ∧
  ((∀ type site words multi body, type < 16 → site < 16 → words < 4 → body.length ≤ 65524 →
     let r := recordBytes type site words multi body
     r.length % 4 = 0 ∧ (r.take 4) = r.drop (r.length - 4) ∧ natOfBytes (r.take 4) % 2 ^ 16 = r.length ∧
       entryBits (natOfBytes (r.take 4)) 16 4 = type ∧ entryBits (natOfBytes (r.take 4)) 20 4 = site ∧
       (r.drop 4).take body.length = body) ∧
   (∀ bytes rest, unpackBytes (bytes.length + 1) bytes.length (packBytes bytes ++ rest) = some (bytes, rest)) ∧
   (∀ f s c, Issues (.tstat f) s c → c.w.tape = none → ∃ t x, exec (.tstat f) s = .next t ∧
     c.Result (.tstat f) f.d 1 (fun _ => x) t ∧
     (f.sel.toNat % 8 = 0 → x = 0xFFFFFFFF) ∧ (f.sel.toNat % 8 = 7 → x = 0)) ∧
   ∀ f s c b, Issues (.tstat f) s c → c.w.tape = some b → (f.sel.toNat % 8 ≠ 7 ∨ b.state ≠ 3) →
     ∃ t x, exec (.tstat f) s = .next t ∧
     c.Result (.tstat f) f.d 1 (fun _ => x) t ∧
     let item := f.sel.toNat % 8
     (item = 0 → x = b.state) ∧ (item = 1 → x = b.seq.toNat) ∧ (item = 2 → x = b.dropped.toNat) ∧
       (item = 3 → x = b.off) ∧ (item = 4 → x = b.cur % 2 ^ 32) ∧ (item = 5 → x = b.cur / 2 ^ 32) ∧
       (item = 6 → x = b.sites.toNat) ∧ (item = 7 → x = 0))

/-! ### System instructions -/

/-- R381 to R383, R385: `sread` writes the value of its selector; a low word latches the high word of the same read, a
high word takes the latch; `swrite` writes the handler address through its latch, the handler mask, the ageing bound and
the deadline within their bounds. R386 to R390: `evmark` writes records and advances; `sleep` waits at the next
instruction for its cycles; `energy` sets the work-group's rate; `perfsel` selects an event and clears the counter, or
takes cause reserved past event 10; `perfrd` reads a counter; `caprd` writes a status at once, for helper lanes alone too,
or, when the slices have ownership entries for the lines (R55), holds its split on a job that claims its destination. -/
def Obligations.SystemState : Prop :=
  ((∀ f s c, Issues (.sread f) s c → c.execs (.sread f) ≠ 0 →
     (∀ v, c.wide64 f.sel.toNat = some v → ∃ t, exec (.sread f) s = .next t ∧
       c.ResultOn { c.w with latches := c.w.latches.put f.sel.toNat (some (BitVec.ofNat 32 (v / 2 ^ 32))) }
         (.sread f) f.d 1 (fun _ => v) t) ∧
     (∀ v x, c.wide64 f.sel.toNat = none → c.wide64 (f.sel.toNat - 1) = some v →
       c.w.latches.look (f.sel.toNat - 1) = some x → ∃ t, exec (.sread f) s = .next t ∧
       c.ResultOn { c.w with latches := c.w.latches.del (f.sel.toNat - 1) } (.sread f) f.d 1 (fun _ => x.toNat) t) ∧
     (∀ v, c.wide64 f.sel.toNat = none → c.wide64 (f.sel.toNat - 1) = some v →
       c.w.latches.look (f.sel.toNat - 1) = none → ∃ t, exec (.sread f) s = .next t ∧
       c.Result (.sread f) f.d 1 (fun _ => v / 2 ^ 32) t) ∧
     (c.wide64 f.sel.toNat = none → c.wide64 (f.sel.toNat - 1) = none → ∃ t, exec (.sread f) s = .next t ∧
       c.Result (.sread f) f.d 1 (c.selector f.sel.toNat) t)) ∧
   (∀ f s c, Issues (.sread f) s c → c.execs (.sread f) = 0 → exec (.sread f) s = .next (c.after (.sread f) c.w)) ∧
   (∀ f s c, Issues (.swrite f) s c → c.execs (.swrite f) = 0 → exec (.swrite f) s = .next (c.after (.swrite f) c.w)) ∧
   ∀ f s c l, Issues (.swrite f) s c → lowest (c.execs (.swrite f)) = some l →
     let v := c.w.rd f.a l
     let put (w : Warp) : Prop := exec (.swrite f) s = .next (c.after (.swrite f) w)
     let set (k : Context → Context) : Prop :=
       exec (.swrite f) s = .next (({ c with s := c.s.modCtx c.g.ctx k } : Ctx).after (.swrite f) c.w)
     (f.sel.toNat = 0x300 → put { c.w with hndPending := some v }) ∧
     (f.sel.toNat = 0x301 → ∀ lo, c.w.hndPending = some lo →
       put { c.w with hndLo := lo, hndHi := v, hndPending := none, hndLoSet := true, hndHiSet := true }) ∧
     (f.sel.toNat = 0x301 → c.w.hndPending = none → put { c.w with hndHi := v, hndHiSet := true }) ∧
     (f.sel.toNat = 0x302 → put { c.w with hmask := v &&& 0x003BFFFF }) ∧
     (f.sel.toNat = 0x380 → set fun k => { k with ageing := max 256 (min v.toNat 65536) }) ∧
     (f.sel.toNat = 0x381 → set fun k => { k with deadline := if v = 0 then 2000 else min v.toNat 65535 })) ∧
  ((∀ f s c, Issues (.evmark f) s c → ∃ t, exec (.evmark f) s = .next t ∧ Recorded (c.after (.evmark f) c.w) t) ∧
   (∀ f s c, Issues (.sleep f) s c →
     let n := min (c.w.rd f.a ((lowest (c.execs (.sleep f))).getD 0)).toNat 16777215
     (n = 0 → exec (.sleep f) s = .next (c.after (.sleep f) c.w)) ∧
     (n ≠ 0 → exec (.sleep f) s = .next (c.s.setWarp c.uid c.wi (c.w.modSplit c.sp.id fun sp =>
       { sp.next 8 c.now with wait := some (.sleep (c.now + n)) })))) ∧
   (∀ f s c, Issues (.energy f) s c → ∃ t g, exec (.energy f) s = .next t ∧ t.wgs.look c.uid = some g ∧
     g = { c.g with warps := g.warps, energy := if c.execs (.energy f) = 0 then c.g.energy else f.sel.toNat % 8 } ∧
     t = { c.after (.energy f) c.w with wgs := t.wgs }) ∧
   (∀ f s c, Issues (.perfsel f) s c → c.execs (.perfsel f) = 0 →
     exec (.perfsel f) s = .next (c.after (.perfsel f) c.w)) ∧
   (∀ f s c, Issues (.perfsel f) s c → ∀ l, lowest (c.execs (.perfsel f)) = some l →
     ((c.w.rd f.a l).toNat ≤ 10 → ∃ t g, exec (.perfsel f) s = .next t ∧ t.wgs.look c.uid = some g ∧
       g.counter (f.sel.toNat % 8) = ⟨(c.w.rd f.a l).toNat, 0, c.now⟩ ∧
       t = { c.after (.perfsel f) c.w with wgs := t.wgs }) ∧
     (10 < (c.w.rd f.a l).toNat → exec (.perfsel f) s = .next (c.trapped
       (c.trapOf 2 1 (c.execs (.perfsel f)) (some c.sp.pc))))) ∧
   (∀ f s c, Issues (.perfrd f) s c → ∃ t, exec (.perfrd f) s = .next t ∧
     c.Result (.perfrd f) f.d 2 (fun _ => c.counterValue (c.g.counter (f.sel.toNat % 8))) t) ∧
   ∀ f s c, Issues (.caprd f) s c →
     let off := (c.w.rd f.b 0).toNat
     let len := (c.w.rd f.c 0).toNat
     let va := c.w.rd64 f.a 0
     let status := caprdStatus (s.frozen && s.capsule.isNone) off len va
     (c.execs (.caprd f) = 0 → exec (.caprd f) s = .next (c.afterRegion (.caprd f) c.w)) ∧
     (c.execs (.caprd f) ≠ 0 → status ≠ 0 ∨ c.execs (.caprd f) &&& ~~~c.w.helpers = 0 →
       ∃ w', exec (.caprd f) s = .next (c.afterRegion (.caprd f) w') ∧
         c.Writes c.w (.caprd f) f.d 1 (fun _ => status) w') ∧
     ∀ pages s', c.execs (.caprd f) &&& ~~~c.w.helpers ≠ 0 → status = 0 → va + len ≤ 2 ^ 57 → c.quiet = true →
       c.s.claimPages c.g.core c.g.ctx c.privileged va len = (.ok pages, s') → (∀ m ∈ pages, inReserve m.pa = false) →
       c.s.ownersFull (pages.map fun m => lineClaim m va len) = none →
       exec (.caprd f) s = .next ((c.addJob s' (.caprd off len va pages f.d (c.execs (.caprd f)))
         (pages.map fun m => lineClaim m va len) none).2.setWarp c.uid c.wi
           (c.w.modSplit c.sp.id fun sp => { sp with wait := some (.job s'.nextUid) })))

/-- R203, R265, R412: `launch` in a quiet warp of a module that is not frozen enters a launch for each executing
non-helper lane in turn, or one for the split when D and A are scalar, writes each status and raises each lane's launch
count, and closes the region. -/
def Obligations.DeviceLaunches : Prop :=
  ∀ f s c, Issues (.launch f) s c →
    let all := lanesOf (c.execs (.launch f) &&& ~~~c.w.helpers)
    let lanes := if isScalar f.d && isScalar f.a then all.take 1 else all
    (lanes = [] → exec (.launch f) s = .next (c.afterRegion (.launch f) c.w)) ∧
    (lanes ≠ [] → c.quiet = true → s.frozen = false →
      s.claimed c.uid c.wi s.order (c.sp.arrived.map (·.1)) (c.launchLocs f lanes) = false →
      ∃ t w, t = lanes.foldl (c.launchOne f) s ∧ t.warp? c.uid c.wi = some w ∧
        exec (.launch f) s = .next (({ c with s := t } : Ctx).afterRegion (.launch f) w)) ∧
    ∀ l ∈ lanes, let count := Sparse.get (0 : Word) c.w.launches l
      let parent := ((s.launches.look c.g.launch).map (·.id)).getD 0
      let r := s.enqueue c.g.ctx (f.sel.toNat % 64) (c.w.rd64 f.a l) c.privileged
        (childId parent (globalWarp c.g c.wi) l count.toNat) none
      ∃ w', (c.launchOne f s l).warp? c.uid c.wi = some w' ∧ (c.launchOne f s l).launches = r.2.launches ∧
        (c.launchOne f s l).contexts = r.2.contexts ∧ w'.rd f.d l = BitVec.ofNat 32 r.1 ∧
        Sparse.get (0 : Word) w'.launches l = count + 1

/-! ### Steps of the device -/

/-- R33, R140 to R142, R154, R315, R316, R318, R358, R360, R390: a job in flight that nothing holds off does what is left
of its work. A copy reads and writes run by run: a `cpa` lane writes its valid bytes and zeros up to 32, a piece of a copy
the bytes of its source; then the job ends, parks or fails as its last run says. A job whose work is done is gone, and its
tag counts one less; a capsule copy writes its bytes, sets D to 0 and its split goes on in a new region. -/
def Obligations.EngineJobs : Prop :=
  let ready (s : State) (n : Nat) (j : Job) (g : WorkGroup) : Prop :=
    s.jobs.look n = some j ∧ s.wgs.look j.wg = some g ∧ s.jobReady j = true
  (∀ s n j g, ready s n j g →
    let r := s.copyRuns g n j.runs
    let t := r.2.stopJob n r.1
    (∀ lanes next tag, j.kind = .cpa lanes next tag → exec (.cpaJobComplete n) s = .next t ∧
      (r.1 = .ok → (∀ x ∈ lanes, x.object = none) → t.jobs.look n = none ∧ (∀ a, t.byteAt a = r.2.byteAt a) ∧
        ∀ w, r.2.warp? j.wg j.warp = some w → t.warp? j.wg j.warp =
          some { w with tags := w.tags.set 0 tag (Sparse.get 0 w.tags tag - 1) })) ∧
    ∀ src dst pages len next, j.kind = .copy src dst pages len next → exec (.kickRequestComplete n) s = .next t ∧
      (r.1 = .ok → j.object = none → t.jobs.look n = none ∧ (∀ a, t.byteAt a = r.2.byteAt a) ∧ t.wgs = r.2.wgs)) ∧
  (∀ s n j g (lanes : List CopyLane) next tag x, ready s n j g → j.kind = .cpa lanes next tag → lanes.drop next = [x] →
    j.buf = [] → (∀ k < 32, s.badAddr (.scratch j.wg (x.dest + k)) = false) →
    let r := s.copyRuns g n j.runs
    (x.valid = 0 → r.1 = .ok ∧ r.2.mem = s.mem ∧ ∀ k < 32, r.2.byteAt (.scratch j.wg (x.dest + k)) = 0) ∧
    ∀ bs s', x.valid ≠ 0 → x.valid ≤ 32 → s.readSource g n (.global x.source) 0 x.valid = (.ok bs, s') →
      r.1 = .ok ∧ r.2.mem = s'.mem ∧ ∀ k < 32, r.2.byteAt (.scratch j.wg (x.dest + k)) = bs.getD k 0) ∧
  (∀ s n j g from_ to_ pages len next, ready s n j g → j.kind = .copy (.scratch from_) (.scratch to_) pages len next →
    j.buf = [] → next < len → len - next ≤ 128 - (next + from_) % 128 →
    (∀ k < len - next, s.badAddr (.scratch j.wg (from_ + next + k)) = false ∧
      s.badAddr (.scratch j.wg (to_ + next + k)) = false) →
    let r := s.copyRuns g n j.runs
    r.1 = .ok ∧ r.2.mem = s.mem ∧ ∀ k < len - next,
      r.2.byteAt (.scratch j.wg (to_ + next + k)) = s.byteAt (.scratch j.wg (from_ + next + k))) ∧
  (∀ s n j g x next, ready s n j g → j.kind = .trdec x next →
    let r := s.decodeRun j.wg g n j.privileged ⟨x.desc, 0⟩ x ((List.range x.count).drop next) none
    let bs := streamBytes j.wg x.off (Rec.w x.record) next r.2.1
    r.2.2.merges bs = none →
    ∃ t, exec (.trellisJobComplete n) s = .next t ∧
      (r.1 = .ok → t = { r.2.2.writeBytes bs with jobs := t.jobs } ∧ t.jobs.look n = none)) ∧
  (∀ s n j g x next rest, ready s n j g → j.kind = .trenc x next → (s.die (g.core / 64)).viterbi = n :: rest →
    let r := s.encodeRun j.wg g n ⟨x.desc, 0⟩ x ((List.range x.count).drop next)
    ∃ t, exec (.trellisJobComplete n) s = .next t ∧
      (r.1 = .ok → t.mem = r.2.2.mem ∧ t.wgs = r.2.2.wgs ∧ t.jobs.look n = none ∧
        n ∉ (t.die (g.core / 64)).viterbi)) ∧
  ∀ s n j g off len va pages d lanes s' w sp, ready s n j g → j.kind = .caprd off len va pages d lanes →
    g.warps[j.warp]? = some w → w.split? j.split = some sp → (∀ q, (s.die q).monitors = []) →
    (∀ p ∈ pagesOf va len, pages.any (fun m => m.page == p / 65536) = true) →
    s.engineWrite 0 (plainBytes ((End.global va).addrs j.wg pages 0 len)
      (s.capsuleBytes (s.ctx g.ctx).tenant.toNat off len)) = .ok s' →
    ∃ t w', exec (.caprdJobComplete n) s = .next t ∧ t.mem = s'.mem ∧ t.jobs.look n = none ∧
      t.warp? j.wg j.warp = some w' ∧ (∀ l ∈ unitsOf d lanes, w'.rd d l = 0) ∧ w'.regions = w.regions + 1 ∧
      ∃ sq ∈ w'.splits, sq.lanes = sp.lanes ∧ sq.pc = (sp.pc + 8) % 2 ^ 57 ∧ sq.entry = sq.pc ∧ sq.wait = none

/-- R67, R213: the line that a sub-core is frozen on, which nothing holds back, arrives in its cache and the sub-core goes
on; an uncorrectable line is not installed. R17, R27: a walk for a split fills the TLBs, parks the split on an entry of the
queue, or takes the fault of a table in a firmware reserve (R56). R29, R30: firmware's second walk of an open entry replays
it, or forwards it once with its event; an entry past its limit fails; a resolved entry is closed. R31, R32: a fault that
waits for an entry walks again: it goes on where its page translates now, and else takes a free entry or one of its key;
the order of those that wait is the model's choice (log 142). -/
def Obligations.FaultEntries : Prop :=
  (∀ (s : State) core sub x, ((s.core core).sub sub).frozen = some x → s.holdsBack none [.line x.line] = false →
    let thawed := s.setCore core ((s.core core).setSub sub { ((s.core core).sub sub) with frozen := none })
    let bytes := s.mem.bytes (x.line * 128) 128
    let t := (thawed.touchLines 0 [.phys (x.line * 128)]).installCode core x.ctx x.line bytes
    (s.badAddr (.phys (x.line * 128)) = false → exec (.icacheFill core sub) s = .next t ∧
      ((t.core core).sub sub).frozen = none ∧ t.mem = s.mem ∧
      (∀ u i w, s.warp? u i = some w → ∃ w', t.warp? u i = some w' ∧ w' = { w with splits := w'.splits }) ∧
      (t.core core).icache.look (x.ctx * 2 ^ 52 + x.line) = some bytes) ∧
    (s.badAddr (.phys (x.line * 128)) = true → exec (.icacheFill core sub) s = .next (thawed.fetchEcc x))) ∧
  (∀ (s : State) u i id (va : BitVec 64) access c s', ctxOf { s with cur := some ⟨u, i, id, none⟩ } = some c →
    va.toNat < 2 ^ 57 → c.sp.wait = none →
    (∀ p, s.translate c.g.core c.g.ctx va.toNat access c.privileged = (.ok p, s') →
      exec (.tableWalk u i id va access) s = .next s') ∧
    ∀ m, s.translate c.g.core c.g.ctx va.toNat access c.privileged = (.error m, s') → c.w.txns = [] →
      let r := c.s.postFault ⟨c.g.core, c.w.sub, c.w.slot, accessEngine access⟩ c.g.ctx m access
      (m.type ≠ 5 → exec (.tableWalk u i id va access) s = .next (r.2.setWarp u i (c.w.modSplit id fun sp =>
        { sp with wait := some (.parked (c.g.core / 64) r.1 m access c.sp.lanes), arrived := none }))) ∧
      (m.type = 5 → exec (.tableWalk u i id va access) s =
        .next (c.trapped { c.trapOf 17 4 c.sp.lanes none with address := m.va }))) ∧
  ((∀ (s : State) d n f, (s.die d).faultQ.look n = some f → f.forwarded = false →
    (s.walkAgain d n f = true → exec (.faultEntryRecheck d n) s = .next (s.resolveEntry d n true)) ∧
    (s.walkAgain d n f = false → exec (.faultEntryRecheck d n) s = .next ((s.modDie d fun q =>
      { q with faultQ := q.faultQ.put n (some { f with forwarded := true }) }).event f.ctx 1
        (f.bits d + n * 2 ^ 256)))) ∧
   (∀ (s : State) d n f, (s.die d).faultQ.look n = some f → f.time + (s.ctx f.ctx).faultLimit * 1000000 ≤ s.time →
    exec (.faultResolutionLimit d n) s = .next (s.resolveEntry d n false)) ∧
   ∀ (s : State) d n replay, ((s.resolveEntry d n replay).die d).faultQ.look n = none) ∧
  (∀ (s : State) d p rest g w, s.parkedSplits d = p :: rest → p.entry = none → s.wgs.look p.wg = some g →
    s.warp? p.wg p.warp = some w →
    let priv := if p.access == .execute then (s.ctx g.ctx).privileged else s.privilegeAt g p.split.pc
    (∀ x s', s.translate g.core g.ctx p.miss.va p.access priv = (.ok x, s') →
      exec (.faultQueueWaitEnd d) s = .next (s'.replayParked p)) ∧
    ∀ m s', s.translate g.core g.ctx p.miss.va p.access priv = (.error m, s') → m.type ≠ 5 →
      s.entryFor d g.ctx m = true →
      let r := s.postFault ⟨g.core, w.sub, w.slot, accessEngine p.access⟩ g.ctx m p.access
      exec (.faultQueueWaitEnd d) s = .next (r.2.modWarp p.wg p.warp fun w => w.modSplit p.split.id fun sp =>
        { sp with wait := some (.parked d r.1 m p.access p.lanes) })) ∧
  (∀ (s : State) d n j m access rest g, s.parkedSplits d = [] → s.parkedJobs d = (n, j, none, m, access) :: rest →
    s.wgs.look j.wg = some g →
    (∀ x s', s.translate g.core g.ctx m.va access j.privileged = (.ok x, s') →
      exec (.faultQueueWaitEnd d) s = .next (s'.modJob n fun j => { j with parked := none })) ∧
    ∀ m' s', s.translate g.core g.ctx m.va access j.privileged = (.error m', s') → m'.type ≠ 5 →
      s.entryFor d g.ctx m' = true → exec (.faultQueueWaitEnd d) s = .next (s.parkJob n m' access)) ∧
  ∀ (s : State) d p g w, p ∈ s.parkedSplits d → p.entry = none → s.wgs.look p.wg = some g →
    s.warp? p.wg p.warp = some w → (freeEntry (s.die d).faultQ).isSome = true →
    ∃ t, exec (.faultQueueWaitEnd d) s = .next t ∧ ∃ q ∈ s.parkedSplits d, s.enterOne d q = some t

/-- R161, R162, R210, R211, R314, R321, R387, R396, R397: waits end and traps come without the thing waited for: a monitor's
timeout, counted on the clock of its entry's die, returns status timeout and the word; a sleep is over after its cycles; an
aged split counts; a trap is held behind those found before it, but before those of the same cycle with a higher kind; of the
held traps that the warp's mode lets through the first is delivered, once no atomic of its splits is in flight; the watchdog holds a trap of every live lane in every warp of its launch; the pending
warp that is ready longest enters the active set. R158, R160, R183: when no wait of a work-group, a gang or a warp can
be released, the warps that wait take the deadlock trap; every other warp stays as it is. -/
def Obligations.WaitsAndDeadlocks : Prop :=
  ((∀ (s : State) d n m g w sp, (s.die d).monitors.look n = some m → s.wgs.look m.wg = some g →
     g.warps[m.warp]? = some w → w.split? m.split = some sp →
     (if isScalar m.d then m.d.toNat + 2 ≤ 256 else m.d.toNat + 2 ≤ 224) → m.woken = none → m.until_ ≤ (s.die d).cycles →
     ∃ t w', exec (.monitorTimeout d n) s = .next t ∧ t.mem = s.mem ∧ (t.die d).monitors.look n = none ∧
       t.warp? m.wg m.warp = some w' ∧
       (∀ l ∈ unitsOf m.d m.lanes, w'.rdN m.d l 2 = s.mem.value m.word 4 + 2 ^ 32) ∧
       ∃ sq ∈ w'.splits, sq.lanes = sp.lanes ∧ sq.pc = (sp.pc + 8) % 2 ^ 57 ∧ sq.wait = none) ∧
   (∀ (s : State) u i id g w sp k, s.wgs.look u = some g → g.warps[i]? = some w → w.split? id = some sp →
     sp.wait = some (.sleep k) → k ≤ s.now g.core → exec (.sleepExpiry u i id) s =
       .next (s.setWarp u i (w.modSplit id fun sp => { sp with wait := none, readyAt := s.now g.core, aged := false }))) ∧
   (∀ (s : State) u i id g w sp, s.wgs.look u = some g → g.warps[i]? = some w → w.split? id = some sp →
     sp.wait = none → sp.aged = false → sp.readyAt + (s.ctx g.ctx).ageing ≤ s.now g.core → ∃ t g',
       exec (.ageingPromotion u i id) s = .next t ∧ t.wgs.look u = some g' ∧
       g'.warps[i]? = some (w.modSplit id fun sp => { sp with aged := true }) ∧
       ∀ k, (g'.counter k).value = (g.counter k).value + if (g.counter k).event = 9 ∧ (g.counters.look k).isSome = true
         then 1 else 0) ∧
   (∀ (w : Warp) cycle (x : Trap), ∃ before behind, w.held = before ++ behind ∧
     (w.hold cycle x).held = before ++ { x with cycle := cycle } :: behind ∧
     (∀ y ∈ before, y.cycle = cycle → y.kind ≤ x.kind) ∧ ∀ y ∈ behind.head?, y.cycle = cycle ∧ x.kind < y.kind) ∧
   (∀ (s : State) u i g w x, s.wgs.look u = some g → g.warps[i]? = some w →
     w.nextHeld (s.unfinished u i) = some x → w.txLanes = [] → ∃ t w', exec (.trapDelivery u i) s = .next t ∧
       t.warp? u i = some w' ∧ w'.trapSeq = w.trapSeq + 1 ∧ w'.held = w.held.erase x ∧ w'.regs = w.regs ∧
       w'.live = w.live) ∧
   (∀ (s : State) n l, s.launches.look n = some l → l.started.isSome = true → l.watched = false →
     (s.ctx l.ctx).watchdog ≠ 0 → (s.ctx l.ctx).watchdog * 1000000 ≤ s.running l → ∃ t, exec (.watchdog n) s = .next t ∧
       (t.launches.look n).map (·.watched) = some true ∧ t.mem = s.mem ∧
       ∀ u g i w, s.wgs.look u = some g → g.launch = n → g.warps[i]? = some w → w.ended = false →
         ∃ w', t.warp? u i = some w' ∧ w'.regs = w.regs ∧ ∃ x ∈ w'.held, x.kind = 21 ∧ x.lanes = w.live) ∧
   (∀ (s : State) core sub u i w, let ws := s.warpsOn core sub
     let active := ws.filter fun p => p.2.2.active
     s.pendingNext (s.now core) ws = some (u, i, w) →
     (active.length < 8 →
       exec (.warpSwap core sub) s = .next (s.modWarp u i fun w => { w with active := true })) ∧
     (8 ≤ active.length → leavers s active u i w ≠ [] → (s.wgs.look u).isSome = true →
       ∃ t, ∃ p ∈ leavers s active u i w, exec (.warpSwap core sub) s = .next t ∧
         Recorded ((s.modWarp p.1 p.2.1 fun w => { w with active := false }).modWarp
           u i fun w => { w with active := true }) t)) ∧
   ∀ (s : State) now ws p, s.pendingNext now ws = some p → p ∈ ws ∧ s.wants p.1 p.2.1 p.2.2 = true ∧
     ∀ q ∈ ws, s.wants q.1 q.2.1 q.2.2 = true →
       s.readySince p.1 p.2.1 now p.2.2 < s.readySince q.1 q.2.1 now q.2.2 ∨
         s.readySince p.1 p.2.1 now p.2.2 = s.readySince q.1 q.2.1 now q.2.2 ∧ p.2.2.slot ≤ q.2.2.slot) ∧
  (let faulted (w : Warp) (t : State) (u i : Nat) : Prop := ∃ w', t.warp? u i = some w' ∧ w'.trapSeq = w.trapSeq + 1 ∧
     w'.regs = w.regs ∧ w'.live = w.live ∧ (w'.handler.isSome || w'.fw.isSome) = true
   let takes (w : Warp) : Prop := w.ended = false ∧ w.splits.any Split.inBarOrBwait = true
   (∀ (s : State) u g, s.wgs.look u = some g → s.groupStuck u g = true → (∃ w ∈ g.warps, takes w) →
     (∀ k x, g.gang = some k → s.gangs.look k = some x → s.gangStuck x = false) →
     ∃ t, exec (.barrierDeadlock u) s = .next t ∧ ∀ i w, g.warps[i]? = some w →
       (takes w → w.txLanes = [] → s.unfinished u i = 0 → (∃ sp ∈ w.splits, sp.lanes &&& w.live ≠ 0) →
         faulted w t u i) ∧ (¬takes w → t.warp? u i = some w)) ∧
   (∀ (s : State) k x, s.gangs.look k = some x → s.gangStuck x = true →
     ∃ t, exec (.gangBarrierDeadlock k) s = .next t ∧ ∀ u ∈ x.members, ∀ g, s.wgs.look u = some g →
       ∀ i w, g.warps[i]? = some w → (w.waitsBarrier = true → w.txLanes = [] → s.unfinished u i = 0 →
           (∃ sp ∈ w.splits, sp.lanes &&& w.live ≠ 0) → faulted w t u i) ∧
         (w.waitsBarrier = false → t.warp? u i = some w)) ∧
   ∀ (s : State) u i g w, s.wgs.look u = some g → g.warps[i]? = some w → w.handler = none → w.fw = none → w.held = [] →
     w.splits ≠ [] → (∀ sp ∈ w.splits, sp.waitsRejoin = true) → w.rejoins (s.now g.core) = false → w.txLanes = [] →
     s.unfinished u i = 0 → ∃ t w', exec (.rejoinDeadlock u i) s = .next t ∧ t.warp? u i = some w' ∧
       w'.trapSeq = w.trapSeq + 1 ∧
       w'.regs = w.regs)

/-! ### Placement and retirement -/

/-- R176, R179, R192, R200, R204, R206 to R209, R216, R220: a launcher places the head it chose: a new work-group of
the launch's next id on the core it found, or every member of a gang on its rectangle; a gang no rectangle can hold is
refused; a lost binding is dropped; a head passed over for 16 windows ages; a line that an earlier claim or a commit holds
is waited for (R141). A new warp has one split of every lane it
has at its entry, the arguments in s0 and s1, and zeros elsewhere. R194, R195, R202, R225: a work-group that has ended
everything, with no tape, retires: it is gone, or its successor starts in its place with its scratchpad and tiles; a
launch whose work-groups have all retired writes its record and is gone. -/
def Obligations.PlacementAndRetirement : Prop :=
  ((∀ (s : State) d, s.unsettled ≠ [] → ∃ t, exec (.workGroupPlace d) s = .next t ∧ t.wgs = s.wgs ∧
     ∀ p ∈ s.unsettled, ((t.ctx p.1).queues.look p.2).all fun q => !q.bound) ∧
   (∀ (s : State) d h x l core, s.unsettled = [] → s.chosen d = some h → h.desc.members = 1 →
     s.singleCore h d = some (l, core) → s.launches.look h.launch = some x →
     s.holdsBack (s.awaiting (.launch h.launch)) (s.traceLocs h) = false →
     ∃ t g, exec (.workGroupPlace d) s = .next t ∧ t.wgs.look s.nextUid = some g ∧ g.ctx = h.ctx ∧
       g.launch = h.launch ∧ g.id = h.id ∧ g.desc = h.desc ∧ g.gang = none ∧ g.lcore = core ∧
       g.core = (if (s.ctx h.ctx).deterministic then (s.ctx h.ctx).physical core else core) ∧
       g.warps.length = h.desc.warps ∧ (t.launches.look h.launch).map (·.dispatched) = some (x.dispatched + 1) ∧
       (x.mode ≠ 1 → ∀ u, u ≠ s.nextUid → t.wgs.look u = s.wgs.look u)) ∧
   (∀ (s : State) d h e x0 y0, s.restoreOn d = none → s.chosen d = some h → h.desc.members ≠ 1 →
     s.noRectangle h = false → s.gangSpot h = some (e, x0, y0) →
     let cores := (s.ctx h.ctx).rectangle e x0 y0 h.desc
     (s.ctx h.ctx).physicalDie (cores.headD 0) = d →
     s.holdsBack (s.awaiting (.launch h.launch)) (s.traceLocs h) = false → ∃ t x, exec (.gangPlace d) s = .next t ∧
       t.gangs.look s.nextUid = some x ∧ x.members.length = h.desc.members ∧
       ∀ m u, x.members[m]? = some u → ∃ g, t.wgs.look u = some g ∧ g.launch = h.launch ∧ g.id = h.id + m ∧
         g.gang = some s.nextUid ∧ g.member = m ∧ some g.lcore = cores[m]?) ∧
   (∀ (s : State) d h l, s.restoreOn d = none → s.chosen d = some h → h.desc.members ≠ 1 → s.noRectangle h = true →
     s.launches.look h.launch = some l → ∃ t, exec (.gangPlace d) s = .next t ∧ t.launches.look h.launch = none) ∧
   (∀ (s : State) d t, s.restoreOn d = some t → exec (.gangPlace d) s = .next t) ∧
   (∀ (s : State) d c n q h, (s.ctx c).queues.look n = some q → s.headOf c n q = some h →
     16 ≤ Sparse.get 0 q.passed d → d ∉ q.aged → ∃ t q', exec (.headAged d c n) s = .next t ∧
       (t.ctx c).queues.look n = some q' ∧ q' = { q with aged := q.aged ++ [d], reserved := q'.reserved }) ∧
   (∀ (s : State) ctx launch id d gang member core lcore base resident i, i < d.warps → ∃ slot active,
     (newWorkGroup s ctx launch id d gang member core lcore base resident).warps[i]? =
       some (newWarp d i ((i + base) % 4) slot (s.now core) s.order active)) ∧
   ∀ d i sub slot now order active, d.width ≤ 128 →
     let w := newWarp d i sub slot now order active
     let there (l : Nat) : Prop := l < d.width ∧ (i * d.width + l) / 4 * 4 < d.threads
     (∀ l, (w.live.getLsbD l = true ↔ there l) ∧
       (w.helpers.getLsbD l = true ↔ there l ∧ d.threads ≤ i * d.width + l)) ∧
     (∃ sp, w.splits = [sp] ∧ sp.lanes = w.live ∧ sp.pc = d.entry ∧ sp.entry = d.entry ∧ sp.wait = none) ∧
     Sparse.get (0 : Word) w.regs 32768 = d.args.truncate 32 ∧
     Sparse.get (0 : Word) w.regs 32769 = d.args.extractLsb' 32 32 ∧
     (∀ k, k ≠ 32768 → k ≠ 32769 → Sparse.get (0 : Word) w.regs k = 0) ∧ (∀ k, w.isEmpty k = false) ∧
     (∀ m, w.mask m = 0) ∧ w.slots = presetSlots ∧ w.key = BitVec.zeroExtend 128 d.seed) ∧
  ((∀ (s : State) u g l, s.wgs.look u = some g → s.spent u g = true → (∀ w ∈ g.warps, w.tape = none) → g.succ = 0 →
     g.gang = none → s.launches.look g.launch = some l → ∃ t, exec (.workGroupRetire u) s = .next t ∧
       t.wgs.look u = none ∧ t.mem = s.mem ∧ (t.launches.look g.launch).map (·.retired) = some (l.retired + 1)) ∧
   (∀ (s : State) u g d s', s.wgs.look u = some g → s.spent u g = true → (∀ w ∈ g.warps, w.tape = none) → g.succ ≠ 0 →
     s.holdsBack (s.awaiting (.group u)) (s.succLocs g) = false →
     (s.arrives (.group u)).successor g = (some d, s') →
     (∀ k < 4, ((s'.others u g.core).map fun x => slotsOn x.warps.length x.base k).sum + slotsOn d.warps g.base k ≤ 32) →
     ∃ t g', exec (.workGroupRetire u) s = .next t ∧ t.wgs.look u = some g' ∧ g'.desc = d ∧ g'.scratch = g.scratch ∧
       g'.tiles = g.tiles ∧ g'.tileFlags = g.tileFlags ∧ g'.banks = [] ∧ g'.windows = [] ∧ g'.conv = [] ∧
       g'.warps.length = d.warps ∧ t.mem = s'.mem) ∧
   ∀ (s : State) n l, s.launches.look n = some l → l.retired = l.desc.grid →
     s.holdsBack (s.awaiting (.record n)) (s.completionLocs n l) = false → ∃ t, exec (.launchComplete n) s = .next t ∧
       t.launches.look n = none ∧ (t.page l.ctx).lrWrite = (s.page l.ctx).lrWrite + 1 ∧
       (t.page l.ctx).lrReserved = (s.page l.ctx).lrReserved - 1)

/-! ### Pre-emption -/

/-- R216, R407 to R411: a gang of a persistent launch of a context that is being pre-empted is saved whole, with its
registers, scratchpad and tiles; the pre-emption completes when nothing of the context is resident and turns into a
forced reset at its deadline; a time slice saves one logical core's work-groups and restores the next one's; an
altered image is not restored, and its context takes a forced reset with cause 2 at once; a forced reset leaves nothing of its context but the context itself, and every other work-group as it was. -/
def Obligations.Preemption : Prop :=
  let untaped (s : State) (us : List Nat) : Prop := ∀ u ∈ us, ∀ g, s.wgs.look u = some g → ∀ w ∈ g.warps, w.tape = none
  (∀ (s : State) n u us g p, s.gangMembers n = u :: us → s.wgs.look u = some g → (s.ctx g.ctx).preempt = some p →
    p.done = false → g.desc.persist = true → g.resident = true → s.allSavable (u :: us) = true → untaped s (u :: us) →
    ∃ t, exec (.gangSave n) s = .next t ∧ ∀ v ∈ u :: us, ∀ x, s.wgs.look v = some x → ∃ y, t.wgs.look v = some y ∧
      y.resident = false ∧ y.scratch = x.show_.scratch ∧ y.tiles = x.tiles ∧ y.desc = x.desc ∧
      y.warps.map (·.regs) = x.warps.map (·.regs) ∧ y.warps.map (·.masks) = x.warps.map (·.masks)) ∧
  (∀ (s : State) c p, (s.ctx c).preempt = some p → p.done = false → s.residentOf c = [] →
    ∃ t, exec (.preemptionComplete c) s = .next t ∧
      (t.ctx c).preempt = some { p with done := true, doneAt := s.time } ∧ t.wgs = s.wgs) ∧
  (∀ (s : State) c p, (s.ctx c).preempt = some p → p.done = false → p.since + p.deadline * 1000 ≤ s.time →
    exec (.preemptionDeadline c) s = .next (s.forcedReset c 0)) ∧
  (∀ (s : State) c core next out into, (s.ctx c).deterministic = true → (s.ctx c).preempt = none →
    Sparse.get 0 (s.ctx c).sliceAt core ≤ s.time → s.slice c core = some (next, out, into) →
    ((∃ u ∈ out, ∃ g, s.wgs.look u = some g ∧ g.saving = false) →
      exec (.timeSlice c core) s = .next (s.stopAll out)) ∧
    ((∀ u ∈ out, ∀ g, s.wgs.look u = some g → g.saving = true) → s.allSavable out = true → untaped s out →
      ∃ t, exec (.timeSlice c core) s = .next t ∧ (t.ctx c).slices.look core = some next ∧
        (t.ctx c).sliceAt.look core = some (s.time + 500000) ∧
        (∀ u ∈ into, ∀ g, s.wgs.look u = some g → g.image = .intact →
          (t.wgs.look u).map (·.resident) = some true) ∧
        ∀ u ∈ out, u ∉ into → ∀ g, s.wgs.look u = some g → (t.wgs.look u).map (·.resident) = some false)) ∧
  (∀ (s : State) u g core, s.wgs.look u = some g →
    (g.resident = false → s.alterImage u = .next (s.setWg u { g with image := .altered })) ∧
    (g.image ≠ .intact → s.restoreOne u core = s.setWg u { g with image := .refused }) ∧
    (g.image = .refused → g.ctx ∈ s.refusedContexts)) ∧
  (∀ (s : State) c, s.refusedContexts = [c] → s.failRestores = s.forcedReset c 2) ∧
  ∀ (s : State) c k cause, s.contexts.look c = some k → let t := s.forcedReset c cause
    (∀ p ∈ t.wgs, p.2.ctx ≠ c) ∧ (∀ p ∈ t.launches, p.2.ctx ≠ c) ∧
    (∀ d, ∀ f ∈ (t.die d).faultQ, f.2.ctx ≠ c) ∧
    ((∀ p ∈ s.jobs, p.2.buf = []) → ∀ u g, s.wgs.look u = some g → g.ctx ≠ c → t.wgs.look u = some g) ∧
    t.contexts.look c = some { k with queues := (t.ctx c).queues, staged := [], preempt := none } ∧
    ∀ n q, (t.ctx c).queues.look n = some q → q.launches = []

/-! ### Commands -/

/-- R461, R462, R468 to R470: a page's command processor counts an entry consumed and answers it: with a status when the
module is not ready, the page may not name the context, a reserved bit is set, the context does not exist or the opcode
is none. R141: a load or a launch whose lines an earlier claim or a commit holds notes its arrival there and waits. A
completion is written at its place in the ring and counted, or held while the ring is full. -/
def Obligations.CommandChecks : Prop :=
  let table : List ((Nat → Instr) × Nat × List (Nat × Nat)) :=
    [(.destroyContext, 0x02, []), (.unload, 0x04, [(128, 32)]),
      (.preEmpt, 0x06, []), (.resume, 0x07, [(128, 64)]), (.translationInvalidate, 0x08, [(128, 64), (192, 32)]),
      (.instructionCacheInvalidate, 0x09, []), (.forcedReset, 0x0A, []), (.quote, 0x0B, [(128, 256), (384, 64)]),
      (.faultReplay, 0x0D, [(128, 17)]), (.faultFail, 0x0E, [(128, 17)]), (.trapResume, 0x0F, [(128, 18)]),
      (.trapReset, 0x10, [(128, 18)])]
  let answers (e : Instr) (s : State) (c : Cmd) (status : Nat) : Prop :=
    exec e s = .next ((s.consume c.page).complete c 0 status 0 0 0xFFFF)
  (∀ r ∈ table ++ [(.createContext, 0x01, [(128, 64)]), (.lostLineClear, 0x11, [(128, 56)])], ∀ s page c,
    s.nextCommand page = some c → c.opcode = r.2.1 →
    (s.ready = false → answers (r.1 page) s c 1) ∧
    (s.ready = true → s.mayName c = false → answers (r.1 page) s c 2) ∧
    (s.ready = true → s.mayName c = true → c.reserved r.2.2 = true → answers (r.1 page) s c 4)) ∧
  (∀ r ∈ table, ∀ s page c, s.nextCommand page = some c → c.opcode = r.2.1 → s.ready = true → s.mayName c = true →
    c.reserved r.2.2 = false → s.contexts.look c.ctx = none → answers (r.1 page) s c 5) ∧
  (∀ r ∈ ([(.load, 0x03, [(128, 64), (192, 64)], fun s c => s.loadLocs c.ctx (c.operand 128 64) (c.operand 192 64)),
      (.hostLaunch, 0x05, [(128, 64), (192, 6)], fun s c =>
        s.cpLocs c.ctx (c.operand 128 64) 128 ++ s.cpLocs c.ctx (s.recordAddr c.ctx) 128)] :
      List ((Nat → Instr) × Nat × List (Nat × Nat) × (State → Cmd → List Loc))),
    ∀ s page c, s.nextCommand page = some c → c.opcode = r.2.1 →
    let told (status : Nat) : Prop := exec (r.1 page) s =
      .next (((s.arrives (.page page)).consume c.page).complete c 0 status 0 0 0xFFFF)
    (s.ready = false → told 1) ∧ (s.ready = true → s.mayName c = false → told 2) ∧
    (s.ready = true → s.mayName c = true → s.holdsBack (s.awaiting (.page page)) (r.2.2.2 s c) = false →
      (c.reserved r.2.2.1 = true → told 4) ∧
      (c.reserved r.2.2.1 = false → s.contexts.look c.ctx = none → told 5)) ∧
    (s.ready = true → s.mayName c = true → s.awaiting (.page page) = none → s.holdsBack none (r.2.2.2 s c) = true →
      exec (r.1 page) s = .next
        { s.stamp.2 with waiting := s.waiting ++ [(.page page, s.stamp.1, r.2.2.2 s c)] })) ∧
  (∀ s page c, s.nextCommand page = some c → (c.opcode = 0 ∨ 0x11 < c.opcode) →
    answers (.badOpcode page) s c (if s.ready then 3 else 1)) ∧
  (∀ (s : State) page c, s.nextCommand page = some c → c.page = page ∧
    (s.consume page).page page = { s.page page with cmdHead := (s.page page).cmdHead + 1 } ∧
    c.bits = s.mem.value (ringAddr (s.page page).cmdBase 64 (s.page page).cmdHead) 64) ∧
  ∀ (s : State) (c : Cmd) cls status value offset segment, let p := s.page c.page
    let t := s.complete c cls status value offset segment
    let e := completionEntry c.ctx c.tag c.opcode cls status value offset segment
    (p.hasRoom = true → p.held = [] → t.mem.value (ringAddr p.cplBase 128 p.cplTail) 128 = e.toNat ∧
      t.page c.page = { p with cplTail := p.cplTail + 1 }) ∧
    (p.hasRoom = false ∨ p.held ≠ [] → t.mem = s.mem ∧ t.page c.page = { p with held := p.held ++ [(e, c.irq)] })

/-- R25, R26, R40, R52, R68, R399, R407, R410, R411, R446, R449, R450, R453, R471: the effects of the commands that pass
their checks, each before its completion. -/
def Obligations.Commands : Prop :=
  let on (s : State) (page opcode : Nat) (operands : List (Nat × Nat)) (c : Cmd) (k : Context) : Prop :=
    Accepted s page opcode operands c ∧ s.contexts.look c.ctx = some k
  let answers (e : Instr) (s : State) (c : Cmd) (cls value : Nat) (p : State → Prop) : Prop :=
    ∃ t, exec e s = .next (t.complete c cls 0 value 0 0xFFFF) ∧ p t
  (∀ s page c block table bitmap keys qs, Accepted s page 0x01 [(128, 64)] c → s.contexts.look c.ctx = none →
    s.hostRead (c.operand 128 64) 256 = some block → let x := natOfBytes block
    s.hostRead (entryBits x 512 64) 1024 = some table → s.hostRead (entryBits x 576 64) 192 = some bitmap →
    s.hostRead (entryBits x 640 64) (32 * entryBits x 704 5) = some keys → blockReserved x = false →
    badCreation x (partitionOf bitmap) = false → queuesOf table (entryBits x 81 1 == 1) = some qs →
    answers (.createContext page) s c 0 0 fun t => ∃ k, t.contexts.look c.ctx = some k ∧ k.root = entryBits x 0 64 ∧
      k.tenant.toNat = entryBits x 64 16 ∧ k.privileged = decide (entryBits x 80 1 = 1) ∧
      k.deterministic = decide (entryBits x 81 1 = 1) ∧ k.queues = qs ∧ k.partition = partitionOf bitmap ∧
      k.preempt = none ∧ k.loads = [] ∧ k.extensions = 1) ∧
  (∀ s page c k, on s page 0x02 [] c k → ∃ t, exec (.destroyContext page) s = .next t ∧ t.contexts.look c.ctx = none ∧
    (∀ p ∈ t.wgs, p.2.ctx ≠ c.ctx) ∧ (∀ p ∈ t.launches, p.2.ctx ≠ c.ctx) ∧ t.page c.ctx = .reset) ∧
  (∀ s page c k id t, on s page 0x03 [(128, 64), (192, 64)] c k →
    s.holdsBack (s.awaiting (.page page)) (s.loadLocs c.ctx (c.operand 128 64) (c.operand 192 64)) = false →
    ((s.arrives (.page page)).consume page).load c.ctx (c.operand 128 64) (c.operand 192 64) = (some (.ok id), t) →
    exec (.load page) s = .next (t.complete c 2 0 id 0 0xFFFF) ∧ ((t.ctx c.ctx).loads.look id).isSome = true ∧
      (t.ctx c.ctx).nextLoad = id + 1) ∧
  (∀ s page c k e t, on s page 0x03 [(128, 64), (192, 64)] c k →
    s.holdsBack (s.awaiting (.page page)) (s.loadLocs c.ctx (c.operand 128 64) (c.operand 192 64)) = false →
    ((s.arrives (.page page)).consume page).load c.ctx (c.operand 128 64) (c.operand 192 64) = (some (.error e), t) →
    exec (.load page) s = .next (t.complete c 2 e.status 0 e.offset e.segment) ∧ t.contexts = s.contexts) ∧
  (∀ b segs keys, authentic b segs keys = none ↔
    let publisher : BitVec 256 := BitVec.ofNat 256 (fieldOf b 16 32)
    publisher ∈ keys ∧
      Config.xmssVerify publisher (b.take (64 + 64 * segs.length)) (sliceOf b (fieldOf b 48 4) 2820) = true ∧
      ∀ g ∈ segs, digest32 (sliceOf b g.off g.fileSize) = g.digest) ∧
  (∀ s page c k l, on s page 0x04 [(128, 32)] c k → k.loads.look (c.operand 128 32) = some l →
    answers (.unload page) s c 0 0 fun t => (t.ctx c.ctx).loads.look (c.operand 128 32) = none ∧
      ∀ g ∈ l.segments, ∀ f ∈ g.frames, f ∉ (t.ctx c.ctx).execFrames) ∧
  (∀ s page c k, on s page 0x05 [(128, 64), (192, 6)] c k → s.holdsBack (s.awaiting (.page page))
      (s.cpLocs c.ctx (c.operand 128 64) 128 ++ s.cpLocs c.ctx (s.recordAddr c.ctx) 128) = false →
    s.frozen = false →
    let id := hostLaunchId k (c.operand 192 6)
    let r := ((s.arrives (.page page)).consume page).enqueue c.ctx (c.operand 192 6) (c.operand 128 64) k.privileged id
      (some (c.page, c.tag, c.irq))
    (r.1 = 0 → exec (.hostLaunch page) s = .next r.2) ∧
    (r.1 ≠ 0 → exec (.hostLaunch page) s = .next (r.2.complete c 1 r.1 id.toNat 0 0xFFFF))) ∧
  (∀ s page c k, on s page 0x06 [] c k → k.preempt = none → answers (.preEmpt page) s c 0 0 fun t =>
    (t.ctx c.ctx).preempt = some ⟨s.time, k.deadline, false, 0⟩ ∧
    ∀ u g, s.wgs.look u = some g → g.ctx = c.ctx → g.resident = true → g.desc.persist = true →
      (t.wgs.look u).map (·.saving) = some true) ∧
  (∀ s page c k p, on s page 0x07 [(128, 64)] c k → k.preempt = some p → p.done = true → c.operand 128 64 = 0 →
    answers (.resume page) s c 0 0 fun t => (t.ctx c.ctx).preempt = none ∧ (t.ctx c.ctx).partition = k.partition) ∧
  (∀ s page c k, on s page 0x08 [(128, 64), (192, 32)] c k → let start := c.operand 128 64
    let count := c.operand 192 32
    start % 65536 = 0 → start < 2 ^ 57 → ∃ t x, exec (.translationInvalidate page) s = .next t ∧
      t.invals.look s.nextUid = some x ∧ x.page = page ∧ x.ctx = c.ctx ∧ x.tag = c.tag ∧ x.code = false ∧
      (t.page page).busy = some (0x08, c.tag, c.irq) ∧
      ∀ core, ∀ e ∈ (t.core core).tlb, e.ctx = c.ctx →
        count ≠ 0 ∧ (start / 65536 + count ≤ e.page ∨ e.page + e.span ≤ start / 65536)) ∧
  (∀ s n x, s.invals.look n = some x →
    (if x.code then s.fetchedBefore x.ctx x.order else s.settledBefore x.ctx x.order) = true →
    ∃ t : State, exec (.translationInvalidateComplete n) s =
        .next (t.post x.page (completionEntry x.ctx x.tag (if x.code then 0x09 else 0x08) 0 0 0 0 0xFFFF) x.irq) ∧
      t.invals.look n = none ∧ (t.page x.page).busy = none ∧ t.mem = s.mem ∧
      (x.code = false → ∀ p ∈ t.jobs, p.2.parked.isSome = true → (t.wgs.look p.2.wg).map (·.ctx) = some x.ctx →
        ∀ m ∈ p.2.pages, x.count ≠ 0 ∧ (m.page < x.first ∨ x.first + x.count ≤ m.page))) ∧
  (∀ s page c k, on s page 0x09 [] c k → ∃ t x, exec (.instructionCacheInvalidate page) s = .next t ∧
    t.invals.look s.nextUid = some x ∧ x.page = page ∧ x.ctx = c.ctx ∧ x.tag = c.tag ∧ x.code = true ∧
    (t.page page).busy = some (0x09, c.tag, c.irq) ∧ (∀ core, ∀ p ∈ (t.core core).icache, p.1 / 2 ^ 52 ≠ c.ctx) ∧
    (∀ core, ∀ p ∈ (t.core core).traces, p.ctx ≠ c.ctx) ∧ t.wgs = s.wgs ∧ t.mem = s.mem) ∧
  (∀ s page c k, on s page 0x0A [] c k → answers (.forcedReset page) s c 0 0 fun t =>
    t = (s.consume page).forcedReset c.ctx 1) ∧
  (∀ s page c k, on s page 0x0B [(128, 256), (384, 64)] c k → c.operand 384 64 + 4096 ≤ 2 ^ 51 →
    answers (.quote page) s c 0 4096 fun t =>
      (∀ n < 4096, t.mem.byte (hostBase + c.operand 384 64 + n) = (quoteBytes c.ctx k
        (bytesOfNat 32 (c.operand 128 256)) (takeIndex s.identityLimit s.identityNext s.tick).1).getD n 0) ∧
      (s.identityNext < 1048576 → s.identityNext ≠ s.identityLimit ∨ Config.commits s.tick = true →
        t.identityNext = s.identityNext + 1)) ∧
  (∀ s page c k, Accepted s page 0x0C [] c → s.contexts.look c.page = some k → k.privileged = true →
    s.reading = false → s.sealing = false → answers (.capsuleRelease page) s c 0 0 fun t =>
      t.capsule = none ∧ t.held = false ∧ t.mem = s.mem ∧
        ∀ d < 24, (t.die d).summary.held = false ∧ (t.die d).summary.sealed = false) ∧
  (∀ p ∈ ([(.faultReplay, 0x0D, true), (.faultFail, 0x0E, false)] : List ((Nat → Instr) × Nat × Bool)), ∀ s page c k f,
    on s page p.2.1 [(128, 17)] c k → c.operand 128 5 < 24 →
    (s.die (c.operand 128 5)).faultQ.look (c.operand 133 12) = some f → f.ctx = c.ctx →
    answers (p.1 page) s c 0 0 fun t =>
      t = (s.consume page).resolveEntry (c.operand 128 5) (c.operand 133 12) p.2.2) ∧
  (∀ s page c k u i f w, on s page 0x0F [(128, 18)] c k → c.operand 128 5 < 24 → s.heldWarp c = some (u, i, f) →
    s.warp? u i = some w → answers (.trapResume page) s c 0 0 fun t =>
      ∃ w', t.warp? u i = some w' ∧ w'.fw = none ∧ w'.regs = w.regs) ∧
  (∀ s page c k x, on s page 0x10 [(128, 18)] c k → c.operand 128 5 < 24 → s.heldWarp c = some x →
    answers (.trapReset page) s c 0 0 fun t => t = (s.consume page).forcedReset c.ctx 1) ∧
  ∀ s page c, Accepted s page 0x11 [(128, 56)] c → c.operand 128 5 < 24 →
    let entry := (s.die (c.operand 128 5)).lost.find? fun p => p.1 == c.operand 133 6 && p.2.1 == c.operand 139 45
    let line := c.operand 139 45
    answers (.lostLineClear page) s c 0 0 fun t => (entry = none → t = s.consume page) ∧
      ∀ p, entry = some p → t.wgs = s.wgs ∧ (∀ q ∈ (t.die (homeDie (line * 128))).lost, q.2.1 ≠ line) ∧
        (p.2.2.length = 128 → t.mem.bytes (line * 128) 128 = p.2.2) ∧
        ∀ a, a / 128 ≠ line → p.2.2.length = 128 → t.mem.byte a = s.mem.byte a

/-! ### Power, bring-up, the recorder -/

/-- R61, R65, R69, R205, R443, R465 to R467: a power sample, one each 10 µs, sets headroom, budget and whether issue
stops; the clock steps by 100 MHz between 700 and 1,400; a retransmission and a patrol read change no value; power good
and the resets start the module empty but for its non-volatile storage, host and peer memory, and a warm reset's held
capsule. Which way a bring-up that no input describes goes is the model's own choice (log 2). -/
def Obligations.PowerAndBringUp : Prop :=
  (∀ (s : State) d tj, d < 24 → (s.die d).sampledAt + 10000 ≤ s.time → ∃ t, exec (.powerSample d tj) s = .next t ∧
    t.mem = s.mem ∧ t.wgs = s.wgs ∧
    ((t.die d).headroom : Int) = min 256 (max 0 ((105 - tj) * 256 / 10)) ∧
    (t.die d).budget = max 600 (4800 * (t.die d).headroom / 256) ∧
    (t.die d).sampledAt = s.time ∧ (112 ≤ tj → (t.die d).stopped = true) ∧ (tj ≤ 100 → (t.die d).stopped = false) ∧
    (100 < tj → tj < 112 → (t.die d).stopped = (s.die d).stopped)) ∧
  (∀ (s : State) d, d < 24 → 700 < (s.die d).clockMHz → (s.die d).stepAt + 1000000 ≤ s.time →
    (s.moduleOver = true ∨ (s.die d).limited = true) → ∃ t, exec (.clockStepDown d) s = .next t ∧
      (t.die d).clockMHz = (s.die d).clockMHz - 100 ∧ (t.die d).stepAt = s.time ∧ t.mem = s.mem ∧ t.wgs = s.wgs) ∧
  (∀ (s : State) d, d < 24 → (s.die d).clockMHz < 1400 → (s.die d).stepAt + 10000000 ≤ s.time →
    s.moduleOver = false → (s.die d).limited = false → ∃ t, exec (.clockStepUp d) s = .next t ∧
      (t.die d).clockMHz = (s.die d).clockMHz + 100 ∧ (t.die d).stepAt = s.time ∧ t.mem = s.mem ∧ t.wgs = s.wgs) ∧
  (∀ s a b, a < 24 → b < 24 → dieDistance a b = 1 → exec (.linkCrcRetransmit a b) s = .next s) ∧
  (∀ (s : State) line, isHbm (line * 128) = true → ∃ t, exec (.patrolScrub line) s = .next t ∧
    t = { s with dies := t.dies }) ∧
  (∀ s, s.powered = false → ∃ t, exec (.powerGood .completes) s = .next t ∧ t.ready = true ∧ t.step_ = 6 ∧
    t.error = 0 ∧ t.warm = false ∧ t.wgs = [] ∧ t.contexts = [] ∧ t.launches = [] ∧
    ∀ a, t.mem.byte a = if isHbm a then 0 else s.mem.byte a) ∧
  (∀ s n, s.powered = false → 1 ≤ n → n ≤ 4 → ∃ t, exec (.powerGood (.fails n n)) s = .next t ∧ t.ready = false ∧
    t.step_ = n ∧ t.error = n) ∧
  (∀ s, s.powered = true → s.ready = false → s.error = 0 → s.step_ ≠ 0 → s.resetAt + 30000000000 ≤ s.time →
    exec .bringUpTimeout s = .next { s with error := 5 }) ∧
  (∀ s, ∃ t, exec .powerLoss s = .next t ∧ t.powered = false ∧ t.ready = false ∧ t.capsule = none ∧ t.held = false ∧
    t.wgs = [] ∧ t.contexts = [] ∧ t.capsuleId = s.capsuleId ∧ t.xmssLimit = s.xmssLimit ∧
    t.identityLimit = s.identityLimit ∧ ∀ a, t.mem.byte a = if isHbm a then 0 else s.mem.byte a) ∧
  (∀ s, s.powered = true → s.sealing = false → ∃ t, exec .managementWarmReset s = .next t ∧ t.powered = true ∧
    t.warm = true ∧ t.capsule = s.capsule ∧ t.held = s.held ∧ t.xmssNext = s.xmssLimit ∧ t.wgs = [] ∧ t.contexts = []) ∧
  ∀ s, ∃ t, exec .managementColdReset s = .next t ∧ t.powered = true ∧ t.warm = false ∧ t.capsule = none ∧
    t.held = false ∧ t.xmssNext = s.xmssLimit ∧ t.wgs = [] ∧ t.contexts = []

/-- R412, R423, R425, R426, R429 to R433, R440 to R442: the recorder's own records; a ring keeps the newest 4,096; a fatal
fault freezes its core and lists its origin; the freeze reaches a core with its time; the seal makes the capsule of the
frozen rings and resets every context, or counts an overrun when one is held. -/
def Obligations.Recorder : Prop :=
  (∀ (v : Varve) r, v.ring.length ≤ 4096 → (v.push r).ring.length ≤ 4096 ∧ (v.push r).ring.getLast? = some r ∧
    (v.ring.length < 4096 → (v.push r).ring = v.ring ++ [r])) ∧
  (∀ (s : State) k, (s.core k).varve.frozen = none → 4096 ≤ (s.core k).varve.sinceAnchor →
    ∃ t, exec (.varveTimeAnchor k) s = .next t ∧ Recorded s t ∧ (t.core k).varve.sinceAnchor = 0) ∧
  (∀ (s : State) k, (s.core k).varve.frozen = none → (s.core k).varve.dropped ≠ 0 →
    ((s.core k).varve.last ≠ s.now k ∨ (s.core k).varve.inCycle < 4) →
    ∃ t, exec (.varveDropRecord k) s = .next t ∧ Recorded s t ∧ (t.core k).varve.dropped = 0) ∧
  (∀ (s : State) k sub x, ((s.core k).sub sub).sample = some x → ∃ t, exec (.issueSample k sub) s = .next t ∧
    ((t.core k).sub sub).sample = none ∧ t.mem = s.mem ∧ t.wgs = s.wgs) ∧
  (∀ (s : State) k, k < moduleCores → s.powered = true → s.frozen = false → (s.core k).varve.frozen = none →
    ∃ t, exec (.linkRetrainFailure k) s = .next t ∧ t.frozen = true ∧ (⟨k, 2, s.time⟩ : Origin) ∈ t.origins ∧
      (t.core k).varve.frozen = some s.time ∧ t.mem = s.mem ∧ t.wgs = s.wgs) ∧
  (∀ (s : State) k o, nearestOrigin s.origins k = some o → k < moduleCores → s.isFrozen k = false →
    s.freezeReaches k o = true → ∃ t, exec (.freezeArrival k) s = .next t ∧ (t.core k).varve.frozen = some s.time ∧
      ∀ j, j ≠ k → t.core j = s.core j) ∧
  (∀ (v : Varve) now time clock type tenant sub slot payload, v.frozen.isSome = true →
    v.record now time clock type tenant sub slot payload = v) ∧
  (∀ (s : State) o rest, s.origins = o :: rest → s.frozen = true → s.allFrozen = true → s.capsule = none →
    s.contexts = [] → ∃ t x, exec .capsuleSeal s = .next t ∧ t.capsule = some x ∧ x.id = s.capsuleId + 1 ∧
      t.capsuleId = s.capsuleId + 1 ∧ x.t0 = o.time ∧ x.origins = s.origins ∧ t.held = true ∧ t.origins = [] ∧
      x.segments = (List.range moduleCores).map (fun k =>
        (k, (s.core k).varve.ring, ((s.core k).varve.frozen).getD 0)) ∧
      (s.xmssNext < 1048576 → s.xmssNext ≠ s.xmssLimit ∨ Config.commits s.tick = true →
        x.unsigned = false ∧ x.index = BitVec.ofNat 32 s.xmssNext ∧ t.xmssNext = s.xmssNext + 1) ∧
      (1048576 ≤ s.xmssNext ∨ (s.xmssNext = s.xmssLimit ∧ Config.commits s.tick = false) →
        x.unsigned = true ∧ t.xmssNext = s.xmssNext)) ∧
  (∀ (s : State) o rest k, s.origins = o :: rest → s.frozen = true → s.allFrozen = true → s.capsule = some k →
    s.contexts = [] → ∃ t, exec .capsuleSeal s = .next t ∧ t.capsule = some k ∧ t.origins = [] ∧
      ∀ d < 24, (t.die d).summary.overruns = min 255 ((s.die d).summary.overruns + 1) ∧
        (t.die d).summary.lastFreeze = o.time) ∧
  ∀ (s : State) o rest, s.origins = o :: rest → s.frozen = true → s.allFrozen = true →
    ∃ t, exec .capsuleSeal s = .next t ∧ (∀ p ∈ s.contexts, ∀ q ∈ t.wgs, q.2.ctx ≠ p.1)

/-- R65 to R70, R349, R412: an instruction that reads an uncorrectable register takes the trap and does nothing else; a
load that meets an uncorrectable line or scratchpad word is cancelled with its registers as they were; a write that its
place cannot take is not performed; a line of instructions that is uncorrectable is not installed; an operation that
reads an uncorrectable tile is cancelled; each report is logged at its die, and the warp takes the trap. A write of a whole
line clears its error. An error of a cell that has no clean copy marks it, memory that has never been written apart (R70); a
clean line is dropped and counted; a dirty line lost at its eviction reads as an error, and the 17th of a slice, like an
error in a ring or in firmware's own state, freezes the module. When errors strike is an input of the model (log 42). -/
def Obligations.UncorrectableErrors : Prop :=
  let held (t : State) (u k : Nat) (w : Warp) (cause address : Nat) : Prop := ∃ w' x, t.warp? u k = some w' ∧
    w'.regs = w.regs ∧ w'.masks = w.masks ∧ x ∈ w'.held ∧ x.kind = 20 ∧ x.cause = cause ∧ x.address = address
  (∀ i s c, isInstruction i = true → ctxOf s = some c → causeOf c.env i = none →
    (disallowed i = true → ∀ l ∈ lanesOf (c.execs i), c.w.txns.look l = none) →
    (∀ o ∈ c.operands i, o.late = false → emptyLanes c.w c.sp.lanes o = 0) →
    (drains i = true → anyEmpty c.w c.sp.lanes = false) → badSlot c.slots (slotsOf i) = none →
    (wide c.slots i = true → c.emul.isSome = true) → c.damaged i ≠ [] →
    ∃ bad, exec i s = .next
        (({ c with s := c.s.noteEcc c.g c.w ((c.damaged i).headD 0) 0 (some .registerFile) } : Ctx).trapped
          (c.trapOf 20 0 bad none)) ∧
      ∀ l, l < 128 → (bad.getLsbD l = true ↔
        (c.execs i).getLsbD l = true ∧ ∃ k ∈ c.damaged i, 32768 ≤ k ∨ k / 256 = l)) ∧
  (∀ (s : State) g w at_ cause pool, let t := s.noteEcc g w at_ cause pool
    t.mem = s.mem ∧ t.wgs = s.wgs ∧
    (∀ cell, pool = some cell →
      (t.die (g.core / 64)).eccLog = (s.die (g.core / 64)).eccLog ++ [⟨cell, at_, s.time⟩]) ∧
    (pool = none → isHbm at_ = true → (t.die (homeDie at_)).eccLog = (s.die (homeDie at_)).eccLog ++
      [⟨if (s.l2Line (at_ / 128)).isSome then .l2 else .hbm, at_ / 128 * 128, s.time⟩])) ∧
  (∀ (s : State) u i g w k p lanes d shape inv acq, s.wgs.look u = some g → g.warps[i]? = some w →
    w.producers[k]? = some p → p.work = .load lanes d shape inv acq → w.firstMemory p = true →
    (s.core g.core).outbound = [] → s.jobs = [] → s.hostEarly = [] →
    (∀ l ∈ lanes, ∀ a ∈ l.addrs, s.lockedLoc (locOf a) = false) →
    (∀ e ∈ w.storeQ, e.strict = true → p.order ≤ e.order) →
    (∀ l ∈ lanes, waitsForRed w.storeQ p.order l = false) →
    (∃ l ∈ lanes, l.zero = false ∧ ∃ a ∈ l.addrs, servedByte (s.core g.core) g.launch l a = false ∧ s.badAddr a = true) →
    ∃ t w' cause address, exec (.producerComplete u i k) s = .next t ∧ t.mem = s.mem ∧ t.warp? u i = some w' ∧
      w'.producers = w.producers.filter (fun q => q.id != p.id) ∧ held t u i w cause address ∧
      (∀ k, w'.isEmpty k = (w.isEmpty k && !decide (k ∈ p.dests))) ∧ ∃ l ∈ lanes, address = l.va) ∧
  (∀ (s : State) core idx o g w, (s.core core).outbound[idx]? = some o →
    heldBack ((s.core core).outbound.take idx) o = false →
    s.claimed o.wg o.warp o.order o.arrived ((o.op.addrs.map locOf).eraseDups) = false → s.refusesWrite o = true →
    s.wgs.look o.wg = some g → g.warps[o.warp]? = some w →
    ∃ t cause, exec (.writePerformedAtHomeSlice core idx) s = .next t ∧ t.mem = s.mem ∧ held t o.wg o.warp w cause o.va) ∧
  (∀ (s : State) core idx o bs n, (s.core core).outbound[idx]? = some o → o.op = .bytes bs →
    isHbm (n * 128) = true → (∀ b ∈ bs, ∃ pa, b.addr = .phys pa ∧ pa / 128 = n) →
    (∀ k < 128, ∃ b ∈ bs, b.addr = .phys (n * 128 + k) ∧ b.mask = 0xFF) →
    heldBack ((s.core core).outbound.take idx) o = false →
    s.claimed o.wg o.warp o.order o.arrived ((o.op.addrs.map locOf).eraseDups) = false →
    ∃ t, exec (.writePerformedAtHomeSlice core idx) s = .next t ∧ t.badLine n = false) ∧
  (∀ (s : State) core sub x g w sp, ((s.core core).sub sub).frozen = some x → s.holdsBack none [.line x.line] = false →
    s.badAddr (.phys (x.line * 128)) = true → s.wgs.look x.wg = some g → g.warps[x.warp]? = some w →
    w.split? x.split = some sp → ∃ t, exec (.icacheFill core sub) s = .next t ∧
      (t.core core).icache = (s.core core).icache ∧ held t x.wg x.warp w 2 x.va) ∧
  (∀ (s : State) u g op f w, s.wgs.look u = some g → g.ops.find? (fun o => !o.executed) = some op →
    (s.jobs.look op.job).isSome = true → s.opReady u op = true → op.instr = .mrd f → g.warps[op.warp]? = some w →
    g.badTile f.z.toNat (fun e => op.elems.any fun x => x.2.1 == e) = true →
    ∃ t g' w' x, exec (.matrixOpExecute u) s = .next t ∧ t.wgs.look u = some g' ∧ g'.tiles = g.tiles ∧
      (∀ o ∈ g'.ops, o.number ≠ op.number) ∧ g'.warps[op.warp]? = some w' ∧ w'.regs = w.regs ∧
      w'.matFaults = w.matFaults ++ [x] ∧ x.kind = 20 ∧ x.cause = 3) ∧
  ((∀ (s : State) y rest, s.agenda = .upset y :: rest → let old := { s with agenda := rest }
      let x := (old.upset y).settle
      step s = .next { x.countSplits old with cur := none, tick := x.tick + 1 }) ∧
   (∀ (s : State) n, isHbm (n * 32) = true → s.l2Line (n / 4) = none →
      let t := s.upset (.hbm n)
      ((s.inHbm (n / 4)).any (· != 0) = true → t.badByte (n * 32) = true ∧ t = { s with hbmBad := t.hbmBad }) ∧
      ((s.inHbm (n / 4)).any (· != 0) = false → t = s)) ∧
   (∀ (s : State) n y, s.l2Line (n / 4) = some y → let t := s.upset (.l2 n)
      t.mem = s.mem ∧ t.wgs = s.wgs ∧ (y.dirty = true → t.badByte (n * 32) = true) ∧
      (y.dirty = false → t.l2Line (n / 4) = none ∧ (t.die (homeDie (n / 4 * 128))).corrected =
        (s.die (homeDie (n / 4 * 128))).corrected + 1)) ∧
   (∀ (s : State) u i k w, s.warp? u i = some w → let t := s.upset (.register u i k)
      t.mem = s.mem ∧ (Sparse.get (0 : Word) w.regs k ≠ 0 → (t.warp? u i).map (·.isDamaged k) = some true) ∧
      (Sparse.get (0 : Word) w.regs k = 0 → t.warp? u i = some w)) ∧
   (∀ (s : State) n x, s.l2Line n = some x → x.dirty = true → x.bad ≠ [] →
      (s.evict n x).badLine n = true ∧ (s.evict n x).mem = s.mem) ∧
   (∀ (s : State) d slice, slice < 64 → 16 < ((s.die d).lostIn slice).length → s.frozen = false →
      s.lostOverflow.frozen = true) ∧
   (∀ (s : State) k, k < moduleCores → s.powered = true → s.frozen = false → (s.upset (.ring k)).frozen = true) ∧
   ∀ (s : State) d, d < 24 → s.powered = true → s.frozen = false → (s.upset (.control d)).frozen = true)

/-! ### The host, peers, sessions, management -/

/-- R56, R146, R148, R460, R463, R468: reads and writes through the host's window and from a peer act on the module's
memory, those that fail answer so and change no memory; one that earlier accesses of its sender, claims or commits hold
back waits in its place, and a read waits behind every earlier write of its sender; an acknowledgement ends the oldest
write to its peer; routes come and go; writes to a command page set its registers. -/
def Obligations.HostAndPeers : Prop :=
  let free (s : State) (pa len : Nat) : Prop := s.inbound = [] ∧ s.holdsBack (some s.order) (runLocs pa len) = false ∧
    ∀ a ∈ physRun pa len, s.badAddr a = false
  (∀ s offset bytes, s.ready = true → bytes ≠ [] →
    (∀ pa, s.barAddr offset bytes.length = some pa → free s pa bytes.length →
      ∃ t, exec (.hostWrite offset bytes) s = .next t ∧ t.hostFail = false ∧
        ∀ a, t.mem.byte a = if pa ≤ a ∧ a < pa + bytes.length then bytes.getD (a - pa) 0 else s.mem.byte a) ∧
    (∀ pa, s.barAddr offset bytes.length = some pa →
      let x : Inbound := ⟨none, pa, some bytes, bytes.length, s.order, false⟩
      let y := { x with relaxed := true }
      (s.inboundHeld x = true →
        exec (.hostWrite offset bytes) s = .next { s.stamp.2 with inbound := s.inbound ++ [x] }) ∧
      (s.inboundHeld y = true →
        s.playTurn (.relaxed offset bytes) = .next { s.stamp.2 with inbound := s.inbound ++ [y] }) ∧
      (s.inboundHeld y = false → s.playTurn (.relaxed offset bytes) = .next (s.performInbound y))) ∧
    (s.barAddr offset bytes.length = none →
      exec (.hostWrite offset bytes) s = .next { s with hostFail := true, hostOut := [] })) ∧
  (∀ s offset len, s.ready = true → len ≠ 0 →
    (∀ pa, s.barAddr offset len = some pa → free s pa len → exec (.hostRead offset len) s =
      .next { s.touchLines 0 (physRun pa len) with hostFail := false, hostOut := s.mem.bytes pa len }) ∧
    (s.barAddr offset len = none →
      exec (.hostRead offset len) s = .next { s with hostFail := true, hostOut := [] })) ∧
  (∀ s peer addr bytes len, s.ready = true → peer ∈ s.routes → bytes ≠ [] → len ≠ 0 →
    (addr + bytes.length ≤ hbmTop → inReserve addr = false → inReserve (addr + (bytes.length - 1)) = false →
      free s addr bytes.length → ∃ t, exec (.peerInboundAccess peer addr (some bytes) 0) s = .next t ∧
        ∀ a, t.mem.byte a = if addr ≤ a ∧ a < addr + bytes.length then bytes.getD (a - addr) 0 else s.mem.byte a) ∧
    (addr + len ≤ hbmTop → inReserve addr = false → inReserve (addr + (len - 1)) = false → free s addr len →
      exec (.peerInboundAccess peer addr none len) s =
        .next { s.touchLines 0 (physRun addr len) with hostFail := false, hostOut := s.mem.bytes addr len }) ∧
    (hbmTop < addr + len ∨ inReserve addr = true →
      exec (.peerInboundAccess peer addr none len) s = .next { s with hostFail := true, hostOut := [] })) ∧
  ((∀ (s : State) (x y : Inbound), y ∈ s.inbound → y.order < x.order → y.peer = x.peer → y.write.isSome = true →
     (x.write = none ∨ (x.relaxed = false ∧ y.relaxed = false)) → s.inboundHeld x = true) ∧
   ∀ (s : State) n rest, s.agenda = .inbound n :: rest → ∀ x, s.inbound[n]? = some x →
     let old := { s with agenda := rest }
     old.inboundHeld x = false → let t := ({ old with inbound := s.inbound.eraseIdx n }.performInbound x).settle
       step s = .next { t.countSplits old with cur := none, tick := t.tick + 1 }) ∧
  (∀ (s : State) peer p rest, (s.peerPending.find? fun p => p.1 == peer) = some p → s.peerPending = p :: rest →
    exec (.peerAcknowledgement peer) s = .next { s with peerPending := rest }) ∧
  (∀ (s : State) peer up, peer < 256 → ∃ t, exec (.liveRouteChange peer up) s = .next t ∧
    t = { s with routes := t.routes } ∧ ∀ k, k ∈ t.routes ↔ if k = peer then up = true else k ∈ s.routes) ∧
  (∀ (s : State) page (tail : Word), page < 64 → let p := s.page page
    ((tail - p.cmdHead).toNat ≤ 4096 → ∃ t, exec (.doorbell page tail) s = .next t ∧
      t = { s with pages := t.pages } ∧ t.page page = { p with cmdTail := tail }) ∧
    (4096 < (tail - p.cmdHead).toNat → exec (.doorbell page tail) s = .next s)) ∧
  (∀ (s : State) page (value : Word), page < 64 → (s.page page).held = [] →
    ∃ t, exec (.cplHeadWrite page value) s = .next t ∧ t = { s with pages := t.pages } ∧
      t.page page = { s.page page with cplHead := value }) ∧
  (∀ (s : State) page (value : Word), page < 64 → ∃ t, exec (.lrReadWrite page value) s = .next t ∧
    t = { s with pages := t.pages } ∧ t.page page = { s.page page with lrRead := value }) ∧
  (∀ (s : State) (value : Dword), s.powered = true →
    exec (.registerWrite 8 value) s = .next { s with barWindow := value }) ∧
  ∀ (s : State) page (value : Dword), page < 64 → s.powered = true → let at_ := 0x100000 + 0x10000 * page
    ∃ t u v, exec (.registerWrite at_ value) s = .next t ∧ exec (.registerWrite (at_ + 8) value) s = .next u ∧
      exec (.registerWrite (at_ + 0x28) value) s = .next v ∧
      t.page page = { s.page page with cmdBase := value &&& ~~~(0xFFF#64) } ∧
      u.page page = { s.page page with cplBase := value &&& ~~~(0xFFF#64) } ∧
      v.page page = { s.page page with irqMask := value.truncate 32 &&& 7 }

/-- R444 to R446, R464, R465: a session's frames count up under its key and a frame is delivered when its tag holds and
its counter is new and inside the window, else dropped and counted; a session that has sent 2^32 frames takes new keys
and the old receive key holds for 1 ms; the management link reads status, summaries, capsule blocks, keys and telemetry,
and releases the capsule. -/
def Obligations.SessionsAndManagement : Prop :=
  (∀ (s : State) n port, s.ready = true → s.sessions.look n = none → s.identityNext < 1048576 →
    s.identityNext ≠ s.identityLimit ∨ Config.commits s.tick = true → n < 2 ^ 32 → port < 16 →
      ∃ t x, exec (.sessionAgree n port) s = .next t ∧ t.sessions.look n = some x ∧ x.port = port ∧
      x.txCounter = 0 ∧ x.sent = 0 ∧ t.identityNext = s.identityNext + 1 ∧ t.mem = s.mem) ∧
  (∀ (s : State) n x body, s.sessions.look n = some x → x.sent < 2 ^ 32 → x.txCounter < 2 ^ 64 - 1 →
    let nonce := nonceOf n x.txCounter
    let text := Config.gcmSeal x.txKey nonce body
    exec (.frameTransmit n body) s = .next { s with sessions := s.sessions.put n (some
      { x with txCounter := x.txCounter + 1, sent := x.sent + 1, outbox := x.outbox ++ [
        bytesOfNat 8 x.txCounter ++ text ++ bytesOfNat 16 (Config.gcmTag x.txKey nonce text).toNat] }) }) ∧
  (∀ (s : State) n x body, s.sessions.look n = some x → x.sent < 2 ^ 32 → 2 ^ 64 - 1 ≤ x.txCounter →
    ∃ t, exec (.frameTransmit n body) s = .next t ∧ t.sessions.look n = none) ∧
  (∀ (s : State) n x (counter : BitVec 64) body tag, s.sessions.look n = some x → ∃ t y,
    exec (.frameReceive n counter body tag) s = .next t ∧ t.sessions.look n = some y ∧
    let nonce := nonceOf n counter.toNat
    (Config.gcmTag x.rxKey nonce body = tag → x.rxHigh < counter.toNat + 1024 → counter.toNat ∉ x.rxSeen →
      y.delivered = x.delivered ++ [Config.gcmSeal x.rxKey nonce body] ∧ y.dropped = x.dropped ∧
      y.rxHigh = max x.rxHigh counter.toNat ∧ counter.toNat ∈ y.rxSeen) ∧
    (counter.toNat ∈ x.rxSeen ∨ counter.toNat + 1024 ≤ x.rxHigh ∨
        (Config.gcmTag x.rxKey nonce body ≠ tag ∧ x.oldRxKey = none) →
      y.delivered = x.delivered ∧ y.dropped = x.dropped + 1)) ∧
  (∀ (s : State) n x, s.sessions.look n = some x → 2 ^ 32 ≤ x.sent → ∃ t y, exec (.sessionRekey n) s = .next t ∧
    t.sessions.look n = some y ∧ y.sent = 0 ∧ y.oldRxKey = some (x.rxKey, s.time + 1000000) ∧
    y.txCounter = x.txCounter) ∧
  (∀ (s : State) n x k at_, s.sessions.look n = some x → x.oldRxKey = some (k, at_) → at_ ≤ s.time →
    exec (.oldKeyExpiry n) s = .next { s with sessions := s.sessions.put n (some { x with oldRxKey := none }) }) ∧
  (∀ (s : State), ∃ t, exec .managementReadStatus s = .next t ∧ t = { s with mgmtOut := t.mgmtOut, mgmtBusy := false } ∧
    t.mgmtOut = bytesOfNat 8 s.status ∧ s.status.testBit 0 = s.ready ∧ s.status.testBit 1 = s.warm ∧
    s.status.testBit 2 = s.held ∧ s.status.testBit 3 = s.frozen) ∧
  (∀ (s : State) d, d < 24 → exec (.managementReadSummary d) s =
    .next { s with mgmtOut := bytesOfNat 64 (s.die d).summary.bits, mgmtBusy := false }) ∧
  (∀ (s : State) block, block < 2 ^ 20 →
    (s.sealing = true → exec (.managementReadCapsule block) s = .next { s with mgmtOut := [], mgmtBusy := true }) ∧
    (s.sealing = false → exec (.managementReadCapsule block) s =
      .next { s with mgmtOut := s.capsuleBytes 0 (128 * block) 128, mgmtBusy := false })) ∧
  (∀ s : State, exec .managementReadKeys s =
    .next { s with mgmtOut := Config.publicKey 0 ++ Config.publicKey 1, mgmtBusy := false }) ∧
  (∀ s : State, ∃ t, exec .managementReadTelemetry s = .next t ∧
    t = { s with mgmtOut := t.mgmtOut, mgmtBusy := false }) ∧
  ∀ s : State, s.reading = false → s.sealing = false → ∃ t, exec .managementCapsuleRelease s = .next t ∧
    t.capsule = none ∧ t.held = false ∧ t.mem = s.mem ∧ t.wgs = s.wgs ∧
    ∀ d < 24, (t.die d).summary.held = false ∧ (t.die d).summary.sealed = false

/-! ### Steps, reset -/

/-- R178, R211, R212, R227: when the first split that a sub-core chooses has its words in reach and they decode to an
instruction, the step of that sub-core's turn is that instruction's, behind the count of its issue; unless it then
waits for an operand, or stays in the wait it stood in. R52: a word is the eight bytes of its instruction-cache line, or
those that memory now holds; where a trace holds the split's words, they come from there (R212). A turn that is a step of
the device is that step. What follows from a turn at once (woken monitors, full lost-line tables, refused images, decided
commits, replays, gang barriers) is done behind it. -/
def Obligations.StepRunsDecoded : Prop :=
  let ends (t old : State) : State := { t.settle.countSplits old with cur := none, tick := t.settle.tick + 1 }
  (∀ (s : State) core sub rest x xs c ws s₂ i left t, s.agenda = .issue core sub :: rest →
    let s₀ := { s with agenda := rest }
    let s₁ := (s₀.unblock core sub).promote core sub
    s₁.choices core sub = x :: xs → ctxOf { s₁ with cur := some ⟨x.wg, x.warp, x.split, none⟩ } = some c →
    State.fetch { s₁ with cur := some ⟨x.wg, x.warp, x.split, none⟩ } c = (.ok ws, s₂) →
    decodeWords ws = .ok (i, left) → exec i (s₂.countIssue sub { c with s := s₂ } i ws) = .next t →
    (∀ sp, (t.warp? x.wg x.warp).bind (·.split? x.split) = some sp →
      sp.wait ≠ some .retry ∧ (sp.wait = none ∨ c.sp.wait = none)) →
    step s = .next (ends t s₀)) ∧
  ((∀ (s : State) (c : Ctx), let k := (s.core c.g.core).traced c.g.ctx c.uid c.wi c.width c.sp
     (∀ ws, k = some ws → s.fetch c = (.ok ws, s)) ∧ (k = none → s.fetch c = s.fetchLines c.g.core c.g.ctx c.sp.pc)) ∧
   ∀ (s : State) core ctx pc p s' bytes,
     s.translate core ctx (pc % 2 ^ 57) .execute (s.ctx ctx).privileged = (.ok p, s') → inReserve p.pa = false →
     (s'.core core).icache.look (ctx * 2 ^ 52 + p.pa / 128) = some bytes →
     ∃ w, (w = wordOfBytes ((bytes.drop (p.pa % 128)).take 8) ∨ w = wordOfBytes (s'.mem.bytes p.pa 8)) ∧
       (extCount w = 0 → s.fetchLines core ctx pc = (.ok [w], s'))) ∧
  (∀ (s : State) e rest t, s.agenda = .event e :: rest → exec e { s with agenda := rest } = .next t →
    step s = .next (ends t { s with agenda := rest })) ∧
  ∀ (s : State) e rest, s.agenda = .event e :: rest → exec e { s with agenda := rest } = .fault .notEnabled →
    step s = .next { s with agenda := rest, tick := s.tick + 1 }

/-- R466: before power good the module has no context, work-group, launch or job, is not ready and reports step 0 and
no error; its memory reads zero and every command page and core is as after reset. That unlisted memory is zero before a
bring-up has cleared it is the model's own choice (log 4). -/
def Obligations.ResetState : Prop :=
  let s := State.reset
  s.powered = false ∧ s.ready = false ∧ s.step_ = 0 ∧ s.error = 0 ∧ s.contexts = [] ∧ s.wgs = [] ∧ s.launches = [] ∧
  s.jobs = [] ∧ s.gangs = [] ∧ s.sessions = [] ∧ s.irqs = [] ∧ s.frozen = false ∧ s.held = false ∧ s.capsule = none ∧
  s.origins = [] ∧ s.mem.wf = true ∧ (∀ a, s.mem.byte a = 0) ∧ (∀ k, s.core k = .reset) ∧ (∀ d, s.die d = .reset) ∧
  (∀ p, s.page p = .reset) ∧ step s ≠ .fault .notEnabled

/-- R2, R6: memory stays one byte per address in its canonical form: every step keeps it. -/
def Obligations.MemoryStaysCanonical : Prop :=
  ∀ s t, s.mem.wf = true → step s = .next t → t.mem.wf = true
end

