-- ==== Sys2Proof/Laws/Sparse.lean ====
section
/-! SUPPORT. Finite maps: reading after a write, and the canonical form that every write keeps. -/

namespace Sys2Proof.Machine.Sparse

section
variable {α : Type}

theorem look_del_self (m : Sparse α) (k : Nat) : (m.del k).look k = none := by
  induction m with
  | nil => rfl
  | cons p r ih =>
    obtain ⟨j, v⟩ := p
    by_cases h : j = k
    · simpa [del, h] using ih
    · simpa [del, h, look] using ih

theorem look_del_ne (m : Sparse α) {k j : Nat} (h : j ≠ k) : (m.del k).look j = m.look j := by
  induction m with
  | nil => rfl
  | cons p r ih =>
    obtain ⟨i, v⟩ := p
    by_cases hi : i = k
    · subst hi
      simpa [del, look, Ne.symm h] using ih
    · by_cases hj : i = j
      · subst hj; simp [del, hi, look]
      · simpa [del, hi, look, hj] using ih

theorem mem_of_look {m : Sparse α} {k : Nat} {v : α} (h : m.look k = some v) : (k, v) ∈ m := by
  induction m with
  | nil => cases h
  | cons p r ih =>
    obtain ⟨j, x⟩ := p
    by_cases hj : j = k
    · simp_all [look]
    · exact List.mem_cons_of_mem _ (ih (by simpa [look, hj] using h))

theorem look_ins_self (m : Sparse α) (k : Nat) (v : α) (h : m.look k = none) : (ins k v m).look k = some v := by
  induction m with
  | nil => simp [ins, look]
  | cons p r ih =>
    obtain ⟨i, x⟩ := p
    by_cases hi : i = k
    · simp [look, hi] at h
    · simp only [look, hi, if_false] at h
      by_cases hk : k < i
      · simp [ins, hk, look]
      · simpa [ins, hk, look, hi] using ih h

theorem look_ins_ne (m : Sparse α) {k j : Nat} (v : α) (h : j ≠ k) : (ins k v m).look j = m.look j := by
  induction m with
  | nil => simp [ins, look, Ne.symm h]
  | cons p r ih =>
    obtain ⟨i, x⟩ := p
    by_cases hk : k < i
    · simp [ins, hk, look, Ne.symm h]
    · simp only [ins, hk, if_false, look]
      split
      · rfl
      · exact ih

/-- What stands under a key after it is put. -/
@[simp] theorem look_put_self (m : Sparse α) (k : Nat) (v : Option α) : (m.put k v).look k = v := by
  cases v with
  | none => exact look_del_self m k
  | some x => exact look_ins_self _ k x (look_del_self m k)

/-- Other keys keep their values. -/
theorem look_put_ne (m : Sparse α) {k j : Nat} (v : Option α) (h : j ≠ k) : (m.put k v).look j = m.look j := by
  cases v with
  | none => exact look_del_ne m h
  | some x => rw [put, look_ins_ne _ _ h, look_del_ne m h]

theorem look_put (m : Sparse α) (k j : Nat) (v : Option α) :
    (m.put k v).look j = if j = k then v else m.look j := by
  split
  · next h => rw [h, look_put_self]
  · next h => exact look_put_ne m v h

end

section
variable {α : Type} [DecidableEq α]

/-- Reading a key that was set. -/
@[simp] theorem get_set_self (d : α) (m : Sparse α) (k : Nat) (v : α) : get d (m.set d k v) k = v := by
  unfold get set
  split <;> simp [*]

/-- Other keys read as before. -/
theorem get_set_ne (d : α) (m : Sparse α) {k j : Nat} (v : α) (h : j ≠ k) : get d (m.set d k v) j = get d m j := by
  simp [get, set, look_put_ne m _ h]

theorem get_set (d : α) (m : Sparse α) (k j : Nat) (v : α) :
    get d (m.set d k v) j = if j = k then v else get d m j := by
  split
  · next h => rw [h, get_set_self]
  · next h => exact get_set_ne d m v h

/-- A key that none of several writes names reads as before. -/
theorem get_setMany_of_not_mem (d : α) (kvs : List (Nat × α)) (m : Sparse α) (j : Nat)
    (h : ∀ p ∈ kvs, p.1 ≠ j) : get d (m.setMany d kvs) j = get d m j := by
  induction kvs generalizing m with
  | nil => rfl
  | cons p r ih =>
    have := ih (m.set d p.1 p.2) (fun q hq => h q (List.mem_cons_of_mem _ hq))
    simp only [setMany, List.foldl_cons] at this ⊢
    rw [this, get_set_ne d m p.2 (fun e => h p (List.mem_cons_self ..) e.symm)]

end

/-! ### The rising form -/

section
variable {α : Type}

theorem rising_cons {p : Nat × α} {r : Sparse α} :
    rising (p :: r) = true ↔ (∀ q ∈ r, p.1 < q.1) ∧ rising r = true := by
  simp [rising]

theorem rising_filter {m : Sparse α} (f : Nat × α → Bool) (h : rising m = true) : rising (m.filter f) = true := by
  induction m with
  | nil => rfl
  | cons p r ih =>
    rw [rising_cons] at h
    by_cases hp : f p = true
    · rw [List.filter_cons_of_pos hp, rising_cons]
      exact ⟨fun q hq => h.1 q ((List.mem_filter.1 hq).1), ih h.2⟩
    · rw [List.filter_cons_of_neg hp]
      exact ih h.2

theorem mem_ins {k : Nat} {v : α} {m : Sparse α} {q : Nat × α} (h : q ∈ ins k v m) : q = (k, v) ∨ q ∈ m := by
  induction m with
  | nil => simpa [ins] using h
  | cons p r ih =>
    simp only [ins] at h
    split at h
    · simpa using h
    · rcases List.mem_cons.1 h with h | h
      · exact .inr (by simp [h])
      · rcases ih h with h | h
        · exact .inl h
        · exact .inr (List.mem_cons_of_mem _ h)

theorem rising_ins {k : Nat} {v : α} {m : Sparse α} (h : rising m = true) (hk : ∀ p ∈ m, p.1 ≠ k) :
    rising (ins k v m) = true := by
  induction m with
  | nil => simp [ins, rising]
  | cons p r ih =>
    have hp := rising_cons.1 h
    simp only [ins]
    split
    · next hlt =>
      rw [rising_cons]
      refine ⟨fun q hq => ?_, h⟩
      rcases List.mem_cons.1 hq with e | e
      · rw [e]; exact hlt
      · exact Nat.lt_trans hlt (hp.1 q e)
    · next hge =>
      rw [rising_cons]
      refine ⟨fun q hq => ?_, ih hp.2 fun q hq => hk q (List.mem_cons_of_mem _ hq)⟩
      rcases mem_ins hq with e | e
      · have := hk p (List.mem_cons_self ..)
        rw [e]; simp only; omega
      · exact hp.1 q e

/-- Putting a key keeps the keys rising. -/
theorem rising_put {m : Sparse α} (k : Nat) (v : Option α) (h : rising m = true) : rising (m.put k v) = true := by
  cases v with
  | none => exact rising_filter _ h
  | some x =>
    refine rising_ins (rising_filter _ h) fun p hp e => ?_
    simp [del, e] at hp

end

end Sys2Proof.Machine.Sparse

namespace Sys2Proof.Machine.Memory

/-- A byte that was just written. -/
@[simp] theorem byte_setByte_self (m : Memory) (a : Nat) (b : Byte) : (m.setByte a b).byte a = b :=
  Sparse.get_set_self ..

/-- Every other byte. -/
theorem byte_setByte_ne (m : Memory) {a x : Nat} (b : Byte) (h : x ≠ a) : (m.setByte a b).byte x = m.byte x :=
  Sparse.get_set_ne _ _ _ h

/-- Bytes outside a write read as before. -/
theorem byte_setBytes_of_not_mem (m : Memory) (bs : List (Nat × Byte)) (x : Nat) (h : ∀ p ∈ bs, p.1 ≠ x) :
    (m.setBytes bs).byte x = m.byte x :=
  Sparse.get_setMany_of_not_mem _ _ _ _ h

/-- A byte write keeps the canonical form. -/
theorem wf_setByte {m : Memory} (h : m.wf = true) (a : Nat) (b : Byte) : (m.setByte a b).wf = true := by
  unfold wf at h ⊢
  rw [Bool.and_eq_true] at h ⊢
  refine ⟨Sparse.rising_put _ _ h.1, ?_⟩
  have hz := h.2
  rw [List.all_eq_true] at hz ⊢
  intro p hp
  unfold setByte Sparse.set at hp
  split at hp
  · exact hz p ((List.mem_filter.1 hp).1)
  · next hb =>
    rcases Sparse.mem_ins hp with e | e
    · simpa [e] using hb
    · exact hz p ((List.mem_filter.1 e).1)

/-- Writing bytes keeps the canonical form. -/
theorem wf_setBytes {m : Memory} (h : m.wf = true) (bs : List (Nat × Byte)) : (m.setBytes bs).wf = true := by
  induction bs generalizing m with
  | nil => exact h
  | cons p r ih => exact ih (wf_setByte h p.1 p.2)

/-- Writing a value keeps the canonical form. -/
theorem wf_setValue {m : Memory} (h : m.wf = true) (a n x : Nat) : (m.setValue a n x).wf = true := wf_setBytes h _

end Sys2Proof.Machine.Memory
end

