-- ==== Sys2Proof/Laws/State.lean ====
section
/-! SUPPORT. Every named update of the state, field by field: what it leaves as it was, and what its own field then
reads as. -/

namespace Sys2Proof.Machine.State

variable (s : State)

section setWg
variable (u : Nat) (g : WorkGroup)

@[simp] theorem setWg_agenda : (s.setWg u g).agenda = s.agenda := rfl
@[simp] theorem setWg_tick : (s.setWg u g).tick = s.tick := rfl
@[simp] theorem setWg_cur : (s.setWg u g).cur = s.cur := rfl
@[simp] theorem setWg_order : (s.setWg u g).order = s.order := rfl
@[simp] theorem setWg_time : (s.setWg u g).time = s.time := rfl
@[simp] theorem setWg_sub : (s.setWg u g).sub = s.sub := rfl
@[simp] theorem setWg_mem : (s.setWg u g).mem = s.mem := rfl
@[simp] theorem setWg_hbmBad : (s.setWg u g).hbmBad = s.hbmBad := rfl
@[simp] theorem setWg_ready : (s.setWg u g).ready = s.ready := rfl
@[simp] theorem setWg_warm : (s.setWg u g).warm = s.warm := rfl
@[simp] theorem setWg_held : (s.setWg u g).held = s.held := rfl
@[simp] theorem setWg_frozen : (s.setWg u g).frozen = s.frozen := rfl
@[simp] theorem setWg_step_ : (s.setWg u g).step_ = s.step_ := rfl
@[simp] theorem setWg_error : (s.setWg u g).error = s.error := rfl
@[simp] theorem setWg_resetAt : (s.setWg u g).resetAt = s.resetAt := rfl
@[simp] theorem setWg_powered : (s.setWg u g).powered = s.powered := rfl
@[simp] theorem setWg_barWindow : (s.setWg u g).barWindow = s.barWindow := rfl
@[simp] theorem setWg_moduleOver : (s.setWg u g).moduleOver = s.moduleOver := rfl
@[simp] theorem setWg_dies : (s.setWg u g).dies = s.dies := rfl
@[simp] theorem setWg_cores : (s.setWg u g).cores = s.cores := rfl
@[simp] theorem setWg_contexts : (s.setWg u g).contexts = s.contexts := rfl
@[simp] theorem setWg_pages : (s.setWg u g).pages = s.pages := rfl
@[simp] theorem setWg_launches : (s.setWg u g).launches = s.launches := rfl
@[simp] theorem setWg_gangs : (s.setWg u g).gangs = s.gangs := rfl
@[simp] theorem setWg_jobs : (s.setWg u g).jobs = s.jobs := rfl
@[simp] theorem setWg_invals : (s.setWg u g).invals = s.invals := rfl
@[simp] theorem setWg_sessions : (s.setWg u g).sessions = s.sessions := rfl
@[simp] theorem setWg_routes : (s.setWg u g).routes = s.routes := rfl
@[simp] theorem setWg_peerPending : (s.setWg u g).peerPending = s.peerPending := rfl
@[simp] theorem setWg_inbound : (s.setWg u g).inbound = s.inbound := rfl
@[simp] theorem setWg_waiting : (s.setWg u g).waiting = s.waiting := rfl
@[simp] theorem setWg_hostEarly : (s.setWg u g).hostEarly = s.hostEarly := rfl
@[simp] theorem setWg_xmssLimit : (s.setWg u g).xmssLimit = s.xmssLimit := rfl
@[simp] theorem setWg_xmssNext : (s.setWg u g).xmssNext = s.xmssNext := rfl
@[simp] theorem setWg_identityLimit : (s.setWg u g).identityLimit = s.identityLimit := rfl
@[simp] theorem setWg_identityNext : (s.setWg u g).identityNext = s.identityNext := rfl
@[simp] theorem setWg_capsuleId : (s.setWg u g).capsuleId = s.capsuleId := rfl
@[simp] theorem setWg_capsule : (s.setWg u g).capsule = s.capsule := rfl
@[simp] theorem setWg_origins : (s.setWg u g).origins = s.origins := rfl
@[simp] theorem setWg_irqs : (s.setWg u g).irqs = s.irqs := rfl
@[simp] theorem setWg_hostOut : (s.setWg u g).hostOut = s.hostOut := rfl
@[simp] theorem setWg_hostFail : (s.setWg u g).hostFail = s.hostFail := rfl
@[simp] theorem setWg_mgmtOut : (s.setWg u g).mgmtOut = s.mgmtOut := rfl
@[simp] theorem setWg_mgmtBusy : (s.setWg u g).mgmtBusy = s.mgmtBusy := rfl
@[simp] theorem setWg_debugger : (s.setWg u g).debugger = s.debugger := rfl
@[simp] theorem setWg_debugOut : (s.setWg u g).debugOut = s.debugOut := rfl
@[simp] theorem setWg_nextUid : (s.setWg u g).nextUid = s.nextUid := rfl

end setWg

section setWarp
variable (u i : Nat) (w : Warp)

@[simp] theorem setWarp_agenda : (s.setWarp u i w).agenda = s.agenda := by unfold setWarp; split <;> rfl
@[simp] theorem setWarp_tick : (s.setWarp u i w).tick = s.tick := by unfold setWarp; split <;> rfl
@[simp] theorem setWarp_cur : (s.setWarp u i w).cur = s.cur := by unfold setWarp; split <;> rfl
@[simp] theorem setWarp_order : (s.setWarp u i w).order = s.order := by unfold setWarp; split <;> rfl
@[simp] theorem setWarp_time : (s.setWarp u i w).time = s.time := by unfold setWarp; split <;> rfl
@[simp] theorem setWarp_sub : (s.setWarp u i w).sub = s.sub := by unfold setWarp; split <;> rfl
@[simp] theorem setWarp_mem : (s.setWarp u i w).mem = s.mem := by unfold setWarp; split <;> rfl
@[simp] theorem setWarp_hbmBad : (s.setWarp u i w).hbmBad = s.hbmBad := by unfold setWarp; split <;> rfl
@[simp] theorem setWarp_ready : (s.setWarp u i w).ready = s.ready := by unfold setWarp; split <;> rfl
@[simp] theorem setWarp_warm : (s.setWarp u i w).warm = s.warm := by unfold setWarp; split <;> rfl
@[simp] theorem setWarp_held : (s.setWarp u i w).held = s.held := by unfold setWarp; split <;> rfl
@[simp] theorem setWarp_frozen : (s.setWarp u i w).frozen = s.frozen := by unfold setWarp; split <;> rfl
@[simp] theorem setWarp_step_ : (s.setWarp u i w).step_ = s.step_ := by unfold setWarp; split <;> rfl
@[simp] theorem setWarp_error : (s.setWarp u i w).error = s.error := by unfold setWarp; split <;> rfl
@[simp] theorem setWarp_resetAt : (s.setWarp u i w).resetAt = s.resetAt := by unfold setWarp; split <;> rfl
@[simp] theorem setWarp_powered : (s.setWarp u i w).powered = s.powered := by unfold setWarp; split <;> rfl
@[simp] theorem setWarp_barWindow : (s.setWarp u i w).barWindow = s.barWindow := by unfold setWarp; split <;> rfl
@[simp] theorem setWarp_moduleOver : (s.setWarp u i w).moduleOver = s.moduleOver := by unfold setWarp; split <;> rfl
@[simp] theorem setWarp_dies : (s.setWarp u i w).dies = s.dies := by unfold setWarp; split <;> rfl
@[simp] theorem setWarp_cores : (s.setWarp u i w).cores = s.cores := by unfold setWarp; split <;> rfl
@[simp] theorem setWarp_contexts : (s.setWarp u i w).contexts = s.contexts := by unfold setWarp; split <;> rfl
@[simp] theorem setWarp_pages : (s.setWarp u i w).pages = s.pages := by unfold setWarp; split <;> rfl
@[simp] theorem setWarp_launches : (s.setWarp u i w).launches = s.launches := by unfold setWarp; split <;> rfl
@[simp] theorem setWarp_gangs : (s.setWarp u i w).gangs = s.gangs := by unfold setWarp; split <;> rfl
@[simp] theorem setWarp_jobs : (s.setWarp u i w).jobs = s.jobs := by unfold setWarp; split <;> rfl
@[simp] theorem setWarp_invals : (s.setWarp u i w).invals = s.invals := by unfold setWarp; split <;> rfl
@[simp] theorem setWarp_sessions : (s.setWarp u i w).sessions = s.sessions := by unfold setWarp; split <;> rfl
@[simp] theorem setWarp_routes : (s.setWarp u i w).routes = s.routes := by unfold setWarp; split <;> rfl
@[simp] theorem setWarp_peerPending : (s.setWarp u i w).peerPending = s.peerPending := by unfold setWarp; split <;> rfl
@[simp] theorem setWarp_inbound : (s.setWarp u i w).inbound = s.inbound := by unfold setWarp; split <;> rfl
@[simp] theorem setWarp_waiting : (s.setWarp u i w).waiting = s.waiting := by unfold setWarp; split <;> rfl
@[simp] theorem setWarp_hostEarly : (s.setWarp u i w).hostEarly = s.hostEarly := by unfold setWarp; split <;> rfl
@[simp] theorem setWarp_xmssLimit : (s.setWarp u i w).xmssLimit = s.xmssLimit := by unfold setWarp; split <;> rfl
@[simp] theorem setWarp_xmssNext : (s.setWarp u i w).xmssNext = s.xmssNext := by unfold setWarp; split <;> rfl
@[simp] theorem setWarp_identityLimit : (s.setWarp u i w).identityLimit = s.identityLimit := by unfold setWarp; split <;> rfl
@[simp] theorem setWarp_identityNext : (s.setWarp u i w).identityNext = s.identityNext := by unfold setWarp; split <;> rfl
@[simp] theorem setWarp_capsuleId : (s.setWarp u i w).capsuleId = s.capsuleId := by unfold setWarp; split <;> rfl
@[simp] theorem setWarp_capsule : (s.setWarp u i w).capsule = s.capsule := by unfold setWarp; split <;> rfl
@[simp] theorem setWarp_origins : (s.setWarp u i w).origins = s.origins := by unfold setWarp; split <;> rfl
@[simp] theorem setWarp_irqs : (s.setWarp u i w).irqs = s.irqs := by unfold setWarp; split <;> rfl
@[simp] theorem setWarp_hostOut : (s.setWarp u i w).hostOut = s.hostOut := by unfold setWarp; split <;> rfl
@[simp] theorem setWarp_hostFail : (s.setWarp u i w).hostFail = s.hostFail := by unfold setWarp; split <;> rfl
@[simp] theorem setWarp_mgmtOut : (s.setWarp u i w).mgmtOut = s.mgmtOut := by unfold setWarp; split <;> rfl
@[simp] theorem setWarp_mgmtBusy : (s.setWarp u i w).mgmtBusy = s.mgmtBusy := by unfold setWarp; split <;> rfl
@[simp] theorem setWarp_debugger : (s.setWarp u i w).debugger = s.debugger := by unfold setWarp; split <;> rfl
@[simp] theorem setWarp_debugOut : (s.setWarp u i w).debugOut = s.debugOut := by unfold setWarp; split <;> rfl
@[simp] theorem setWarp_nextUid : (s.setWarp u i w).nextUid = s.nextUid := by unfold setWarp; split <;> rfl

end setWarp

section modWarp
variable (u i : Nat) (f : Warp → Warp)

@[simp] theorem modWarp_agenda : (s.modWarp u i f).agenda = s.agenda := by unfold modWarp; split <;> simp
@[simp] theorem modWarp_tick : (s.modWarp u i f).tick = s.tick := by unfold modWarp; split <;> simp
@[simp] theorem modWarp_cur : (s.modWarp u i f).cur = s.cur := by unfold modWarp; split <;> simp
@[simp] theorem modWarp_order : (s.modWarp u i f).order = s.order := by unfold modWarp; split <;> simp
@[simp] theorem modWarp_time : (s.modWarp u i f).time = s.time := by unfold modWarp; split <;> simp
@[simp] theorem modWarp_sub : (s.modWarp u i f).sub = s.sub := by unfold modWarp; split <;> simp
@[simp] theorem modWarp_mem : (s.modWarp u i f).mem = s.mem := by unfold modWarp; split <;> simp
@[simp] theorem modWarp_hbmBad : (s.modWarp u i f).hbmBad = s.hbmBad := by unfold modWarp; split <;> simp
@[simp] theorem modWarp_ready : (s.modWarp u i f).ready = s.ready := by unfold modWarp; split <;> simp
@[simp] theorem modWarp_warm : (s.modWarp u i f).warm = s.warm := by unfold modWarp; split <;> simp
@[simp] theorem modWarp_held : (s.modWarp u i f).held = s.held := by unfold modWarp; split <;> simp
@[simp] theorem modWarp_frozen : (s.modWarp u i f).frozen = s.frozen := by unfold modWarp; split <;> simp
@[simp] theorem modWarp_step_ : (s.modWarp u i f).step_ = s.step_ := by unfold modWarp; split <;> simp
@[simp] theorem modWarp_error : (s.modWarp u i f).error = s.error := by unfold modWarp; split <;> simp
@[simp] theorem modWarp_resetAt : (s.modWarp u i f).resetAt = s.resetAt := by unfold modWarp; split <;> simp
@[simp] theorem modWarp_powered : (s.modWarp u i f).powered = s.powered := by unfold modWarp; split <;> simp
@[simp] theorem modWarp_barWindow : (s.modWarp u i f).barWindow = s.barWindow := by unfold modWarp; split <;> simp
@[simp] theorem modWarp_moduleOver : (s.modWarp u i f).moduleOver = s.moduleOver := by unfold modWarp; split <;> simp
@[simp] theorem modWarp_dies : (s.modWarp u i f).dies = s.dies := by unfold modWarp; split <;> simp
@[simp] theorem modWarp_cores : (s.modWarp u i f).cores = s.cores := by unfold modWarp; split <;> simp
@[simp] theorem modWarp_contexts : (s.modWarp u i f).contexts = s.contexts := by unfold modWarp; split <;> simp
@[simp] theorem modWarp_pages : (s.modWarp u i f).pages = s.pages := by unfold modWarp; split <;> simp
@[simp] theorem modWarp_launches : (s.modWarp u i f).launches = s.launches := by unfold modWarp; split <;> simp
@[simp] theorem modWarp_gangs : (s.modWarp u i f).gangs = s.gangs := by unfold modWarp; split <;> simp
@[simp] theorem modWarp_jobs : (s.modWarp u i f).jobs = s.jobs := by unfold modWarp; split <;> simp
@[simp] theorem modWarp_invals : (s.modWarp u i f).invals = s.invals := by unfold modWarp; split <;> simp
@[simp] theorem modWarp_sessions : (s.modWarp u i f).sessions = s.sessions := by unfold modWarp; split <;> simp
@[simp] theorem modWarp_routes : (s.modWarp u i f).routes = s.routes := by unfold modWarp; split <;> simp
@[simp] theorem modWarp_peerPending : (s.modWarp u i f).peerPending = s.peerPending := by unfold modWarp; split <;> simp
@[simp] theorem modWarp_inbound : (s.modWarp u i f).inbound = s.inbound := by unfold modWarp; split <;> simp
@[simp] theorem modWarp_waiting : (s.modWarp u i f).waiting = s.waiting := by unfold modWarp; split <;> simp
@[simp] theorem modWarp_hostEarly : (s.modWarp u i f).hostEarly = s.hostEarly := by unfold modWarp; split <;> simp
@[simp] theorem modWarp_xmssLimit : (s.modWarp u i f).xmssLimit = s.xmssLimit := by unfold modWarp; split <;> simp
@[simp] theorem modWarp_xmssNext : (s.modWarp u i f).xmssNext = s.xmssNext := by unfold modWarp; split <;> simp
@[simp] theorem modWarp_identityLimit : (s.modWarp u i f).identityLimit = s.identityLimit := by unfold modWarp; split <;> simp
@[simp] theorem modWarp_identityNext : (s.modWarp u i f).identityNext = s.identityNext := by unfold modWarp; split <;> simp
@[simp] theorem modWarp_capsuleId : (s.modWarp u i f).capsuleId = s.capsuleId := by unfold modWarp; split <;> simp
@[simp] theorem modWarp_capsule : (s.modWarp u i f).capsule = s.capsule := by unfold modWarp; split <;> simp
@[simp] theorem modWarp_origins : (s.modWarp u i f).origins = s.origins := by unfold modWarp; split <;> simp
@[simp] theorem modWarp_irqs : (s.modWarp u i f).irqs = s.irqs := by unfold modWarp; split <;> simp
@[simp] theorem modWarp_hostOut : (s.modWarp u i f).hostOut = s.hostOut := by unfold modWarp; split <;> simp
@[simp] theorem modWarp_hostFail : (s.modWarp u i f).hostFail = s.hostFail := by unfold modWarp; split <;> simp
@[simp] theorem modWarp_mgmtOut : (s.modWarp u i f).mgmtOut = s.mgmtOut := by unfold modWarp; split <;> simp
@[simp] theorem modWarp_mgmtBusy : (s.modWarp u i f).mgmtBusy = s.mgmtBusy := by unfold modWarp; split <;> simp
@[simp] theorem modWarp_debugger : (s.modWarp u i f).debugger = s.debugger := by unfold modWarp; split <;> simp
@[simp] theorem modWarp_debugOut : (s.modWarp u i f).debugOut = s.debugOut := by unfold modWarp; split <;> simp
@[simp] theorem modWarp_nextUid : (s.modWarp u i f).nextUid = s.nextUid := by unfold modWarp; split <;> simp

end modWarp

section modWg
variable (u : Nat) (f : WorkGroup → WorkGroup)

@[simp] theorem modWg_agenda : (s.modWg u f).agenda = s.agenda := by unfold modWg; split <;> rfl
@[simp] theorem modWg_tick : (s.modWg u f).tick = s.tick := by unfold modWg; split <;> rfl
@[simp] theorem modWg_cur : (s.modWg u f).cur = s.cur := by unfold modWg; split <;> rfl
@[simp] theorem modWg_order : (s.modWg u f).order = s.order := by unfold modWg; split <;> rfl
@[simp] theorem modWg_time : (s.modWg u f).time = s.time := by unfold modWg; split <;> rfl
@[simp] theorem modWg_sub : (s.modWg u f).sub = s.sub := by unfold modWg; split <;> rfl
@[simp] theorem modWg_mem : (s.modWg u f).mem = s.mem := by unfold modWg; split <;> rfl
@[simp] theorem modWg_hbmBad : (s.modWg u f).hbmBad = s.hbmBad := by unfold modWg; split <;> rfl
@[simp] theorem modWg_ready : (s.modWg u f).ready = s.ready := by unfold modWg; split <;> rfl
@[simp] theorem modWg_warm : (s.modWg u f).warm = s.warm := by unfold modWg; split <;> rfl
@[simp] theorem modWg_held : (s.modWg u f).held = s.held := by unfold modWg; split <;> rfl
@[simp] theorem modWg_frozen : (s.modWg u f).frozen = s.frozen := by unfold modWg; split <;> rfl
@[simp] theorem modWg_step_ : (s.modWg u f).step_ = s.step_ := by unfold modWg; split <;> rfl
@[simp] theorem modWg_error : (s.modWg u f).error = s.error := by unfold modWg; split <;> rfl
@[simp] theorem modWg_resetAt : (s.modWg u f).resetAt = s.resetAt := by unfold modWg; split <;> rfl
@[simp] theorem modWg_powered : (s.modWg u f).powered = s.powered := by unfold modWg; split <;> rfl
@[simp] theorem modWg_barWindow : (s.modWg u f).barWindow = s.barWindow := by unfold modWg; split <;> rfl
@[simp] theorem modWg_moduleOver : (s.modWg u f).moduleOver = s.moduleOver := by unfold modWg; split <;> rfl
@[simp] theorem modWg_dies : (s.modWg u f).dies = s.dies := by unfold modWg; split <;> rfl
@[simp] theorem modWg_cores : (s.modWg u f).cores = s.cores := by unfold modWg; split <;> rfl
@[simp] theorem modWg_contexts : (s.modWg u f).contexts = s.contexts := by unfold modWg; split <;> rfl
@[simp] theorem modWg_pages : (s.modWg u f).pages = s.pages := by unfold modWg; split <;> rfl
@[simp] theorem modWg_launches : (s.modWg u f).launches = s.launches := by unfold modWg; split <;> rfl
@[simp] theorem modWg_gangs : (s.modWg u f).gangs = s.gangs := by unfold modWg; split <;> rfl
@[simp] theorem modWg_jobs : (s.modWg u f).jobs = s.jobs := by unfold modWg; split <;> rfl
@[simp] theorem modWg_invals : (s.modWg u f).invals = s.invals := by unfold modWg; split <;> rfl
@[simp] theorem modWg_sessions : (s.modWg u f).sessions = s.sessions := by unfold modWg; split <;> rfl
@[simp] theorem modWg_routes : (s.modWg u f).routes = s.routes := by unfold modWg; split <;> rfl
@[simp] theorem modWg_peerPending : (s.modWg u f).peerPending = s.peerPending := by unfold modWg; split <;> rfl
@[simp] theorem modWg_inbound : (s.modWg u f).inbound = s.inbound := by unfold modWg; split <;> rfl
@[simp] theorem modWg_waiting : (s.modWg u f).waiting = s.waiting := by unfold modWg; split <;> rfl
@[simp] theorem modWg_hostEarly : (s.modWg u f).hostEarly = s.hostEarly := by unfold modWg; split <;> rfl
@[simp] theorem modWg_xmssLimit : (s.modWg u f).xmssLimit = s.xmssLimit := by unfold modWg; split <;> rfl
@[simp] theorem modWg_xmssNext : (s.modWg u f).xmssNext = s.xmssNext := by unfold modWg; split <;> rfl
@[simp] theorem modWg_identityLimit : (s.modWg u f).identityLimit = s.identityLimit := by unfold modWg; split <;> rfl
@[simp] theorem modWg_identityNext : (s.modWg u f).identityNext = s.identityNext := by unfold modWg; split <;> rfl
@[simp] theorem modWg_capsuleId : (s.modWg u f).capsuleId = s.capsuleId := by unfold modWg; split <;> rfl
@[simp] theorem modWg_capsule : (s.modWg u f).capsule = s.capsule := by unfold modWg; split <;> rfl
@[simp] theorem modWg_origins : (s.modWg u f).origins = s.origins := by unfold modWg; split <;> rfl
@[simp] theorem modWg_irqs : (s.modWg u f).irqs = s.irqs := by unfold modWg; split <;> rfl
@[simp] theorem modWg_hostOut : (s.modWg u f).hostOut = s.hostOut := by unfold modWg; split <;> rfl
@[simp] theorem modWg_hostFail : (s.modWg u f).hostFail = s.hostFail := by unfold modWg; split <;> rfl
@[simp] theorem modWg_mgmtOut : (s.modWg u f).mgmtOut = s.mgmtOut := by unfold modWg; split <;> rfl
@[simp] theorem modWg_mgmtBusy : (s.modWg u f).mgmtBusy = s.mgmtBusy := by unfold modWg; split <;> rfl
@[simp] theorem modWg_debugger : (s.modWg u f).debugger = s.debugger := by unfold modWg; split <;> rfl
@[simp] theorem modWg_debugOut : (s.modWg u f).debugOut = s.debugOut := by unfold modWg; split <;> rfl
@[simp] theorem modWg_nextUid : (s.modWg u f).nextUid = s.nextUid := by unfold modWg; split <;> rfl

end modWg

section setCore
variable (c : Nat) (k : Core)

@[simp] theorem setCore_agenda : (s.setCore c k).agenda = s.agenda := rfl
@[simp] theorem setCore_tick : (s.setCore c k).tick = s.tick := rfl
@[simp] theorem setCore_cur : (s.setCore c k).cur = s.cur := rfl
@[simp] theorem setCore_order : (s.setCore c k).order = s.order := rfl
@[simp] theorem setCore_time : (s.setCore c k).time = s.time := rfl
@[simp] theorem setCore_sub : (s.setCore c k).sub = s.sub := rfl
@[simp] theorem setCore_mem : (s.setCore c k).mem = s.mem := rfl
@[simp] theorem setCore_hbmBad : (s.setCore c k).hbmBad = s.hbmBad := rfl
@[simp] theorem setCore_ready : (s.setCore c k).ready = s.ready := rfl
@[simp] theorem setCore_warm : (s.setCore c k).warm = s.warm := rfl
@[simp] theorem setCore_held : (s.setCore c k).held = s.held := rfl
@[simp] theorem setCore_frozen : (s.setCore c k).frozen = s.frozen := rfl
@[simp] theorem setCore_step_ : (s.setCore c k).step_ = s.step_ := rfl
@[simp] theorem setCore_error : (s.setCore c k).error = s.error := rfl
@[simp] theorem setCore_resetAt : (s.setCore c k).resetAt = s.resetAt := rfl
@[simp] theorem setCore_powered : (s.setCore c k).powered = s.powered := rfl
@[simp] theorem setCore_barWindow : (s.setCore c k).barWindow = s.barWindow := rfl
@[simp] theorem setCore_moduleOver : (s.setCore c k).moduleOver = s.moduleOver := rfl
@[simp] theorem setCore_dies : (s.setCore c k).dies = s.dies := rfl
@[simp] theorem setCore_contexts : (s.setCore c k).contexts = s.contexts := rfl
@[simp] theorem setCore_pages : (s.setCore c k).pages = s.pages := rfl
@[simp] theorem setCore_launches : (s.setCore c k).launches = s.launches := rfl
@[simp] theorem setCore_wgs : (s.setCore c k).wgs = s.wgs := rfl
@[simp] theorem setCore_gangs : (s.setCore c k).gangs = s.gangs := rfl
@[simp] theorem setCore_jobs : (s.setCore c k).jobs = s.jobs := rfl
@[simp] theorem setCore_invals : (s.setCore c k).invals = s.invals := rfl
@[simp] theorem setCore_sessions : (s.setCore c k).sessions = s.sessions := rfl
@[simp] theorem setCore_routes : (s.setCore c k).routes = s.routes := rfl
@[simp] theorem setCore_peerPending : (s.setCore c k).peerPending = s.peerPending := rfl
@[simp] theorem setCore_inbound : (s.setCore c k).inbound = s.inbound := rfl
@[simp] theorem setCore_waiting : (s.setCore c k).waiting = s.waiting := rfl
@[simp] theorem setCore_hostEarly : (s.setCore c k).hostEarly = s.hostEarly := rfl
@[simp] theorem setCore_xmssLimit : (s.setCore c k).xmssLimit = s.xmssLimit := rfl
@[simp] theorem setCore_xmssNext : (s.setCore c k).xmssNext = s.xmssNext := rfl
@[simp] theorem setCore_identityLimit : (s.setCore c k).identityLimit = s.identityLimit := rfl
@[simp] theorem setCore_identityNext : (s.setCore c k).identityNext = s.identityNext := rfl
@[simp] theorem setCore_capsuleId : (s.setCore c k).capsuleId = s.capsuleId := rfl
@[simp] theorem setCore_capsule : (s.setCore c k).capsule = s.capsule := rfl
@[simp] theorem setCore_origins : (s.setCore c k).origins = s.origins := rfl
@[simp] theorem setCore_irqs : (s.setCore c k).irqs = s.irqs := rfl
@[simp] theorem setCore_hostOut : (s.setCore c k).hostOut = s.hostOut := rfl
@[simp] theorem setCore_hostFail : (s.setCore c k).hostFail = s.hostFail := rfl
@[simp] theorem setCore_mgmtOut : (s.setCore c k).mgmtOut = s.mgmtOut := rfl
@[simp] theorem setCore_mgmtBusy : (s.setCore c k).mgmtBusy = s.mgmtBusy := rfl
@[simp] theorem setCore_debugger : (s.setCore c k).debugger = s.debugger := rfl
@[simp] theorem setCore_debugOut : (s.setCore c k).debugOut = s.debugOut := rfl
@[simp] theorem setCore_nextUid : (s.setCore c k).nextUid = s.nextUid := rfl

end setCore

section modCore
variable (c : Nat) (f : Core → Core)

@[simp] theorem modCore_agenda : (s.modCore c f).agenda = s.agenda := rfl
@[simp] theorem modCore_tick : (s.modCore c f).tick = s.tick := rfl
@[simp] theorem modCore_cur : (s.modCore c f).cur = s.cur := rfl
@[simp] theorem modCore_order : (s.modCore c f).order = s.order := rfl
@[simp] theorem modCore_time : (s.modCore c f).time = s.time := rfl
@[simp] theorem modCore_sub : (s.modCore c f).sub = s.sub := rfl
@[simp] theorem modCore_mem : (s.modCore c f).mem = s.mem := rfl
@[simp] theorem modCore_hbmBad : (s.modCore c f).hbmBad = s.hbmBad := rfl
@[simp] theorem modCore_ready : (s.modCore c f).ready = s.ready := rfl
@[simp] theorem modCore_warm : (s.modCore c f).warm = s.warm := rfl
@[simp] theorem modCore_held : (s.modCore c f).held = s.held := rfl
@[simp] theorem modCore_frozen : (s.modCore c f).frozen = s.frozen := rfl
@[simp] theorem modCore_step_ : (s.modCore c f).step_ = s.step_ := rfl
@[simp] theorem modCore_error : (s.modCore c f).error = s.error := rfl
@[simp] theorem modCore_resetAt : (s.modCore c f).resetAt = s.resetAt := rfl
@[simp] theorem modCore_powered : (s.modCore c f).powered = s.powered := rfl
@[simp] theorem modCore_barWindow : (s.modCore c f).barWindow = s.barWindow := rfl
@[simp] theorem modCore_moduleOver : (s.modCore c f).moduleOver = s.moduleOver := rfl
@[simp] theorem modCore_dies : (s.modCore c f).dies = s.dies := rfl
@[simp] theorem modCore_contexts : (s.modCore c f).contexts = s.contexts := rfl
@[simp] theorem modCore_pages : (s.modCore c f).pages = s.pages := rfl
@[simp] theorem modCore_launches : (s.modCore c f).launches = s.launches := rfl
@[simp] theorem modCore_wgs : (s.modCore c f).wgs = s.wgs := rfl
@[simp] theorem modCore_gangs : (s.modCore c f).gangs = s.gangs := rfl
@[simp] theorem modCore_jobs : (s.modCore c f).jobs = s.jobs := rfl
@[simp] theorem modCore_invals : (s.modCore c f).invals = s.invals := rfl
@[simp] theorem modCore_sessions : (s.modCore c f).sessions = s.sessions := rfl
@[simp] theorem modCore_routes : (s.modCore c f).routes = s.routes := rfl
@[simp] theorem modCore_peerPending : (s.modCore c f).peerPending = s.peerPending := rfl
@[simp] theorem modCore_inbound : (s.modCore c f).inbound = s.inbound := rfl
@[simp] theorem modCore_waiting : (s.modCore c f).waiting = s.waiting := rfl
@[simp] theorem modCore_hostEarly : (s.modCore c f).hostEarly = s.hostEarly := rfl
@[simp] theorem modCore_xmssLimit : (s.modCore c f).xmssLimit = s.xmssLimit := rfl
@[simp] theorem modCore_xmssNext : (s.modCore c f).xmssNext = s.xmssNext := rfl
@[simp] theorem modCore_identityLimit : (s.modCore c f).identityLimit = s.identityLimit := rfl
@[simp] theorem modCore_identityNext : (s.modCore c f).identityNext = s.identityNext := rfl
@[simp] theorem modCore_capsuleId : (s.modCore c f).capsuleId = s.capsuleId := rfl
@[simp] theorem modCore_capsule : (s.modCore c f).capsule = s.capsule := rfl
@[simp] theorem modCore_origins : (s.modCore c f).origins = s.origins := rfl
@[simp] theorem modCore_irqs : (s.modCore c f).irqs = s.irqs := rfl
@[simp] theorem modCore_hostOut : (s.modCore c f).hostOut = s.hostOut := rfl
@[simp] theorem modCore_hostFail : (s.modCore c f).hostFail = s.hostFail := rfl
@[simp] theorem modCore_mgmtOut : (s.modCore c f).mgmtOut = s.mgmtOut := rfl
@[simp] theorem modCore_mgmtBusy : (s.modCore c f).mgmtBusy = s.mgmtBusy := rfl
@[simp] theorem modCore_debugger : (s.modCore c f).debugger = s.debugger := rfl
@[simp] theorem modCore_debugOut : (s.modCore c f).debugOut = s.debugOut := rfl
@[simp] theorem modCore_nextUid : (s.modCore c f).nextUid = s.nextUid := rfl

end modCore

section setDie
variable (d : Nat) (k : Die)

@[simp] theorem setDie_agenda : (s.setDie d k).agenda = s.agenda := rfl
@[simp] theorem setDie_tick : (s.setDie d k).tick = s.tick := rfl
@[simp] theorem setDie_cur : (s.setDie d k).cur = s.cur := rfl
@[simp] theorem setDie_order : (s.setDie d k).order = s.order := rfl
@[simp] theorem setDie_time : (s.setDie d k).time = s.time := rfl
@[simp] theorem setDie_sub : (s.setDie d k).sub = s.sub := rfl
@[simp] theorem setDie_mem : (s.setDie d k).mem = s.mem := rfl
@[simp] theorem setDie_hbmBad : (s.setDie d k).hbmBad = s.hbmBad := rfl
@[simp] theorem setDie_ready : (s.setDie d k).ready = s.ready := rfl
@[simp] theorem setDie_warm : (s.setDie d k).warm = s.warm := rfl
@[simp] theorem setDie_held : (s.setDie d k).held = s.held := rfl
@[simp] theorem setDie_frozen : (s.setDie d k).frozen = s.frozen := rfl
@[simp] theorem setDie_step_ : (s.setDie d k).step_ = s.step_ := rfl
@[simp] theorem setDie_error : (s.setDie d k).error = s.error := rfl
@[simp] theorem setDie_resetAt : (s.setDie d k).resetAt = s.resetAt := rfl
@[simp] theorem setDie_powered : (s.setDie d k).powered = s.powered := rfl
@[simp] theorem setDie_barWindow : (s.setDie d k).barWindow = s.barWindow := rfl
@[simp] theorem setDie_moduleOver : (s.setDie d k).moduleOver = s.moduleOver := rfl
@[simp] theorem setDie_cores : (s.setDie d k).cores = s.cores := rfl
@[simp] theorem setDie_contexts : (s.setDie d k).contexts = s.contexts := rfl
@[simp] theorem setDie_pages : (s.setDie d k).pages = s.pages := rfl
@[simp] theorem setDie_launches : (s.setDie d k).launches = s.launches := rfl
@[simp] theorem setDie_wgs : (s.setDie d k).wgs = s.wgs := rfl
@[simp] theorem setDie_gangs : (s.setDie d k).gangs = s.gangs := rfl
@[simp] theorem setDie_jobs : (s.setDie d k).jobs = s.jobs := rfl
@[simp] theorem setDie_invals : (s.setDie d k).invals = s.invals := rfl
@[simp] theorem setDie_sessions : (s.setDie d k).sessions = s.sessions := rfl
@[simp] theorem setDie_routes : (s.setDie d k).routes = s.routes := rfl
@[simp] theorem setDie_peerPending : (s.setDie d k).peerPending = s.peerPending := rfl
@[simp] theorem setDie_inbound : (s.setDie d k).inbound = s.inbound := rfl
@[simp] theorem setDie_waiting : (s.setDie d k).waiting = s.waiting := rfl
@[simp] theorem setDie_hostEarly : (s.setDie d k).hostEarly = s.hostEarly := rfl
@[simp] theorem setDie_xmssLimit : (s.setDie d k).xmssLimit = s.xmssLimit := rfl
@[simp] theorem setDie_xmssNext : (s.setDie d k).xmssNext = s.xmssNext := rfl
@[simp] theorem setDie_identityLimit : (s.setDie d k).identityLimit = s.identityLimit := rfl
@[simp] theorem setDie_identityNext : (s.setDie d k).identityNext = s.identityNext := rfl
@[simp] theorem setDie_capsuleId : (s.setDie d k).capsuleId = s.capsuleId := rfl
@[simp] theorem setDie_capsule : (s.setDie d k).capsule = s.capsule := rfl
@[simp] theorem setDie_origins : (s.setDie d k).origins = s.origins := rfl
@[simp] theorem setDie_irqs : (s.setDie d k).irqs = s.irqs := rfl
@[simp] theorem setDie_hostOut : (s.setDie d k).hostOut = s.hostOut := rfl
@[simp] theorem setDie_hostFail : (s.setDie d k).hostFail = s.hostFail := rfl
@[simp] theorem setDie_mgmtOut : (s.setDie d k).mgmtOut = s.mgmtOut := rfl
@[simp] theorem setDie_mgmtBusy : (s.setDie d k).mgmtBusy = s.mgmtBusy := rfl
@[simp] theorem setDie_debugger : (s.setDie d k).debugger = s.debugger := rfl
@[simp] theorem setDie_debugOut : (s.setDie d k).debugOut = s.debugOut := rfl
@[simp] theorem setDie_nextUid : (s.setDie d k).nextUid = s.nextUid := rfl

end setDie

section modDie
variable (d : Nat) (f : Die → Die)

@[simp] theorem modDie_agenda : (s.modDie d f).agenda = s.agenda := rfl
@[simp] theorem modDie_tick : (s.modDie d f).tick = s.tick := rfl
@[simp] theorem modDie_cur : (s.modDie d f).cur = s.cur := rfl
@[simp] theorem modDie_order : (s.modDie d f).order = s.order := rfl
@[simp] theorem modDie_time : (s.modDie d f).time = s.time := rfl
@[simp] theorem modDie_sub : (s.modDie d f).sub = s.sub := rfl
@[simp] theorem modDie_mem : (s.modDie d f).mem = s.mem := rfl
@[simp] theorem modDie_hbmBad : (s.modDie d f).hbmBad = s.hbmBad := rfl
@[simp] theorem modDie_ready : (s.modDie d f).ready = s.ready := rfl
@[simp] theorem modDie_warm : (s.modDie d f).warm = s.warm := rfl
@[simp] theorem modDie_held : (s.modDie d f).held = s.held := rfl
@[simp] theorem modDie_frozen : (s.modDie d f).frozen = s.frozen := rfl
@[simp] theorem modDie_step_ : (s.modDie d f).step_ = s.step_ := rfl
@[simp] theorem modDie_error : (s.modDie d f).error = s.error := rfl
@[simp] theorem modDie_resetAt : (s.modDie d f).resetAt = s.resetAt := rfl
@[simp] theorem modDie_powered : (s.modDie d f).powered = s.powered := rfl
@[simp] theorem modDie_barWindow : (s.modDie d f).barWindow = s.barWindow := rfl
@[simp] theorem modDie_moduleOver : (s.modDie d f).moduleOver = s.moduleOver := rfl
@[simp] theorem modDie_cores : (s.modDie d f).cores = s.cores := rfl
@[simp] theorem modDie_contexts : (s.modDie d f).contexts = s.contexts := rfl
@[simp] theorem modDie_pages : (s.modDie d f).pages = s.pages := rfl
@[simp] theorem modDie_launches : (s.modDie d f).launches = s.launches := rfl
@[simp] theorem modDie_wgs : (s.modDie d f).wgs = s.wgs := rfl
@[simp] theorem modDie_gangs : (s.modDie d f).gangs = s.gangs := rfl
@[simp] theorem modDie_jobs : (s.modDie d f).jobs = s.jobs := rfl
@[simp] theorem modDie_invals : (s.modDie d f).invals = s.invals := rfl
@[simp] theorem modDie_sessions : (s.modDie d f).sessions = s.sessions := rfl
@[simp] theorem modDie_routes : (s.modDie d f).routes = s.routes := rfl
@[simp] theorem modDie_peerPending : (s.modDie d f).peerPending = s.peerPending := rfl
@[simp] theorem modDie_inbound : (s.modDie d f).inbound = s.inbound := rfl
@[simp] theorem modDie_waiting : (s.modDie d f).waiting = s.waiting := rfl
@[simp] theorem modDie_hostEarly : (s.modDie d f).hostEarly = s.hostEarly := rfl
@[simp] theorem modDie_xmssLimit : (s.modDie d f).xmssLimit = s.xmssLimit := rfl
@[simp] theorem modDie_xmssNext : (s.modDie d f).xmssNext = s.xmssNext := rfl
@[simp] theorem modDie_identityLimit : (s.modDie d f).identityLimit = s.identityLimit := rfl
@[simp] theorem modDie_identityNext : (s.modDie d f).identityNext = s.identityNext := rfl
@[simp] theorem modDie_capsuleId : (s.modDie d f).capsuleId = s.capsuleId := rfl
@[simp] theorem modDie_capsule : (s.modDie d f).capsule = s.capsule := rfl
@[simp] theorem modDie_origins : (s.modDie d f).origins = s.origins := rfl
@[simp] theorem modDie_irqs : (s.modDie d f).irqs = s.irqs := rfl
@[simp] theorem modDie_hostOut : (s.modDie d f).hostOut = s.hostOut := rfl
@[simp] theorem modDie_hostFail : (s.modDie d f).hostFail = s.hostFail := rfl
@[simp] theorem modDie_mgmtOut : (s.modDie d f).mgmtOut = s.mgmtOut := rfl
@[simp] theorem modDie_mgmtBusy : (s.modDie d f).mgmtBusy = s.mgmtBusy := rfl
@[simp] theorem modDie_debugger : (s.modDie d f).debugger = s.debugger := rfl
@[simp] theorem modDie_debugOut : (s.modDie d f).debugOut = s.debugOut := rfl
@[simp] theorem modDie_nextUid : (s.modDie d f).nextUid = s.nextUid := rfl

end modDie

section setPage
variable (c : Nat) (p : Page)

@[simp] theorem setPage_agenda : (s.setPage c p).agenda = s.agenda := rfl
@[simp] theorem setPage_tick : (s.setPage c p).tick = s.tick := rfl
@[simp] theorem setPage_cur : (s.setPage c p).cur = s.cur := rfl
@[simp] theorem setPage_order : (s.setPage c p).order = s.order := rfl
@[simp] theorem setPage_time : (s.setPage c p).time = s.time := rfl
@[simp] theorem setPage_sub : (s.setPage c p).sub = s.sub := rfl
@[simp] theorem setPage_mem : (s.setPage c p).mem = s.mem := rfl
@[simp] theorem setPage_hbmBad : (s.setPage c p).hbmBad = s.hbmBad := rfl
@[simp] theorem setPage_ready : (s.setPage c p).ready = s.ready := rfl
@[simp] theorem setPage_warm : (s.setPage c p).warm = s.warm := rfl
@[simp] theorem setPage_held : (s.setPage c p).held = s.held := rfl
@[simp] theorem setPage_frozen : (s.setPage c p).frozen = s.frozen := rfl
@[simp] theorem setPage_step_ : (s.setPage c p).step_ = s.step_ := rfl
@[simp] theorem setPage_error : (s.setPage c p).error = s.error := rfl
@[simp] theorem setPage_resetAt : (s.setPage c p).resetAt = s.resetAt := rfl
@[simp] theorem setPage_powered : (s.setPage c p).powered = s.powered := rfl
@[simp] theorem setPage_barWindow : (s.setPage c p).barWindow = s.barWindow := rfl
@[simp] theorem setPage_moduleOver : (s.setPage c p).moduleOver = s.moduleOver := rfl
@[simp] theorem setPage_dies : (s.setPage c p).dies = s.dies := rfl
@[simp] theorem setPage_cores : (s.setPage c p).cores = s.cores := rfl
@[simp] theorem setPage_contexts : (s.setPage c p).contexts = s.contexts := rfl
@[simp] theorem setPage_launches : (s.setPage c p).launches = s.launches := rfl
@[simp] theorem setPage_wgs : (s.setPage c p).wgs = s.wgs := rfl
@[simp] theorem setPage_gangs : (s.setPage c p).gangs = s.gangs := rfl
@[simp] theorem setPage_jobs : (s.setPage c p).jobs = s.jobs := rfl
@[simp] theorem setPage_invals : (s.setPage c p).invals = s.invals := rfl
@[simp] theorem setPage_sessions : (s.setPage c p).sessions = s.sessions := rfl
@[simp] theorem setPage_routes : (s.setPage c p).routes = s.routes := rfl
@[simp] theorem setPage_peerPending : (s.setPage c p).peerPending = s.peerPending := rfl
@[simp] theorem setPage_inbound : (s.setPage c p).inbound = s.inbound := rfl
@[simp] theorem setPage_waiting : (s.setPage c p).waiting = s.waiting := rfl
@[simp] theorem setPage_hostEarly : (s.setPage c p).hostEarly = s.hostEarly := rfl
@[simp] theorem setPage_xmssLimit : (s.setPage c p).xmssLimit = s.xmssLimit := rfl
@[simp] theorem setPage_xmssNext : (s.setPage c p).xmssNext = s.xmssNext := rfl
@[simp] theorem setPage_identityLimit : (s.setPage c p).identityLimit = s.identityLimit := rfl
@[simp] theorem setPage_identityNext : (s.setPage c p).identityNext = s.identityNext := rfl
@[simp] theorem setPage_capsuleId : (s.setPage c p).capsuleId = s.capsuleId := rfl
@[simp] theorem setPage_capsule : (s.setPage c p).capsule = s.capsule := rfl
@[simp] theorem setPage_origins : (s.setPage c p).origins = s.origins := rfl
@[simp] theorem setPage_irqs : (s.setPage c p).irqs = s.irqs := rfl
@[simp] theorem setPage_hostOut : (s.setPage c p).hostOut = s.hostOut := rfl
@[simp] theorem setPage_hostFail : (s.setPage c p).hostFail = s.hostFail := rfl
@[simp] theorem setPage_mgmtOut : (s.setPage c p).mgmtOut = s.mgmtOut := rfl
@[simp] theorem setPage_mgmtBusy : (s.setPage c p).mgmtBusy = s.mgmtBusy := rfl
@[simp] theorem setPage_debugger : (s.setPage c p).debugger = s.debugger := rfl
@[simp] theorem setPage_debugOut : (s.setPage c p).debugOut = s.debugOut := rfl
@[simp] theorem setPage_nextUid : (s.setPage c p).nextUid = s.nextUid := rfl

end setPage

section modCtx
variable (c : Nat) (f : Context → Context)

@[simp] theorem modCtx_agenda : (s.modCtx c f).agenda = s.agenda := by unfold modCtx; split <;> rfl
@[simp] theorem modCtx_tick : (s.modCtx c f).tick = s.tick := by unfold modCtx; split <;> rfl
@[simp] theorem modCtx_cur : (s.modCtx c f).cur = s.cur := by unfold modCtx; split <;> rfl
@[simp] theorem modCtx_order : (s.modCtx c f).order = s.order := by unfold modCtx; split <;> rfl
@[simp] theorem modCtx_time : (s.modCtx c f).time = s.time := by unfold modCtx; split <;> rfl
@[simp] theorem modCtx_sub : (s.modCtx c f).sub = s.sub := by unfold modCtx; split <;> rfl
@[simp] theorem modCtx_mem : (s.modCtx c f).mem = s.mem := by unfold modCtx; split <;> rfl
@[simp] theorem modCtx_hbmBad : (s.modCtx c f).hbmBad = s.hbmBad := by unfold modCtx; split <;> rfl
@[simp] theorem modCtx_ready : (s.modCtx c f).ready = s.ready := by unfold modCtx; split <;> rfl
@[simp] theorem modCtx_warm : (s.modCtx c f).warm = s.warm := by unfold modCtx; split <;> rfl
@[simp] theorem modCtx_held : (s.modCtx c f).held = s.held := by unfold modCtx; split <;> rfl
@[simp] theorem modCtx_frozen : (s.modCtx c f).frozen = s.frozen := by unfold modCtx; split <;> rfl
@[simp] theorem modCtx_step_ : (s.modCtx c f).step_ = s.step_ := by unfold modCtx; split <;> rfl
@[simp] theorem modCtx_error : (s.modCtx c f).error = s.error := by unfold modCtx; split <;> rfl
@[simp] theorem modCtx_resetAt : (s.modCtx c f).resetAt = s.resetAt := by unfold modCtx; split <;> rfl
@[simp] theorem modCtx_powered : (s.modCtx c f).powered = s.powered := by unfold modCtx; split <;> rfl
@[simp] theorem modCtx_barWindow : (s.modCtx c f).barWindow = s.barWindow := by unfold modCtx; split <;> rfl
@[simp] theorem modCtx_moduleOver : (s.modCtx c f).moduleOver = s.moduleOver := by unfold modCtx; split <;> rfl
@[simp] theorem modCtx_dies : (s.modCtx c f).dies = s.dies := by unfold modCtx; split <;> rfl
@[simp] theorem modCtx_cores : (s.modCtx c f).cores = s.cores := by unfold modCtx; split <;> rfl
@[simp] theorem modCtx_pages : (s.modCtx c f).pages = s.pages := by unfold modCtx; split <;> rfl
@[simp] theorem modCtx_launches : (s.modCtx c f).launches = s.launches := by unfold modCtx; split <;> rfl
@[simp] theorem modCtx_wgs : (s.modCtx c f).wgs = s.wgs := by unfold modCtx; split <;> rfl
@[simp] theorem modCtx_gangs : (s.modCtx c f).gangs = s.gangs := by unfold modCtx; split <;> rfl
@[simp] theorem modCtx_jobs : (s.modCtx c f).jobs = s.jobs := by unfold modCtx; split <;> rfl
@[simp] theorem modCtx_invals : (s.modCtx c f).invals = s.invals := by unfold modCtx; split <;> rfl
@[simp] theorem modCtx_sessions : (s.modCtx c f).sessions = s.sessions := by unfold modCtx; split <;> rfl
@[simp] theorem modCtx_routes : (s.modCtx c f).routes = s.routes := by unfold modCtx; split <;> rfl
@[simp] theorem modCtx_peerPending : (s.modCtx c f).peerPending = s.peerPending := by unfold modCtx; split <;> rfl
@[simp] theorem modCtx_inbound : (s.modCtx c f).inbound = s.inbound := by unfold modCtx; split <;> rfl
@[simp] theorem modCtx_waiting : (s.modCtx c f).waiting = s.waiting := by unfold modCtx; split <;> rfl
@[simp] theorem modCtx_hostEarly : (s.modCtx c f).hostEarly = s.hostEarly := by unfold modCtx; split <;> rfl
@[simp] theorem modCtx_xmssLimit : (s.modCtx c f).xmssLimit = s.xmssLimit := by unfold modCtx; split <;> rfl
@[simp] theorem modCtx_xmssNext : (s.modCtx c f).xmssNext = s.xmssNext := by unfold modCtx; split <;> rfl
@[simp] theorem modCtx_identityLimit : (s.modCtx c f).identityLimit = s.identityLimit := by unfold modCtx; split <;> rfl
@[simp] theorem modCtx_identityNext : (s.modCtx c f).identityNext = s.identityNext := by unfold modCtx; split <;> rfl
@[simp] theorem modCtx_capsuleId : (s.modCtx c f).capsuleId = s.capsuleId := by unfold modCtx; split <;> rfl
@[simp] theorem modCtx_capsule : (s.modCtx c f).capsule = s.capsule := by unfold modCtx; split <;> rfl
@[simp] theorem modCtx_origins : (s.modCtx c f).origins = s.origins := by unfold modCtx; split <;> rfl
@[simp] theorem modCtx_irqs : (s.modCtx c f).irqs = s.irqs := by unfold modCtx; split <;> rfl
@[simp] theorem modCtx_hostOut : (s.modCtx c f).hostOut = s.hostOut := by unfold modCtx; split <;> rfl
@[simp] theorem modCtx_hostFail : (s.modCtx c f).hostFail = s.hostFail := by unfold modCtx; split <;> rfl
@[simp] theorem modCtx_mgmtOut : (s.modCtx c f).mgmtOut = s.mgmtOut := by unfold modCtx; split <;> rfl
@[simp] theorem modCtx_mgmtBusy : (s.modCtx c f).mgmtBusy = s.mgmtBusy := by unfold modCtx; split <;> rfl
@[simp] theorem modCtx_debugger : (s.modCtx c f).debugger = s.debugger := by unfold modCtx; split <;> rfl
@[simp] theorem modCtx_debugOut : (s.modCtx c f).debugOut = s.debugOut := by unfold modCtx; split <;> rfl
@[simp] theorem modCtx_nextUid : (s.modCtx c f).nextUid = s.nextUid := by unfold modCtx; split <;> rfl

end modCtx

section modLaunch
variable (l : Nat) (f : Launch → Launch)

@[simp] theorem modLaunch_agenda : (s.modLaunch l f).agenda = s.agenda := by unfold modLaunch; split <;> rfl
@[simp] theorem modLaunch_tick : (s.modLaunch l f).tick = s.tick := by unfold modLaunch; split <;> rfl
@[simp] theorem modLaunch_cur : (s.modLaunch l f).cur = s.cur := by unfold modLaunch; split <;> rfl
@[simp] theorem modLaunch_order : (s.modLaunch l f).order = s.order := by unfold modLaunch; split <;> rfl
@[simp] theorem modLaunch_time : (s.modLaunch l f).time = s.time := by unfold modLaunch; split <;> rfl
@[simp] theorem modLaunch_sub : (s.modLaunch l f).sub = s.sub := by unfold modLaunch; split <;> rfl
@[simp] theorem modLaunch_mem : (s.modLaunch l f).mem = s.mem := by unfold modLaunch; split <;> rfl
@[simp] theorem modLaunch_hbmBad : (s.modLaunch l f).hbmBad = s.hbmBad := by unfold modLaunch; split <;> rfl
@[simp] theorem modLaunch_ready : (s.modLaunch l f).ready = s.ready := by unfold modLaunch; split <;> rfl
@[simp] theorem modLaunch_warm : (s.modLaunch l f).warm = s.warm := by unfold modLaunch; split <;> rfl
@[simp] theorem modLaunch_held : (s.modLaunch l f).held = s.held := by unfold modLaunch; split <;> rfl
@[simp] theorem modLaunch_frozen : (s.modLaunch l f).frozen = s.frozen := by unfold modLaunch; split <;> rfl
@[simp] theorem modLaunch_step_ : (s.modLaunch l f).step_ = s.step_ := by unfold modLaunch; split <;> rfl
@[simp] theorem modLaunch_error : (s.modLaunch l f).error = s.error := by unfold modLaunch; split <;> rfl
@[simp] theorem modLaunch_resetAt : (s.modLaunch l f).resetAt = s.resetAt := by unfold modLaunch; split <;> rfl
@[simp] theorem modLaunch_powered : (s.modLaunch l f).powered = s.powered := by unfold modLaunch; split <;> rfl
@[simp] theorem modLaunch_barWindow : (s.modLaunch l f).barWindow = s.barWindow := by unfold modLaunch; split <;> rfl
@[simp] theorem modLaunch_moduleOver : (s.modLaunch l f).moduleOver = s.moduleOver := by unfold modLaunch; split <;> rfl
@[simp] theorem modLaunch_dies : (s.modLaunch l f).dies = s.dies := by unfold modLaunch; split <;> rfl
@[simp] theorem modLaunch_cores : (s.modLaunch l f).cores = s.cores := by unfold modLaunch; split <;> rfl
@[simp] theorem modLaunch_contexts : (s.modLaunch l f).contexts = s.contexts := by unfold modLaunch; split <;> rfl
@[simp] theorem modLaunch_pages : (s.modLaunch l f).pages = s.pages := by unfold modLaunch; split <;> rfl
@[simp] theorem modLaunch_wgs : (s.modLaunch l f).wgs = s.wgs := by unfold modLaunch; split <;> rfl
@[simp] theorem modLaunch_gangs : (s.modLaunch l f).gangs = s.gangs := by unfold modLaunch; split <;> rfl
@[simp] theorem modLaunch_jobs : (s.modLaunch l f).jobs = s.jobs := by unfold modLaunch; split <;> rfl
@[simp] theorem modLaunch_invals : (s.modLaunch l f).invals = s.invals := by unfold modLaunch; split <;> rfl
@[simp] theorem modLaunch_sessions : (s.modLaunch l f).sessions = s.sessions := by unfold modLaunch; split <;> rfl
@[simp] theorem modLaunch_routes : (s.modLaunch l f).routes = s.routes := by unfold modLaunch; split <;> rfl
@[simp] theorem modLaunch_peerPending : (s.modLaunch l f).peerPending = s.peerPending := by unfold modLaunch; split <;> rfl
@[simp] theorem modLaunch_inbound : (s.modLaunch l f).inbound = s.inbound := by unfold modLaunch; split <;> rfl
@[simp] theorem modLaunch_waiting : (s.modLaunch l f).waiting = s.waiting := by unfold modLaunch; split <;> rfl
@[simp] theorem modLaunch_hostEarly : (s.modLaunch l f).hostEarly = s.hostEarly := by unfold modLaunch; split <;> rfl
@[simp] theorem modLaunch_xmssLimit : (s.modLaunch l f).xmssLimit = s.xmssLimit := by unfold modLaunch; split <;> rfl
@[simp] theorem modLaunch_xmssNext : (s.modLaunch l f).xmssNext = s.xmssNext := by unfold modLaunch; split <;> rfl
@[simp] theorem modLaunch_identityLimit : (s.modLaunch l f).identityLimit = s.identityLimit := by unfold modLaunch; split <;> rfl
@[simp] theorem modLaunch_identityNext : (s.modLaunch l f).identityNext = s.identityNext := by unfold modLaunch; split <;> rfl
@[simp] theorem modLaunch_capsuleId : (s.modLaunch l f).capsuleId = s.capsuleId := by unfold modLaunch; split <;> rfl
@[simp] theorem modLaunch_capsule : (s.modLaunch l f).capsule = s.capsule := by unfold modLaunch; split <;> rfl
@[simp] theorem modLaunch_origins : (s.modLaunch l f).origins = s.origins := by unfold modLaunch; split <;> rfl
@[simp] theorem modLaunch_irqs : (s.modLaunch l f).irqs = s.irqs := by unfold modLaunch; split <;> rfl
@[simp] theorem modLaunch_hostOut : (s.modLaunch l f).hostOut = s.hostOut := by unfold modLaunch; split <;> rfl
@[simp] theorem modLaunch_hostFail : (s.modLaunch l f).hostFail = s.hostFail := by unfold modLaunch; split <;> rfl
@[simp] theorem modLaunch_mgmtOut : (s.modLaunch l f).mgmtOut = s.mgmtOut := by unfold modLaunch; split <;> rfl
@[simp] theorem modLaunch_mgmtBusy : (s.modLaunch l f).mgmtBusy = s.mgmtBusy := by unfold modLaunch; split <;> rfl
@[simp] theorem modLaunch_debugger : (s.modLaunch l f).debugger = s.debugger := by unfold modLaunch; split <;> rfl
@[simp] theorem modLaunch_debugOut : (s.modLaunch l f).debugOut = s.debugOut := by unfold modLaunch; split <;> rfl
@[simp] theorem modLaunch_nextUid : (s.modLaunch l f).nextUid = s.nextUid := by unfold modLaunch; split <;> rfl

end modLaunch

section modJob
variable (j : Nat) (f : Job → Job)

@[simp] theorem modJob_agenda : (s.modJob j f).agenda = s.agenda := by unfold modJob; split <;> rfl
@[simp] theorem modJob_tick : (s.modJob j f).tick = s.tick := by unfold modJob; split <;> rfl
@[simp] theorem modJob_cur : (s.modJob j f).cur = s.cur := by unfold modJob; split <;> rfl
@[simp] theorem modJob_order : (s.modJob j f).order = s.order := by unfold modJob; split <;> rfl
@[simp] theorem modJob_time : (s.modJob j f).time = s.time := by unfold modJob; split <;> rfl
@[simp] theorem modJob_sub : (s.modJob j f).sub = s.sub := by unfold modJob; split <;> rfl
@[simp] theorem modJob_mem : (s.modJob j f).mem = s.mem := by unfold modJob; split <;> rfl
@[simp] theorem modJob_hbmBad : (s.modJob j f).hbmBad = s.hbmBad := by unfold modJob; split <;> rfl
@[simp] theorem modJob_ready : (s.modJob j f).ready = s.ready := by unfold modJob; split <;> rfl
@[simp] theorem modJob_warm : (s.modJob j f).warm = s.warm := by unfold modJob; split <;> rfl
@[simp] theorem modJob_held : (s.modJob j f).held = s.held := by unfold modJob; split <;> rfl
@[simp] theorem modJob_frozen : (s.modJob j f).frozen = s.frozen := by unfold modJob; split <;> rfl
@[simp] theorem modJob_step_ : (s.modJob j f).step_ = s.step_ := by unfold modJob; split <;> rfl
@[simp] theorem modJob_error : (s.modJob j f).error = s.error := by unfold modJob; split <;> rfl
@[simp] theorem modJob_resetAt : (s.modJob j f).resetAt = s.resetAt := by unfold modJob; split <;> rfl
@[simp] theorem modJob_powered : (s.modJob j f).powered = s.powered := by unfold modJob; split <;> rfl
@[simp] theorem modJob_barWindow : (s.modJob j f).barWindow = s.barWindow := by unfold modJob; split <;> rfl
@[simp] theorem modJob_moduleOver : (s.modJob j f).moduleOver = s.moduleOver := by unfold modJob; split <;> rfl
@[simp] theorem modJob_dies : (s.modJob j f).dies = s.dies := by unfold modJob; split <;> rfl
@[simp] theorem modJob_cores : (s.modJob j f).cores = s.cores := by unfold modJob; split <;> rfl
@[simp] theorem modJob_contexts : (s.modJob j f).contexts = s.contexts := by unfold modJob; split <;> rfl
@[simp] theorem modJob_pages : (s.modJob j f).pages = s.pages := by unfold modJob; split <;> rfl
@[simp] theorem modJob_launches : (s.modJob j f).launches = s.launches := by unfold modJob; split <;> rfl
@[simp] theorem modJob_wgs : (s.modJob j f).wgs = s.wgs := by unfold modJob; split <;> rfl
@[simp] theorem modJob_gangs : (s.modJob j f).gangs = s.gangs := by unfold modJob; split <;> rfl
@[simp] theorem modJob_invals : (s.modJob j f).invals = s.invals := by unfold modJob; split <;> rfl
@[simp] theorem modJob_sessions : (s.modJob j f).sessions = s.sessions := by unfold modJob; split <;> rfl
@[simp] theorem modJob_routes : (s.modJob j f).routes = s.routes := by unfold modJob; split <;> rfl
@[simp] theorem modJob_peerPending : (s.modJob j f).peerPending = s.peerPending := by unfold modJob; split <;> rfl
@[simp] theorem modJob_inbound : (s.modJob j f).inbound = s.inbound := by unfold modJob; split <;> rfl
@[simp] theorem modJob_waiting : (s.modJob j f).waiting = s.waiting := by unfold modJob; split <;> rfl
@[simp] theorem modJob_hostEarly : (s.modJob j f).hostEarly = s.hostEarly := by unfold modJob; split <;> rfl
@[simp] theorem modJob_xmssLimit : (s.modJob j f).xmssLimit = s.xmssLimit := by unfold modJob; split <;> rfl
@[simp] theorem modJob_xmssNext : (s.modJob j f).xmssNext = s.xmssNext := by unfold modJob; split <;> rfl
@[simp] theorem modJob_identityLimit : (s.modJob j f).identityLimit = s.identityLimit := by unfold modJob; split <;> rfl
@[simp] theorem modJob_identityNext : (s.modJob j f).identityNext = s.identityNext := by unfold modJob; split <;> rfl
@[simp] theorem modJob_capsuleId : (s.modJob j f).capsuleId = s.capsuleId := by unfold modJob; split <;> rfl
@[simp] theorem modJob_capsule : (s.modJob j f).capsule = s.capsule := by unfold modJob; split <;> rfl
@[simp] theorem modJob_origins : (s.modJob j f).origins = s.origins := by unfold modJob; split <;> rfl
@[simp] theorem modJob_irqs : (s.modJob j f).irqs = s.irqs := by unfold modJob; split <;> rfl
@[simp] theorem modJob_hostOut : (s.modJob j f).hostOut = s.hostOut := by unfold modJob; split <;> rfl
@[simp] theorem modJob_hostFail : (s.modJob j f).hostFail = s.hostFail := by unfold modJob; split <;> rfl
@[simp] theorem modJob_mgmtOut : (s.modJob j f).mgmtOut = s.mgmtOut := by unfold modJob; split <;> rfl
@[simp] theorem modJob_mgmtBusy : (s.modJob j f).mgmtBusy = s.mgmtBusy := by unfold modJob; split <;> rfl
@[simp] theorem modJob_debugger : (s.modJob j f).debugger = s.debugger := by unfold modJob; split <;> rfl
@[simp] theorem modJob_debugOut : (s.modJob j f).debugOut = s.debugOut := by unfold modJob; split <;> rfl
@[simp] theorem modJob_nextUid : (s.modJob j f).nextUid = s.nextUid := by unfold modJob; split <;> rfl

end modJob

/-! ### What an update's own field reads as -/

@[simp] theorem look_setWg_self (u : Nat) (g : WorkGroup) : (s.setWg u g).wgs.look u = some g := by
  simp only [setWg, Sparse.look_put_self]

theorem look_setWg_ne (u v : Nat) (g : WorkGroup) (h : v ≠ u) : (s.setWg u g).wgs.look v = s.wgs.look v := by
  simp only [setWg, Sparse.look_put_ne _ _ h]

/-- The group of a warp that is set. -/
theorem look_setWarp_self {u i : Nat} {w : Warp} {g : WorkGroup} (h : s.wgs.look u = some g) :
    (s.setWarp u i w).wgs.look u = some (g.setWarp i w) := by
  simp [setWarp, h]

theorem look_setWarp_ne (u v i : Nat) (w : Warp) (h : v ≠ u) : (s.setWarp u i w).wgs.look v = s.wgs.look v := by
  unfold setWarp
  split
  · exact look_setWg_ne s u v _ h
  · rfl

/-- The warp that is set. -/
theorem warp?_setWarp_self {u i : Nat} {w x : Warp} (h : s.warp? u i = some x) : (s.setWarp u i w).warp? u i = some w := by
  unfold warp? at h ⊢
  cases hg : s.wgs.look u with
  | none => simp [hg] at h
  | some g =>
    rw [hg, Option.bind_some] at h
    have hi : i < g.warps.length := (List.getElem?_eq_some_iff.1 h).1
    simp [look_setWarp_self s hg, WorkGroup.setWarp, hi]

/-- Every other warp. -/
theorem warp?_setWarp_ne {u i v j : Nat} (w : Warp) (h : (v, j) ≠ (u, i)) :
    (s.setWarp u i w).warp? v j = s.warp? v j := by
  unfold warp?
  by_cases hv : v = u
  · subst hv
    cases hg : s.wgs.look v with
    | none => simp [setWarp, hg]
    | some g =>
      have hj : j ≠ i := fun e => h (by rw [e])
      simp [look_setWarp_self s hg, WorkGroup.setWarp, List.getElem?_set_ne (Ne.symm hj)]
  · rw [look_setWarp_ne s u v i w hv]

@[simp] theorem core_setCore_self (c : Nat) (k : Core) : (s.setCore c k).core c = k := Sparse.get_set_self _ _ _ _

theorem core_setCore_ne {c d : Nat} (k : Core) (h : d ≠ c) : (s.setCore c k).core d = s.core d :=
  Sparse.get_set_ne _ _ _ h

@[simp] theorem die_setDie_self (d : Nat) (k : Die) : (s.setDie d k).die d = k := Sparse.get_set_self _ _ _ _

theorem die_setDie_ne {d e : Nat} (k : Die) (h : e ≠ d) : (s.setDie d k).die e = s.die e :=
  Sparse.get_set_ne _ _ _ h

@[simp] theorem page_setPage_self (c : Nat) (p : Page) : (s.setPage c p).page c = p := Sparse.get_set_self _ _ _ _

theorem page_setPage_ne {c d : Nat} (p : Page) (h : d ≠ c) : (s.setPage c p).page d = s.page d :=
  Sparse.get_set_ne _ _ _ h

end Sys2Proof.Machine.State
end

