-- ==== Sys2Proof/Laws/Issue.lean ====
section
/-! SUPPORT. What an instruction that issues does before its own meaning, and how the shared ends of meanings leave the
machine. -/

namespace Sys2Proof.Machine

/-! ### Lanes -/

theorem mem_lanesOf {m : Lanes} {l : Nat} : l ∈ lanesOf m ↔ m.getLsbD l = true := by
  unfold lanesOf
  rw [List.mem_filter, List.mem_range]
  refine ⟨fun h => h.2, fun h => ⟨?_, h⟩⟩
  by_contra hl
  rw [BitVec.getLsbD_of_ge m l (by omega)] at h
  exact Bool.noConfusion h

theorem lt_of_mem_lanesOf {m : Lanes} {l : Nat} (h : l ∈ lanesOf m) : l < 128 := by
  unfold lanesOf at h
  exact List.mem_range.1 (List.mem_filter.1 h).1

theorem lanesOf_zero : lanesOf 0 = [] := by
  unfold lanesOf
  rw [List.filter_eq_nil_iff]
  simp

theorem lanesOf_eq_nil {m : Lanes} : lanesOf m = [] ↔ m = 0 := by
  refine ⟨fun h => ?_, fun h => by rw [h]; exact lanesOf_zero⟩
  apply BitVec.eq_of_getLsbD_eq
  intro l hl
  by_contra hne
  have hm : l ∈ lanesOf m := mem_lanesOf.2 (by simpa using hne)
  rw [h] at hm
  exact List.not_mem_nil hm

theorem getLsbD_laneBit (l k : Nat) (h : k < 128) : (laneBit l).getLsbD k = decide (k = l) := by
  unfold laneBit
  rw [BitVec.getLsbD_shiftLeft]
  by_cases hk : k < l
  · simp [hk, h, show k ≠ l by omega]
  · by_cases he : k = l
    · subst he; simp [h]
    · simp [h, hk, he]; omega

theorem getLsbD_foldl_laneBit (ls : List Nat) (m : Lanes) (k : Nat) (h : k < 128) :
    (ls.foldl (fun m l => m ||| laneBit l) m).getLsbD k = (m.getLsbD k || decide (k ∈ ls)) := by
  induction ls generalizing m with
  | nil => simp
  | cons l ls ih =>
    rw [List.foldl_cons, ih, BitVec.getLsbD_or, getLsbD_laneBit l k h]
    by_cases hk : k = l <;> simp [hk]

/-- A mask has the lanes of the list it is made of. -/
theorem getLsbD_maskOf (ls : List Nat) (k : Nat) (h : k < 128) : (maskOf ls).getLsbD k = decide (k ∈ ls) := by
  rw [maskOf, getLsbD_foldl_laneBit ls 0 k h]; simp

theorem getLsbD_maskWhere (lanes : Lanes) (p : Nat → Bool) (k : Nat) (h : k < 128) :
    (maskWhere lanes p).getLsbD k = (lanes.getLsbD k && p k) := by
  rw [maskWhere, getLsbD_maskOf _ _ h]
  by_cases hk : lanes.getLsbD k = true
  · simp [List.mem_filter, mem_lanesOf, hk]
  · simp [List.mem_filter, mem_lanesOf, hk]

theorem getLsbD_widthMask (w k : Nat) (h : k < 128) : (widthMask w).getLsbD k = decide (k < w) := by
  unfold widthMask
  rw [BitVec.getLsbD_ofNat, Nat.testBit_two_pow_sub_one]
  simp [h]

/-! ### Issue -/

/-- Operands that are all full let the instruction go. -/
theorem gate_of_full {w : Warp} {lanes : Lanes} {ops : List Opnd}
    (h : ∀ o ∈ ops, o.late = false → emptyLanes w lanes o = 0) : gate w lanes ops = .go := by
  have hb : ∀ o ∈ ops, (!o.late && emptyLanes w lanes o != 0) = false := by
    intro o ho
    cases hl : o.late with
    | true => rfl
    | false => simp [h o ho hl]
  have h1 : (ops.find? fun o => o.reads && o.ea && !o.late && emptyLanes w lanes o != 0) = none := by
    rw [List.find?_eq_none]
    intro o ho
    have := hb o ho
    cases o.reads <;> cases o.ea <;> simp_all
  have h2 : (ops.any fun o => !o.late && emptyLanes w lanes o != 0) = false := by
    rw [List.any_eq_false]
    intro o ho
    rw [hb o ho]
    exact Bool.false_ne_true
  unfold gate
  rw [h1, h2]
  rfl

/-- An instruction that issues is its own meaning. -/
theorem issue_of_issues {i : Instr} {s : State} {c : Ctx} (h : Issues i s c) (body : Ctx → Res) :
    issue i s body = body c := by
  have htx : c.dropTx i = (some c, c.s) := by
    unfold Ctx.dropTx
    have : (if disallowed i then (lanesOf (c.execs i)).filter fun l => (c.w.txns.look l).isSome else []) = [] := by
      split
      · next hd =>
        rw [List.filter_eq_nil_iff]
        intro l hl
        rw [h.free hd l hl]
        simp
      · rfl
    rw [this]
    rfl
  have hg : gate c.w c.sp.lanes (c.operands i) = .go := gate_of_full h.full
  unfold issue
  rw [h.here]
  simp only [h.legal, htx]
  rw [hg]
  simp only [h.records]
  have hd : (drains i && anyEmpty c.w c.sp.lanes) = false := by
    cases hd : drains i with
    | false => rfl
    | true => simp [h.drained hd]
  have hn : (wide c.slots i && c.emul.isNone) = false := by
    cases hw : wide c.slots i with
    | false => rfl
    | true => simp [h.native hw]
  simp [hd, hn, h.sound]

/-- The context of a state holds that state. -/
theorem ctxOf_state {s : State} {c : Ctx} (h : ctxOf s = some c) : c.s = s := by
  unfold ctxOf at h
  split at h
  · cases h
  · next cur _ =>
    split at h
    · next g w _ _ =>
      rcases hm : w.split? cur.split with _ | sp
      · rw [hm] at h; cases h
      · rw [hm] at h
        simp only [Option.map_some, Option.some.injEq] at h
        rw [← h]
    · cases h

theorem done_eq (c : Ctx) (i : Instr) (w : Warp) : c.done i c.s w = .next (c.after i w) := rfl

theorem doneRegion_eq (c : Ctx) (i : Instr) (w : Warp) : c.doneRegion i c.s w = .next (c.afterRegion i w) := rfl

end Sys2Proof.Machine
end

