-- ==== Sys2Proof/Laws/Registers.lean ====
section
/-! SUPPORT. Reading registers after they are written (R229, R230). -/

namespace Sys2Proof.Machine

/-- n registers from a field up stay of its kind and exist (R43, R229). -/
def InRange (d : BitVec 8) (n : Nat) : Prop := if isScalar d then d.toNat + n ≤ 256 else d.toNat + n ≤ 224

theorem toNat_plusReg {d : BitVec 8} {j : Nat} (h : d.toNat + j < 256) : (plusReg d j).toNat = d.toNat + j := by
  unfold plusReg
  rw [BitVec.toNat_add, BitVec.toNat_ofNat]
  omega

theorem plusReg_zero (d : BitVec 8) : plusReg d 0 = d := by
  apply BitVec.eq_of_toNat_eq
  rw [toNat_plusReg (by have := d.isLt; omega)]
  rfl

theorem plusReg_plusReg (d : BitVec 8) (i j : Nat) : plusReg (plusReg d i) j = plusReg d (i + j) := by
  unfold plusReg
  apply BitVec.eq_of_toNat_eq
  simp only [BitVec.toNat_add, BitVec.toNat_ofNat]
  omega

/-- The number of a register of a run. -/
theorem keyOf_plusReg {d : BitVec 8} {n j : Nat} (h : InRange d n) (hj : j < n) (l : Nat) :
    keyOf (plusReg d j) l = if isScalar d then 32768 + (d.toNat - 0xE0) + j else l * 256 + d.toNat + j := by
  unfold InRange isScalar at h
  unfold keyOf isScalar
  rw [toNat_plusReg (by split at h <;> omega)]
  simp only [decide_eq_true_eq] at h ⊢
  split at h
  · next hs =>
    rw [if_pos (by omega), if_pos hs]
    show (_ : Nat) = _
    omega
  · next hs =>
    rw [if_neg (by omega), if_neg hs]
    show (_ : Nat) = _
    omega

/-- Registers of a run are distinct, and so are those of different lanes in a vector run. -/
theorem keyOf_inj {d : BitVec 8} {n j k l m : Nat} (h : InRange d n) (hj : j < n) (hk : k < n)
    (e : keyOf (plusReg d j) l = keyOf (plusReg d k) m) : j = k ∧ (isScalar d = false → l = m) := by
  rw [keyOf_plusReg h hj, keyOf_plusReg h hk] at e
  change (_ : Nat) = _ at e
  unfold InRange at h
  cases hs : isScalar d with
  | true => simp [hs] at e; exact ⟨by omega, fun h => by cases h⟩
  | false =>
    simp [hs] at e h
    have : d.toNat < 224 := by
      unfold isScalar at hs
      simp at hs
      exact hs
    exact ⟨by omega, fun _ => by omega⟩

theorem inRange_succ {d : BitVec 8} {n : Nat} (h : InRange d (n + 1)) (hn : 0 < n) : InRange (plusReg d 1) n := by
  unfold InRange isScalar at h ⊢
  have : d.toNat + 1 < 256 := by split at h <;> omega
  rw [toNat_plusReg this]
  simp only [decide_eq_true_eq] at h ⊢
  split at h
  · next hs => rw [if_pos (by omega)]; omega
  · next hs =>
    rw [if_neg (by omega)]
    omega

/-- The value of a register after a run is written. -/
theorem get_wrN (w : Warp) {d : BitVec 8} (l x : Nat) {n : Nat} (h : InRange d n) (k : Nat) :
    (∀ j < n, k = keyOf (plusReg d j) l →
      Sparse.get (0 : Word) (w.wrN d l x n).regs k = BitVec.ofNat 32 (x / 2 ^ (32 * j))) ∧
    ((∀ j < n, k ≠ keyOf (plusReg d j) l) →
      Sparse.get (0 : Word) (w.wrN d l x n).regs k = Sparse.get (0 : Word) w.regs k) := by
  induction n generalizing w d x with
  | zero => exact ⟨fun j hj => absurd hj (Nat.not_lt_zero j), fun _ => rfl⟩
  | succ n ih =>
    have key (j : Nat) : keyOf (plusReg (plusReg d 1) j) l = keyOf (plusReg d (j + 1)) l := by
      rw [plusReg_plusReg, Nat.add_comm]
    rcases Nat.eq_zero_or_pos n with h0 | hp
    · subst h0
      refine ⟨fun j hj e => ?_, fun ne => ?_⟩
      · obtain rfl : j = 0 := by omega
        rw [plusReg_zero] at e
        simp only [Warp.wrN, Warp.wr]
        rw [e, Sparse.get_set_self]
        simp
      · have := ne 0 (by omega)
        rw [plusReg_zero] at this
        simp only [Warp.wrN, Warp.wr]
        rw [Sparse.get_set_ne _ _ _ this]
    · obtain ⟨i1, i2⟩ := ih (w.wr d l (BitVec.ofNat 32 x)) (x / 2 ^ 32) (inRange_succ h hp)
      rw [Warp.wrN]
      refine ⟨fun j hj e => ?_, fun ne => ?_⟩
      · rcases j with _ | j
        · rw [i2]
          · rw [plusReg_zero] at e
            rw [Warp.wr, e, Sparse.get_set_self]
            simp
          · intro j hj e'
            rw [key] at e'
            have := (keyOf_inj h (show (0 : Nat) < n + 1 by omega) (show j + 1 < n + 1 by omega) (e ▸ e')).1
            omega
        · rw [i1 j (by omega) (by rw [key, e])]
          rw [Nat.div_div_eq_div_mul, ← pow_add]
          congr 3
          omega
      · rw [i2]
        · have := ne 0 (by omega)
          rw [plusReg_zero] at this
          rw [Warp.wr, Sparse.get_set_ne _ _ _ this]
        · intro j hj e'
          rw [key] at e'
          exact ne (j + 1) (by omega) e'

/-- Writing registers changes nothing else of a warp. -/
theorem wrN_only (w : Warp) (d : BitVec 8) (l x n : Nat) :
    w.wrN d l x n = { w with regs := (w.wrN d l x n).regs, damaged := (w.wrN d l x n).damaged } := by
  induction n generalizing w d x with
  | zero => rfl
  | succ n ih => rw [Warp.wrN]; rw [ih]; rfl

theorem wrAll_only (w : Warp) (d : BitVec 8) (n : Nat) (xs : List (Nat × Nat)) :
    w.wrAll d n xs = { w with regs := (w.wrAll d n xs).regs, damaged := (w.wrAll d n xs).damaged } := by
  induction xs generalizing w with
  | nil => rfl
  | cons p xs ih =>
    unfold Warp.wrAll at ih ⊢
    rw [List.foldl_cons, ih, wrN_only]

/-- A written register is sound, the others keep their check bits (R67). -/
theorem isDamaged_wr (w : Warp) (d : BitVec 8) (l : Nat) (x : Word) (k : Nat) :
    (w.wr d l x).isDamaged k = (w.isDamaged k && decide (k ≠ keyOf d l)) := by
  unfold Warp.isDamaged Warp.wr
  by_cases h : k = keyOf d l
  · subst h
    simp [Sparse.get_set_self]
  · simp only [Sparse.get_set_ne _ _ _ h, decide_eq_true h, Bool.and_true, ne_eq]

theorem isDamaged_wrN (w : Warp) (d : BitVec 8) (l x n k : Nat) :
    (w.wrN d l x n).isDamaged k = (w.isDamaged k && decide (∀ j < n, k ≠ keyOf (plusReg d j) l)) := by
  induction n generalizing w d x with
  | zero => simp [Warp.wrN]
  | succ n ih =>
    rw [Warp.wrN, ih, isDamaged_wr, Bool.and_assoc]
    congr 1
    rw [← Bool.decide_and, decide_eq_decide]
    constructor
    · rintro ⟨h0, hs⟩ j hj
      rcases j with _ | j
      · rw [plusReg_zero]; exact h0
      · have := hs j (by omega)
        rwa [plusReg_plusReg, Nat.add_comm] at this
    · intro h
      refine ⟨by have := h 0 (by omega); rwa [plusReg_zero] at this, fun j hj => ?_⟩
      rw [plusReg_plusReg, Nat.add_comm]
      exact h (j + 1) (by omega)

theorem isDamaged_wrAll (w : Warp) (d : BitVec 8) (n : Nat) (xs : List (Nat × Nat)) (k : Nat) :
    (w.wrAll d n xs).isDamaged k = (w.isDamaged k && decide (k ∉ destKeys d n (xs.map (·.1)))) := by
  induction xs generalizing w with
  | nil => simp [Warp.wrAll, destKeys]
  | cons p xs ih =>
    unfold Warp.wrAll at ih ⊢
    rw [List.foldl_cons, ih, isDamaged_wrN, Bool.and_assoc]
    congr 1
    rw [← Bool.decide_and, decide_eq_decide]
    simp only [destKeys, List.map_cons, List.flatMap_cons, List.mem_append, not_or, List.mem_map, List.mem_range,
      not_exists, not_and]
    constructor
    · rintro ⟨h1, h2⟩
      exact ⟨fun j hj e => h1 j hj e.symm, h2⟩
    · rintro ⟨h1, h2⟩
      exact ⟨fun j hj e => h1 j hj e.symm, h2⟩

/-- Registers outside the destinations of some units keep their values. -/
theorem get_wrAll_of_not_mem (w : Warp) {d : BitVec 8} {n : Nat} (h : InRange d n) (xs : List (Nat × Nat)) {k : Nat}
    (hk : k ∉ destKeys d n (xs.map (·.1))) :
    Sparse.get (0 : Word) (w.wrAll d n xs).regs k = Sparse.get (0 : Word) w.regs k := by
  induction xs generalizing w with
  | nil => rfl
  | cons p xs ih =>
    unfold Warp.wrAll at ih ⊢
    simp only [destKeys, List.map_cons, List.flatMap_cons, List.mem_append, not_or, List.mem_map, List.mem_range,
      not_exists, not_and] at hk ih
    rw [List.foldl_cons, ih _ hk.2]
    exact (get_wrN w p.1 p.2 h k).2 fun j hj e => hk.1 j hj e.symm

/-- The registers of one unit hold its value, when no later unit shares them. -/
theorem get_wrAll_of_mem (w : Warp) {d : BitVec 8} {n : Nat} (h : InRange d n) (xs : List (Nat × Nat))
    (nd : (xs.map (·.1)).Nodup) (hs : isScalar d = true → xs.length ≤ 1) {l x j : Nat} (hl : (l, x) ∈ xs)
    (hj : j < n) :
    Sparse.get (0 : Word) (w.wrAll d n xs).regs (keyOf (plusReg d j) l) = BitVec.ofNat 32 (x / 2 ^ (32 * j)) := by
  induction xs generalizing w with
  | nil => cases hl
  | cons p xs ih =>
    rw [List.map_cons, List.nodup_cons] at nd
    rcases List.mem_cons.1 hl with e | hm
    · subst e
      have hn : keyOf (plusReg d j) l ∉ destKeys d n (xs.map (·.1)) := by
        intro hmem
        unfold destKeys at hmem
        rw [List.mem_flatMap] at hmem
        obtain ⟨m, hm, hx⟩ := hmem
        rw [List.mem_map] at hx
        obtain ⟨k, hk, e⟩ := hx
        have := keyOf_inj h (List.mem_range.1 hk) hj e
        cases hsc : isScalar d with
        | true =>
          have hlen := hs hsc
          rw [List.length_cons] at hlen
          have : xs = [] := List.length_eq_zero_iff.1 (by omega)
          rw [this] at hm
          cases hm
        | false => rw [this.2 hsc] at hm; exact nd.1 hm
      have := get_wrAll_of_not_mem (w.wrN d l x n) h xs hn
      unfold Warp.wrAll at this ⊢
      rw [List.foldl_cons, this]
      exact (get_wrN w l x h _).1 j hj rfl
    · have hlen : isScalar d = true → xs.length ≤ 1 := fun hsc => by
        have := hs hsc
        rw [List.length_cons] at this
        omega
      have := ih (w.wrN d p.1 p.2 n) nd.2 hlen hm
      unfold Warp.wrAll at this ⊢
      rw [List.foldl_cons, this]

/-- A run of registers that holds the digits of a number reads as its low bits. -/
theorem rdN_of_digits (w : Warp) (d : BitVec 8) (l x n : Nat)
    (h : ∀ j < n, w.rd (plusReg d j) l = BitVec.ofNat 32 (x / 2 ^ (32 * j))) : w.rdN d l n = x % 2 ^ (32 * n) := by
  induction n generalizing d x with
  | zero => simp [Warp.rdN, Nat.mod_one]
  | succ n ih =>
    rw [Warp.rdN]
    have h0 := h 0 (by omega)
    rw [plusReg_zero] at h0
    rw [h0, ih (plusReg d 1) (x / 2 ^ 32)]
    · simp only [Nat.mul_zero, Nat.pow_zero, Nat.div_one, BitVec.toNat_ofNat]
      rw [show 32 * (n + 1) = 32 + 32 * n by omega, pow_add, Nat.mod_mul]
    · intro j hj
      rw [plusReg_plusReg, Nat.add_comm 1 j, h (j + 1) (by omega), Nat.div_div_eq_div_mul, ← pow_add]
      congr 3
      omega

/-! ### The shared ends -/

theorem nodup_lanesOf (m : Lanes) : (lanesOf m).Nodup := List.Nodup.filter _ List.nodup_range

theorem nodup_unitsOf (d : BitVec 8) (m : Lanes) : (unitsOf d m).Nodup := by
  unfold unitsOf
  split
  · exact (nodup_lanesOf m).sublist (List.take_sublist _ _)
  · exact nodup_lanesOf m

theorem length_unitsOf {d : BitVec 8} (m : Lanes) (h : isScalar d = true) : (unitsOf d m).length ≤ 1 := by
  unfold unitsOf
  rw [if_pos h, List.length_take]
  omega

/-- Writing every unit of execution. -/
theorem writes_wrAll (c : Ctx) (w : Warp) (i : Instr) {d : BitVec 8} {n : Nat} (h : InRange d n) (f : Nat → Nat) :
    c.Writes w i d n f (w.wrAll d n ((unitsOf d (c.execs i)).map fun l => (l, f l))) := by
  have hm : ((unitsOf d (c.execs i)).map fun l => (l, f l)).map (·.1) = unitsOf d (c.execs i) := by
    rw [List.map_map]
    exact List.map_id _
  refine ⟨wrAll_only .., fun l hl => ?_, fun k hk => get_wrAll_of_not_mem w h _ (by rw [hm]; exact hk),
    fun k => by rw [isDamaged_wrAll, hm]⟩
  apply rdN_of_digits
  intro j hj
  refine get_wrAll_of_mem w h _ (by rw [hm]; exact nodup_unitsOf ..) (fun hs => ?_) (List.mem_map.2 ⟨l, hl, rfl⟩) hj
  rw [List.length_map]
  exact length_unitsOf _ hs

/-- An instruction whose meaning is to write D. -/
theorem result_write (c : Ctx) (i : Instr) {d : BitVec 8} {n : Nat} (h : InRange d n) (f : Nat → Nat) :
    ∃ t, c.write i d n f = .next t ∧ c.Result i d n f t :=
  ⟨_, rfl, _, rfl, writes_wrAll c c.w i h f⟩

/-! ### Legality (R241) -/

/-- An operand of a legal instruction is in range. -/
theorem inRange_of_legal {env : Env} {i : Instr} {u : Use} (h : causeOf env i = none) (hu : useOf env i = some u)
    {o : Opnd} (ho : o ∈ u.ops) : InRange o.f o.n := by
  unfold causeOf at h
  split at h
  · cases h
  · rw [hu] at h
    simp only at h
    split at h
    · cases h
    split at h
    · cases h
    split at h
    · cases h
    split at h
    · cases h
    split at h
    · cases h
    next hr =>
    have : outOfRange env o = false := by
      rw [Bool.eq_false_iff]
      intro e
      exact hr (List.any_eq_true.2 ⟨o, ho, e⟩)
    unfold outOfRange at this
    unfold InRange
    split at this
    · next hs => rw [if_pos hs]; simpa using this
    · next hs =>
      rw [if_neg hs]
      simp at this
      omega

/-- A destination of an instruction that issues is in range. -/
theorem inRange_of_issues {i : Instr} {s : State} {c : Ctx} (h : Issues i s c) {o : Opnd} (ho : o ∈ c.operands i) :
    InRange o.f o.n := by
  unfold Ctx.operands at ho
  split at ho
  · next u hu => exact inRange_of_legal h.legal hu ho
  · cases ho

end Sys2Proof.Machine
end

