-- ==== Sys2Proof/Laws/Elements.lean ====
section
/-! SUPPORT. Elements packed into an operand and read back (R89, R248). -/

namespace Sys2Proof.Machine

/-- An element of a packed operand. -/
theorem elemOf_packElems (w : Nat) (es : List Nat) (j : Nat) :
    elemOf (packElems w es) w j = es.getD j 0 % 2 ^ w := by
  unfold elemOf
  rw [Nat.shiftRight_eq_div_pow]
  induction es generalizing j with
  | nil => simp [packElems]
  | cons e es ih =>
    have hp : packElems w (e :: es) = e % 2 ^ w + packElems w es * 2 ^ w := rfl
    rw [hp]
    have hpos : 0 < 2 ^ w := Nat.two_pow_pos w
    rcases j with _ | j
    · rw [Nat.zero_mul, Nat.pow_zero, Nat.div_one, Nat.add_mul_mod_self_right, Nat.mod_mod]
      rfl
    · have : (e % 2 ^ w + packElems w es * 2 ^ w) / 2 ^ ((j + 1) * w) = packElems w es / 2 ^ (j * w) := by
        rw [show (j + 1) * w = w + j * w by rw [Nat.add_mul, Nat.one_mul, Nat.add_comm], Nat.pow_add,
          ← Nat.div_div_eq_div_mul, Nat.add_mul_div_right _ _ hpos, Nat.div_eq_of_lt (Nat.mod_lt _ hpos), Nat.zero_add]
      rw [this, ih]
      rfl

theorem packElems_lt (w : Nat) (es : List Nat) : packElems w es < 2 ^ (w * es.length) := by
  induction es with
  | nil => simp [packElems]
  | cons e es ih =>
    have hp : packElems w (e :: es) = e % 2 ^ w + packElems w es * 2 ^ w := rfl
    rw [hp, List.length_cons, Nat.mul_succ, Nat.pow_add]
    have h1 : e % 2 ^ w < 2 ^ w := Nat.mod_lt _ (Nat.two_pow_pos w)
    nlinarith

/-- Reading a number as a type depends on its residue only. -/
theorem asType_emod (t : BitVec 4) (x : Int) : asType t (x % 2 ^ typeBits t) = asType t x := by
  simp only [asType, Int.emod_emod_of_dvd _ (dvd_refl _)]

/-- Element j of packed integers. -/
theorem elemInt_packInts (t : BitVec 4) (es : List Int) {j : Nat} (h : j < es.length) :
    elemInt t (packInts t es) j = asType t (es.getD j 0) := by
  unfold elemInt packInts
  rw [elemOf_packElems]
  have hx : (es.map fun e => (e % 2 ^ typeBits t).toNat).getD j 0 = (es.getD j 0 % 2 ^ typeBits t).toNat := by
    rw [List.getD_eq_getElem?_getD, List.getElem?_map, List.getD_eq_getElem?_getD, List.getElem?_eq_getElem h]
    rfl
  rw [hx]
  have hp : (0 : Int) < 2 ^ typeBits t := by positivity
  have hc : (((es.getD j 0 % 2 ^ typeBits t).toNat % 2 ^ typeBits t : Nat) : Int) = es.getD j 0 % 2 ^ typeBits t := by
    rw [Int.natCast_emod, Int.toNat_of_nonneg (Int.emod_nonneg _ hp.ne')]
    push_cast
    rw [Int.emod_emod_of_dvd _ (dvd_refl _)]
  rw [hc, asType_emod]

/-- Element j of integers computed element by element. -/
theorem elemInt_packInts_map (t : BitVec 4) (f : Nat → Int) {j : Nat} (h : j < typeCount t) :
    elemInt t (packInts t ((List.range (typeCount t)).map f)) j = asType t (f j) := by
  rw [elemInt_packInts t _ (by simpa using h), List.getD_eq_getElem?_getD, List.getElem?_map,
    List.getElem?_range h]
  rfl

end Sys2Proof.Machine
end

