-- ==== Sys2Proof/Laws/Use.lean ====
section
/-! SUPPORT. The meaning of each constructor, and how each instruction uses its fields: one equation per constructor, so
that no proof unfolds the dispatch or the table. -/

namespace Sys2Proof.Machine

/-! ### Meanings -/

theorem exec_nop (f : FmtC) (s : State) : exec (.nop f) s = execNop f s := rfl
theorem exec_bra (f : FmtC) (s : State) : exec (.bra f) s = execBra f s := rfl
theorem exec_brx (f : FmtC) (s : State) : exec (.brx f) s = execBrx f s := rfl
theorem exec_call (f : FmtC) (s : State) : exec (.call f) s = execCall f s := rfl
theorem exec_ret (f : FmtC) (s : State) : exec (.ret f) s = execRet f s := rfl
theorem exec_switch (f : FmtCS) (s : State) : exec (.switch f) s = execSwitch f s := rfl
theorem exec_rset (f : FmtC) (s : State) : exec (.rset f) s = execRset f s := rfl
theorem exec_rwait (f : FmtC) (s : State) : exec (.rwait f) s = execRwait f s := rfl
theorem exec_rleave (f : FmtC) (s : State) : exec (.rleave f) s = execRleave f s := rfl
theorem exec_yield (f : FmtC) (s : State) : exec (.yield f) s = execYield f s := rfl
theorem exec_exit (f : FmtC) (s : State) : exec (.exit f) s = execExit f s := rfl
theorem exec_region (f : FmtC) (s : State) : exec (.region f) s = execRegion f s := rfl
theorem exec_launch (f : FmtS) (s : State) : exec (.launch f) s = execLaunch f s := rfl
theorem exec_trap (f : FmtC) (s : State) : exec (.trap f) s = execTrap f s := rfl
theorem exec_bkpt (f : FmtC) (s : State) : exec (.bkpt f) s = execBkpt f s := rfl
theorem exec_iadd (f : FmtR) (s : State) : exec (.iadd f) s = execIadd f s := rfl
theorem exec_isub (f : FmtR) (s : State) : exec (.isub f) s = execIsub f s := rfl
theorem exec_imul (f : FmtR) (s : State) : exec (.imul f) s = execImul f s := rfl
theorem exec_imulh (f : FmtR) (s : State) : exec (.imulh f) s = execImulh f s := rfl
theorem exec_imad (f : FmtR) (s : State) : exec (.imad f) s = execImad f s := rfl
theorem exec_idiv (f : FmtR) (s : State) : exec (.idiv f) s = execIdiv f s := rfl
theorem exec_irem (f : FmtR) (s : State) : exec (.irem f) s = execIrem f s := rfl
theorem exec_imin (f : FmtR) (s : State) : exec (.imin f) s = execImin f s := rfl
theorem exec_imax (f : FmtR) (s : State) : exec (.imax f) s = execImax f s := rfl
theorem exec_iabs (f : FmtR) (s : State) : exec (.iabs f) s = execIabs f s := rfl
theorem exec_ineg (f : FmtR) (s : State) : exec (.ineg f) s = execIneg f s := rfl
theorem exec_isat (f : FmtR) (s : State) : exec (.isat f) s = execIsat f s := rfl
theorem exec_iadds (f : FmtR) (s : State) : exec (.iadds f) s = execIadds f s := rfl
theorem exec_isubs (f : FmtR) (s : State) : exec (.isubs f) s = execIsubs f s := rfl
theorem exec_icmp (f : FmtR) (s : State) : exec (.icmp f) s = execIcmp f s := rfl
theorem exec_qadd (f : FmtR) (s : State) : exec (.qadd f) s = execQadd f s := rfl
theorem exec_and (f : FmtR) (s : State) : exec (.and f) s = execAnd f s := rfl
theorem exec_or (f : FmtR) (s : State) : exec (.or f) s = execOr f s := rfl
theorem exec_xor (f : FmtR) (s : State) : exec (.xor f) s = execXor f s := rfl
theorem exec_andn (f : FmtR) (s : State) : exec (.andn f) s = execAndn f s := rfl
theorem exec_not (f : FmtR) (s : State) : exec (.not f) s = execNot f s := rfl
theorem exec_shl (f : FmtR) (s : State) : exec (.shl f) s = execShl f s := rfl
theorem exec_shr (f : FmtR) (s : State) : exec (.shr f) s = execShr f s := rfl
theorem exec_sar (f : FmtR) (s : State) : exec (.sar f) s = execSar f s := rfl
theorem exec_rol (f : FmtR) (s : State) : exec (.rol f) s = execRol f s := rfl
theorem exec_bfx (f : FmtR) (s : State) : exec (.bfx f) s = execBfx f s := rfl
theorem exec_bfi (f : FmtR) (s : State) : exec (.bfi f) s = execBfi f s := rfl
theorem exec_popc (f : FmtR) (s : State) : exec (.popc f) s = execPopc f s := rfl
theorem exec_clz (f : FmtR) (s : State) : exec (.clz f) s = execClz f s := rfl
theorem exec_ctz (f : FmtR) (s : State) : exec (.ctz f) s = execCtz f s := rfl
theorem exec_brev (f : FmtR) (s : State) : exec (.brev f) s = execBrev f s := rfl
theorem exec_lea (f : FmtR) (s : State) : exec (.lea f) s = execLea f s := rfl
theorem exec_iaddi (f : FmtI) (s : State) : exec (.iaddi f) s = execIaddi f s := rfl
theorem exec_imuli (f : FmtI) (s : State) : exec (.imuli f) s = execImuli f s := rfl
theorem exec_andi (f : FmtI) (s : State) : exec (.andi f) s = execAndi f s := rfl
theorem exec_ori (f : FmtI) (s : State) : exec (.ori f) s = execOri f s := rfl
theorem exec_xori (f : FmtI) (s : State) : exec (.xori f) s = execXori f s := rfl
theorem exec_shli (f : FmtI) (s : State) : exec (.shli f) s = execShli f s := rfl
theorem exec_shri (f : FmtI) (s : State) : exec (.shri f) s = execShri f s := rfl
theorem exec_sari (f : FmtI) (s : State) : exec (.sari f) s = execSari f s := rfl
theorem exec_icmpi (f : FmtI) (s : State) : exec (.icmpi f) s = execIcmpi f s := rfl
theorem exec_imadi (f : FmtI) (s : State) : exec (.imadi f) s = execImadi f s := rfl
theorem exec_movi (f : FmtI) (s : State) : exec (.movi f) s = execMovi f s := rfl
theorem exec_movw (f : FmtI) (s : State) : exec (.movw f) s = execMovw f s := rfl
theorem exec_mov (f : FmtR) (s : State) : exec (.mov f) s = execMov f s := rfl
theorem exec_sel (f : FmtR) (s : State) : exec (.sel f) s = execSel f s := rfl
theorem exec_movs (f : FmtR) (s : State) : exec (.movs f) s = execMovs f s := rfl
theorem exec_prmt (f : FmtR) (s : State) : exec (.prmt f) s = execPrmt f s := rfl
theorem exec_fadd (f : FmtR) (s : State) : exec (.fadd f) s = execFadd f s := rfl
theorem exec_fsub (f : FmtR) (s : State) : exec (.fsub f) s = execFsub f s := rfl
theorem exec_fmul (f : FmtR) (s : State) : exec (.fmul f) s = execFmul f s := rfl
theorem exec_ffma (f : FmtR) (s : State) : exec (.ffma f) s = execFfma f s := rfl
theorem exec_fmin (f : FmtR) (s : State) : exec (.fmin f) s = execFmin f s := rfl
theorem exec_fmax (f : FmtR) (s : State) : exec (.fmax f) s = execFmax f s := rfl
theorem exec_fminn (f : FmtR) (s : State) : exec (.fminn f) s = execFminn f s := rfl
theorem exec_fmaxn (f : FmtR) (s : State) : exec (.fmaxn f) s = execFmaxn f s := rfl
theorem exec_fcmp (f : FmtR) (s : State) : exec (.fcmp f) s = execFcmp f s := rfl
theorem exec_fclass (f : FmtR) (s : State) : exec (.fclass f) s = execFclass f s := rfl
theorem exec_fdiv (f : FmtR) (s : State) : exec (.fdiv f) s = execFdiv f s := rfl
theorem exec_fsqrt (f : FmtR) (s : State) : exec (.fsqrt f) s = execFsqrt f s := rfl
theorem exec_frcp (f : FmtR) (s : State) : exec (.frcp f) s = execFrcp f s := rfl
theorem exec_frsq (f : FmtR) (s : State) : exec (.frsq f) s = execFrsq f s := rfl
theorem exec_fexp2 (f : FmtR) (s : State) : exec (.fexp2 f) s = execFexp2 f s := rfl
theorem exec_flog2 (f : FmtR) (s : State) : exec (.flog2 f) s = execFlog2 f s := rfl
theorem exec_fsin (f : FmtR) (s : State) : exec (.fsin f) s = execFsin f s := rfl
theorem exec_fcos (f : FmtR) (s : State) : exec (.fcos f) s = execFcos f s := rfl
theorem exec_ftanh (f : FmtR) (s : State) : exec (.ftanh f) s = execFtanh f s := rfl
theorem exec_frnd (f : FmtR) (s : State) : exec (.frnd f) s = execFrnd f s := rfl
theorem exec_fscale (f : FmtR) (s : State) : exec (.fscale f) s = execFscale f s := rfl
theorem exec_fcvt (f : FmtR) (s : State) : exec (.fcvt f) s = execFcvt f s := rfl
theorem exec_ftoi (f : FmtR) (s : State) : exec (.ftoi f) s = execFtoi f s := rfl
theorem exec_itof (f : FmtR) (s : State) : exec (.itof f) s = execItof f s := rfl
theorem exec_faddi (f : FmtI) (s : State) : exec (.faddi f) s = execFaddi f s := rfl
theorem exec_fmuli (f : FmtI) (s : State) : exec (.fmuli f) s = execFmuli f s := rfl
theorem exec_ffmai (f : FmtI) (s : State) : exec (.ffmai f) s = execFfmai f s := rfl
theorem exec_exte (f : FmtR) (s : State) : exec (.exte f) s = execExte f s := rfl
theorem exec_inse (f : FmtR) (s : State) : exec (.inse f) s = execInse f s := rfl
theorem exec_srseed (f : FmtR) (s : State) : exec (.srseed f) s = execSrseed f s := rfl
theorem exec_fmtset (f : FmtR) (s : State) : exec (.fmtset f) s = execFmtset f s := rfl
theorem exec_fmtget (f : FmtR) (s : State) : exec (.fmtget f) s = execFmtget f s := rfl
theorem exec_fmtchk (f : FmtR) (s : State) : exec (.fmtchk f) s = execFmtchk f s := rfl
theorem exec_rand (f : FmtR) (s : State) : exec (.rand f) s = execRand f s := rfl
theorem exec_wrng (f : FmtR) (s : State) : exec (.wrng f) s = execWrng f s := rfl
theorem exec_mand (f : FmtR) (s : State) : exec (.mand f) s = execMand f s := rfl
theorem exec_mor (f : FmtR) (s : State) : exec (.mor f) s = execMor f s := rfl
theorem exec_mxor (f : FmtR) (s : State) : exec (.mxor f) s = execMxor f s := rfl
theorem exec_mnot (f : FmtR) (s : State) : exec (.mnot f) s = execMnot f s := rfl
theorem exec_mpopc (f : FmtR) (s : State) : exec (.mpopc f) s = execMpopc f s := rfl
theorem exec_mfirst (f : FmtR) (s : State) : exec (.mfirst f) s = execMfirst f s := rfl
theorem exec_ballot (f : FmtR) (s : State) : exec (.ballot f) s = execBallot f s := rfl
theorem exec_mtos (f : FmtR) (s : State) : exec (.mtos f) s = execMtos f s := rfl
theorem exec_stom (f : FmtR) (s : State) : exec (.stom f) s = execStom f s := rfl
theorem exec_vote (f : FmtR) (s : State) : exec (.vote f) s = execVote f s := rfl
theorem exec_shfl (f : FmtR) (s : State) : exec (.shfl f) s = execShfl f s := rfl
theorem exec_shflb (f : FmtR) (s : State) : exec (.shflb f) s = execShflb f s := rfl
theorem exec_bfly (f : FmtR) (s : State) : exec (.bfly f) s = execBfly f s := rfl
theorem exec_qswp (f : FmtR) (s : State) : exec (.qswp f) s = execQswp f s := rfl
theorem exec_qbcst (f : FmtR) (s : State) : exec (.qbcst f) s = execQbcst f s := rfl
theorem exec_wred (f : FmtR) (s : State) : exec (.wred f) s = execWred f s := rfl
theorem exec_wscan (f : FmtR) (s : State) : exec (.wscan f) s = execWscan f s := rfl
theorem exec_ld (f : FmtM) (s : State) : exec (.ld f) s = execLd f s := rfl
theorem exec_st (f : FmtM) (s : State) : exec (.st f) s = execSt f s := rfl
theorem exec_ldf (f : FmtM) (s : State) : exec (.ldf f) s = execLdf f s := rfl
theorem exec_stf (f : FmtM) (s : State) : exec (.stf f) s = execStf f s := rfl
theorem exec_pref (f : FmtM) (s : State) : exec (.pref f) s = execPref f s := rfl
theorem exec_ipref (f : FmtM) (s : State) : exec (.ipref f) s = execIpref f s := rfl
theorem exec_fence (f : FmtM) (s : State) : exec (.fence f) s = execFence f s := rfl
theorem exec_atom (f : FmtMO) (s : State) : exec (.atom f) s = execAtom f s := rfl
theorem exec_red (f : FmtMO) (s : State) : exec (.red f) s = execRed f s := rfl
theorem exec_cas (f : FmtMO) (s : State) : exec (.cas f) s = execCas f s := rfl
theorem exec_txb (f : FmtC) (s : State) : exec (.txb f) s = execTxb f s := rfl
theorem exec_txe (f : FmtC) (s : State) : exec (.txe f) s = execTxe f s := rfl
theorem exec_txa (f : FmtC) (s : State) : exec (.txa f) s = execTxa f s := rfl
theorem exec_txst (f : FmtR) (s : State) : exec (.txst f) s = execTxst f s := rfl
theorem exec_amxadv (f : FmtM) (s : State) : exec (.amxadv f) s = execAmxadv f s := rfl
theorem exec_sclget (f : FmtM) (s : State) : exec (.sclget f) s = execSclget f s := rfl
theorem exec_cpa (f : FmtMO) (s : State) : exec (.cpa f) s = execCpa f s := rfl
theorem exec_cpwait (f : FmtC) (s : State) : exec (.cpwait f) s = execCpwait f s := rfl
theorem exec_cpcnt (f : FmtS) (s : State) : exec (.cpcnt f) s = execCpcnt f s := rfl
theorem exec_kick (f : FmtS) (s : State) : exec (.kick f) s = execKick f s := rfl
theorem exec_binit (f : FmtR) (s : State) : exec (.binit f) s = execBinit f s := rfl
theorem exec_barr (f : FmtR) (s : State) : exec (.barr f) s = execBarr f s := rfl
theorem exec_bwait (f : FmtR) (s : State) : exec (.bwait f) s = execBwait f s := rfl
theorem exec_btest (f : FmtR) (s : State) : exec (.btest f) s = execBtest f s := rfl
theorem exec_bar (f : FmtC) (s : State) : exec (.bar f) s = execBar f s := rfl
theorem exec_gsync (f : FmtC) (s : State) : exec (.gsync f) s = execGsync f s := rfl
theorem exec_monw (f : FmtR) (s : State) : exec (.monw f) s = execMonw f s := rfl
theorem exec_monx (f : FmtR) (s : State) : exec (.monx f) s = execMonx f s := rfl
theorem exec_mldb (f : FmtX) (s : State) : exec (.mldb f) s = execMldb f s := rfl
theorem exec_mldbs (f : FmtX) (s : State) : exec (.mldbs f) s = execMldbs f s := rfl
theorem exec_mldt (f : FmtX) (s : State) : exec (.mldt f) s = execMldt f s := rfl
theorem exec_mma (f : FmtX) (s : State) : exec (.mma f) s = execMma f s := rfl
theorem exec_mmas (f : FmtX) (s : State) : exec (.mmas f) s = execMmas f s := rfl
theorem exec_msig (f : FmtX) (s : State) : exec (.msig f) s = execMsig f s := rfl
theorem exec_mkset (f : FmtX) (s : State) : exec (.mkset f) s = execMkset f s := rfl
theorem exec_mzero (f : FmtX) (s : State) : exec (.mzero f) s = execMzero f s := rfl
theorem exec_mst (f : FmtX) (s : State) : exec (.mst f) s = execMst f s := rfl
theorem exec_mrd (f : FmtX) (s : State) : exec (.mrd f) s = execMrd f s := rfl
theorem exec_mwr (f : FmtX) (s : State) : exec (.mwr f) s = execMwr f s := rfl
theorem exec_mscl (f : FmtX) (s : State) : exec (.mscl f) s = execMscl f s := rfl
theorem exec_mwait (f : FmtX) (s : State) : exec (.mwait f) s = execMwait f s := rfl
theorem exec_mstat (f : FmtX) (s : State) : exec (.mstat f) s = execMstat f s := rfl
theorem exec_wset (f : FmtS) (s : State) : exec (.wset f) s = execWset f s := rfl
theorem exec_wget (f : FmtS) (s : State) : exec (.wget f) s = execWget f s := rfl
theorem exec_trdec (f : FmtR) (s : State) : exec (.trdec f) s = execTrdec f s := rfl
theorem exec_trdecn (f : FmtS) (s : State) : exec (.trdecn f) s = execTrdecn f s := rfl
theorem exec_trenc (f : FmtS) (s : State) : exec (.trenc f) s = execTrenc f s := rfl
theorem exec_trwait (f : FmtC) (s : State) : exec (.trwait f) s = execTrwait f s := rfl
theorem exec_topen (f : FmtS) (s : State) : exec (.topen f) s = execTopen f s := rfl
theorem exec_trec (f : FmtS) (s : State) : exec (.trec f) s = execTrec f s := rfl
theorem exec_tbr (f : FmtS) (s : State) : exec (.tbr f) s = execTbr f s := rfl
theorem exec_tmark (f : FmtS) (s : State) : exec (.tmark f) s = execTmark f s := rfl
theorem exec_tclose (f : FmtS) (s : State) : exec (.tclose f) s = execTclose f s := rfl
theorem exec_trev (f : FmtS) (s : State) : exec (.trev f) s = execTrev f s := rfl
theorem exec_tget (f : FmtS) (s : State) : exec (.tget f) s = execTget f s := rfl
theorem exec_tbrp (f : FmtS) (s : State) : exec (.tbrp f) s = execTbrp f s := rfl
theorem exec_tstat (f : FmtS) (s : State) : exec (.tstat f) s = execTstat f s := rfl
theorem exec_tgrant (f : FmtS) (s : State) : exec (.tgrant f) s = execTgrant f s := rfl
theorem exec_sread (f : FmtS) (s : State) : exec (.sread f) s = execSread f s := rfl
theorem exec_swrite (f : FmtS) (s : State) : exec (.swrite f) s = execSwrite f s := rfl
theorem exec_evmark (f : FmtS) (s : State) : exec (.evmark f) s = execEvmark f s := rfl
theorem exec_sleep (f : FmtS) (s : State) : exec (.sleep f) s = execSleep f s := rfl
theorem exec_caprd (f : FmtS) (s : State) : exec (.caprd f) s = execCaprd f s := rfl
theorem exec_eret (f : FmtS) (s : State) : exec (.eret f) s = execEret f s := rfl
theorem exec_trapr (f : FmtS) (s : State) : exec (.trapr f) s = execTrapr f s := rfl
theorem exec_energy (f : FmtS) (s : State) : exec (.energy f) s = execEnergy f s := rfl
theorem exec_perfsel (f : FmtS) (s : State) : exec (.perfsel f) s = execPerfsel f s := rfl
theorem exec_perfrd (f : FmtS) (s : State) : exec (.perfrd f) s = execPerfrd f s := rfl
theorem exec_unassignedOpcode (word : BitVec 64) (s : State) : exec (.unassignedOpcode word) s = execUnassignedOpcode word s := rfl
theorem exec_producerComplete (wg : Nat) (warp : Nat) (idx : Nat) (s : State) : exec (.producerComplete wg warp idx) s = execProducerComplete wg warp idx s := rfl
theorem exec_storeQueueDrain (wg : Nat) (warp : Nat) (s : State) : exec (.storeQueueDrain wg warp) s = execStoreQueueDrain wg warp s := rfl
theorem exec_tableWalk (wg : Nat) (warp : Nat) (split : Nat) (va : BitVec 64) (access : Access) (s : State) : exec (.tableWalk wg warp split va access) s = execTableWalk wg warp split va access s := rfl
theorem exec_faultEntryRecheck (die : Nat) (entry : Nat) (s : State) : exec (.faultEntryRecheck die entry) s = execFaultEntryRecheck die entry s := rfl
theorem exec_faultQueueWaitEnd (die : Nat) (s : State) : exec (.faultQueueWaitEnd die) s = execFaultQueueWaitEnd die s := rfl
theorem exec_faultResolutionLimit (die : Nat) (entry : Nat) (s : State) : exec (.faultResolutionLimit die entry) s = execFaultResolutionLimit die entry s := rfl
theorem exec_icacheFill (core : Nat) (sub : Nat) (s : State) : exec (.icacheFill core sub) s = execIcacheFill core sub s := rfl
theorem exec_cpaJobComplete (job : Nat) (s : State) : exec (.cpaJobComplete job) s = execCpaJobComplete job s := rfl
theorem exec_kickRequestComplete (job : Nat) (s : State) : exec (.kickRequestComplete job) s = execKickRequestComplete job s := rfl
theorem exec_trellisJobComplete (job : Nat) (s : State) : exec (.trellisJobComplete job) s = execTrellisJobComplete job s := rfl
theorem exec_caprdJobComplete (job : Nat) (s : State) : exec (.caprdJobComplete job) s = execCaprdJobComplete job s := rfl
theorem exec_matrixOpExecute (wg : Nat) (s : State) : exec (.matrixOpExecute wg) s = execMatrixOpExecute wg s := rfl
theorem exec_matrixOpComplete (wg : Nat) (s : State) : exec (.matrixOpComplete wg) s = execMatrixOpComplete wg s := rfl
theorem exec_formatEmulation (wg : Nat) (warp : Nat) (split : Nat) (s : State) : exec (.formatEmulation wg warp split) s = execFormatEmulation wg warp split s := rfl
theorem exec_monitorTimeout (die : Nat) (idx : Nat) (s : State) : exec (.monitorTimeout die idx) s = execMonitorTimeout die idx s := rfl
theorem exec_sleepExpiry (wg : Nat) (warp : Nat) (split : Nat) (s : State) : exec (.sleepExpiry wg warp split) s = execSleepExpiry wg warp split s := rfl
theorem exec_barrierDeadlock (wg : Nat) (s : State) : exec (.barrierDeadlock wg) s = execBarrierDeadlock wg s := rfl
theorem exec_gangBarrierDeadlock (gang : Nat) (s : State) : exec (.gangBarrierDeadlock gang) s = execGangBarrierDeadlock gang s := rfl
theorem exec_rejoinDeadlock (wg : Nat) (warp : Nat) (s : State) : exec (.rejoinDeadlock wg warp) s = execRejoinDeadlock wg warp s := rfl
theorem exec_trapDelivery (wg : Nat) (warp : Nat) (s : State) : exec (.trapDelivery wg warp) s = execTrapDelivery wg warp s := rfl
theorem exec_watchdog (launch : Nat) (s : State) : exec (.watchdog launch) s = execWatchdog launch s := rfl
theorem exec_workGroupPlace (die : Nat) (s : State) : exec (.workGroupPlace die) s = execWorkGroupPlace die s := rfl
theorem exec_gangPlace (die : Nat) (s : State) : exec (.gangPlace die) s = execGangPlace die s := rfl
theorem exec_headAged (die : Nat) (ctx : Nat) (queue : Nat) (s : State) : exec (.headAged die ctx queue) s = execHeadAged die ctx queue s := rfl
theorem exec_warpSwap (core : Nat) (sub : Nat) (s : State) : exec (.warpSwap core sub) s = execWarpSwap core sub s := rfl
theorem exec_ageingPromotion (wg : Nat) (warp : Nat) (split : Nat) (s : State) : exec (.ageingPromotion wg warp split) s = execAgeingPromotion wg warp split s := rfl
theorem exec_workGroupRetire (wg : Nat) (s : State) : exec (.workGroupRetire wg) s = execWorkGroupRetire wg s := rfl
theorem exec_launchComplete (launch : Nat) (s : State) : exec (.launchComplete launch) s = execLaunchComplete launch s := rfl
theorem exec_timeSlice (ctx : Nat) (core : Nat) (s : State) : exec (.timeSlice ctx core) s = execTimeSlice ctx core s := rfl
theorem exec_gangSave (gang : Nat) (s : State) : exec (.gangSave gang) s = execGangSave gang s := rfl
theorem exec_preemptionComplete (ctx : Nat) (s : State) : exec (.preemptionComplete ctx) s = execPreemptionComplete ctx s := rfl
theorem exec_preemptionDeadline (ctx : Nat) (s : State) : exec (.preemptionDeadline ctx) s = execPreemptionDeadline ctx s := rfl
theorem exec_translationInvalidateComplete (idx : Nat) (s : State) : exec (.translationInvalidateComplete idx) s = execTranslationInvalidateComplete idx s := rfl
theorem exec_clockStepDown (die : Nat) (s : State) : exec (.clockStepDown die) s = execClockStepDown die s := rfl
theorem exec_clockStepUp (die : Nat) (s : State) : exec (.clockStepUp die) s = execClockStepUp die s := rfl
theorem exec_varveTimeAnchor (core : Nat) (s : State) : exec (.varveTimeAnchor core) s = execVarveTimeAnchor core s := rfl
theorem exec_issueSample (core : Nat) (sub : Nat) (s : State) : exec (.issueSample core sub) s = execIssueSample core sub s := rfl
theorem exec_varveDropRecord (core : Nat) (s : State) : exec (.varveDropRecord core) s = execVarveDropRecord core s := rfl
theorem exec_freezeArrival (core : Nat) (s : State) : exec (.freezeArrival core) s = execFreezeArrival core s := rfl
theorem exec_capsuleSeal (s : State) : exec (.capsuleSeal) s = execCapsuleSeal s := rfl
theorem exec_createContext (page : Nat) (s : State) : exec (.createContext page) s = execCreateContext page s := rfl
theorem exec_destroyContext (page : Nat) (s : State) : exec (.destroyContext page) s = execDestroyContext page s := rfl
theorem exec_load (page : Nat) (s : State) : exec (.load page) s = execLoad page s := rfl
theorem exec_unload (page : Nat) (s : State) : exec (.unload page) s = execUnload page s := rfl
theorem exec_hostLaunch (page : Nat) (s : State) : exec (.hostLaunch page) s = execHostLaunch page s := rfl
theorem exec_preEmpt (page : Nat) (s : State) : exec (.preEmpt page) s = execPreEmpt page s := rfl
theorem exec_resume (page : Nat) (s : State) : exec (.resume page) s = execResume page s := rfl
theorem exec_translationInvalidate (page : Nat) (s : State) : exec (.translationInvalidate page) s = execTranslationInvalidate page s := rfl
theorem exec_instructionCacheInvalidate (page : Nat) (s : State) : exec (.instructionCacheInvalidate page) s = execInstructionCacheInvalidate page s := rfl
theorem exec_forcedReset (page : Nat) (s : State) : exec (.forcedReset page) s = execForcedReset page s := rfl
theorem exec_quote (page : Nat) (s : State) : exec (.quote page) s = execQuote page s := rfl
theorem exec_capsuleRelease (page : Nat) (s : State) : exec (.capsuleRelease page) s = execCapsuleRelease page s := rfl
theorem exec_faultReplay (page : Nat) (s : State) : exec (.faultReplay page) s = execFaultReplay page s := rfl
theorem exec_faultFail (page : Nat) (s : State) : exec (.faultFail page) s = execFaultFail page s := rfl
theorem exec_trapResume (page : Nat) (s : State) : exec (.trapResume page) s = execTrapResume page s := rfl
theorem exec_trapReset (page : Nat) (s : State) : exec (.trapReset page) s = execTrapReset page s := rfl
theorem exec_lostLineClear (page : Nat) (s : State) : exec (.lostLineClear page) s = execLostLineClear page s := rfl
theorem exec_writePerformedAtHomeSlice (core : Nat) (idx : Nat) (s : State) : exec (.writePerformedAtHomeSlice core idx) s = execWritePerformedAtHomeSlice core idx s := rfl
theorem exec_badOpcode (page : Nat) (s : State) : exec (.badOpcode page) s = execBadOpcode page s := rfl
theorem exec_patrolScrub (line : Nat) (s : State) : exec (.patrolScrub line) s = execPatrolScrub line s := rfl
theorem exec_powerSample (die : Nat) (tj : Int) (s : State) : exec (.powerSample die tj) s = execPowerSample die tj s := rfl
theorem exec_linkCrcRetransmit (src : Nat) (dst : Nat) (s : State) : exec (.linkCrcRetransmit src dst) s = execLinkCrcRetransmit src dst s := rfl
theorem exec_linkRetrainFailure (core : Nat) (s : State) : exec (.linkRetrainFailure core) s = execLinkRetrainFailure core s := rfl
theorem exec_powerGood (result : BringUp) (s : State) : exec (.powerGood result) s = execPowerGood result s := rfl
theorem exec_bringUpTimeout (s : State) : exec (.bringUpTimeout) s = execBringUpTimeout s := rfl
theorem exec_powerLoss (s : State) : exec (.powerLoss) s = execPowerLoss s := rfl
theorem exec_managementWarmReset (s : State) : exec (.managementWarmReset) s = execManagementWarmReset s := rfl
theorem exec_managementColdReset (s : State) : exec (.managementColdReset) s = execManagementColdReset s := rfl
theorem exec_managementCapsuleRelease (s : State) : exec (.managementCapsuleRelease) s = execManagementCapsuleRelease s := rfl
theorem exec_managementReadCapsule (block : Nat) (s : State) : exec (.managementReadCapsule block) s = execManagementReadCapsule block s := rfl
theorem exec_managementReadSummary (die : Nat) (s : State) : exec (.managementReadSummary die) s = execManagementReadSummary die s := rfl
theorem exec_managementReadStatus (s : State) : exec (.managementReadStatus) s = execManagementReadStatus s := rfl
theorem exec_managementReadKeys (s : State) : exec (.managementReadKeys) s = execManagementReadKeys s := rfl
theorem exec_managementReadTelemetry (s : State) : exec (.managementReadTelemetry) s = execManagementReadTelemetry s := rfl
theorem exec_hostWrite (offset : Nat) (bytes : List Byte) (s : State) :
    exec (.hostWrite offset bytes) s = execHostWrite offset bytes s := rfl
theorem exec_hostRead (offset : Nat) (len : Nat) (s : State) : exec (.hostRead offset len) s = execHostRead offset len s := rfl
theorem exec_peerInboundAccess (peer : Nat) (addr : Nat) (write : Option (List Byte)) (len : Nat) (s : State) : exec (.peerInboundAccess peer addr write len) s = execPeerInboundAccess peer addr write len s := rfl
theorem exec_sessionAgree (session : Nat) (port : Nat) (s : State) : exec (.sessionAgree session port) s = execSessionAgree session port s := rfl
theorem exec_frameReceive (session : Nat) (counter : BitVec 64) (body : List Byte) (tag : BitVec 128) (s : State) : exec (.frameReceive session counter body tag) s = execFrameReceive session counter body tag s := rfl
theorem exec_frameTransmit (session : Nat) (body : List Byte) (s : State) : exec (.frameTransmit session body) s = execFrameTransmit session body s := rfl
theorem exec_sessionRekey (session : Nat) (s : State) : exec (.sessionRekey session) s = execSessionRekey session s := rfl
theorem exec_oldKeyExpiry (session : Nat) (s : State) : exec (.oldKeyExpiry session) s = execOldKeyExpiry session s := rfl
theorem exec_registerWrite (offset : Nat) (value : BitVec 64) (s : State) : exec (.registerWrite offset value) s = execRegisterWrite offset value s := rfl
theorem exec_cplHeadWrite (page : Nat) (value : BitVec 32) (s : State) : exec (.cplHeadWrite page value) s = execCplHeadWrite page value s := rfl
theorem exec_lrReadWrite (page : Nat) (value : BitVec 32) (s : State) : exec (.lrReadWrite page value) s = execLrReadWrite page value s := rfl
theorem exec_peerAcknowledgement (peer : Nat) (s : State) : exec (.peerAcknowledgement peer) s = execPeerAcknowledgement peer s := rfl
theorem exec_liveRouteChange (peer : Nat) (up : Bool) (s : State) : exec (.liveRouteChange peer up) s = execLiveRouteChange peer up s := rfl
theorem exec_doorbell (page : Nat) (tail : BitVec 32) (s : State) : exec (.doorbell page tail) s = execDoorbell page tail s := rfl

/-! ### Fields -/

theorem useOf_nop (env : Env) (f : FmtC) : useOf env (.nop f) =
    some (useC f false false false 0 true) := rfl
theorem useOf_bra (env : Env) (f : FmtC) : useOf env (.bra f) =
    some (useC f true false false 0 true) := rfl
theorem useOf_brx (env : Env) (f : FmtC) : useOf env (.brx f) =
    some (useC f true false false 8 true [srcOp (lowReg f) 1 false]) := rfl
theorem useOf_call (env : Env) (f : FmtC) : useOf env (.call f) =
    some (useC f true false false 8 true [(dstOp (lowReg f) 2).vector]) := rfl
theorem useOf_ret (env : Env) (f : FmtC) : useOf env (.ret f) =
    some (useC f false false false 8 true [(srcOp (lowReg f) 2 false).vector]) := rfl
theorem useOf_switch (env : Env) (f : FmtCS) : useOf env (.switch f) =
    some (useSwitch f) := rfl
theorem useOf_rset (env : Env) (f : FmtC) : useOf env (.rset f) =
    some (useC f false true false 0 false) := rfl
theorem useOf_rwait (env : Env) (f : FmtC) : useOf env (.rwait f) =
    some (useC f false true false 0 false) := rfl
theorem useOf_rleave (env : Env) (f : FmtC) : useOf env (.rleave f) =
    some (useC f false true false 0 false) := rfl
theorem useOf_yield (env : Env) (f : FmtC) : useOf env (.yield f) =
    some (useC f false false false 0 true) := rfl
theorem useOf_exit (env : Env) (f : FmtC) : useOf env (.exit f) =
    some (useC f false false false 4 true) := rfl
theorem useOf_region (env : Env) (f : FmtC) : useOf env (.region f) =
    some (useC f false false false 0 false) := rfl
theorem useOf_launch (env : Env) (f : FmtS) : useOf env (.launch f) =
    some (useS f (.dst 1) (.src 2) .zero .zero 6 0 true) := rfl
theorem useOf_trap (env : Env) (f : FmtC) : useOf env (.trap f) =
    some (useC f false false false 10 true) := rfl
theorem useOf_bkpt (env : Env) (f : FmtC) : useOf env (.bkpt f) =
    some (useC f false false false 10 true) := rfl
theorem useOf_iadd (env : Env) (f : FmtR) : useOf env (.iadd f) =
    some (useInt f 2 true) := rfl
theorem useOf_isub (env : Env) (f : FmtR) : useOf env (.isub f) =
    some (useInt f 2 true) := rfl
theorem useOf_imul (env : Env) (f : FmtR) : useOf env (.imul f) =
    some (useInt f 2 true) := rfl
theorem useOf_imulh (env : Env) (f : FmtR) : useOf env (.imulh f) =
    some (useInt f 2 true) := rfl
theorem useOf_imad (env : Env) (f : FmtR) : useOf env (.imad f) =
    some (useInt f 3 true) := rfl
theorem useOf_idiv (env : Env) (f : FmtR) : useOf env (.idiv f) =
    some (useInt f 2 true) := rfl
theorem useOf_irem (env : Env) (f : FmtR) : useOf env (.irem f) =
    some (useInt f 2 true) := rfl
theorem useOf_imin (env : Env) (f : FmtR) : useOf env (.imin f) =
    some (useInt f 2 true) := rfl
theorem useOf_imax (env : Env) (f : FmtR) : useOf env (.imax f) =
    some (useInt f 2 true) := rfl
theorem useOf_iabs (env : Env) (f : FmtR) : useOf env (.iabs f) =
    some ((useInt f 1 true).alsoReserved (isUnsignedType f.f)) := rfl
theorem useOf_ineg (env : Env) (f : FmtR) : useOf env (.ineg f) =
    some (useInt f 1 true) := rfl
theorem useOf_isat (env : Env) (f : FmtR) : useOf env (.isat f) =
    some (useInt f 1 false) := rfl
theorem useOf_iadds (env : Env) (f : FmtR) : useOf env (.iadds f) =
    some (useInt f 2 false) := rfl
theorem useOf_isubs (env : Env) (f : FmtR) : useOf env (.isubs f) =
    some (useInt f 2 false) := rfl
theorem useOf_icmp (env : Env) (f : FmtR) : useOf env (.icmp f) =
    some (useCmp f) := rfl
theorem useOf_qadd (env : Env) (f : FmtR) : useOf env (.qadd f) =
    some (useR f (.dst 4) (.src 4) (.src 4) .zero (f.f == 0) false false true) := rfl
theorem useOf_and (env : Env) (f : FmtR) : useOf env (.and f) =
    some (useBit f 2) := rfl
theorem useOf_or (env : Env) (f : FmtR) : useOf env (.or f) =
    some (useBit f 2) := rfl
theorem useOf_xor (env : Env) (f : FmtR) : useOf env (.xor f) =
    some (useBit f 2) := rfl
theorem useOf_andn (env : Env) (f : FmtR) : useOf env (.andn f) =
    some (useBit f 2) := rfl
theorem useOf_not (env : Env) (f : FmtR) : useOf env (.not f) =
    some (useBit f 1) := rfl
theorem useOf_shl (env : Env) (f : FmtR) : useOf env (.shl f) =
    some (useBit f 2) := rfl
theorem useOf_shr (env : Env) (f : FmtR) : useOf env (.shr f) =
    some (useBit f 2) := rfl
theorem useOf_sar (env : Env) (f : FmtR) : useOf env (.sar f) =
    some (useBit f 2) := rfl
theorem useOf_rol (env : Env) (f : FmtR) : useOf env (.rol f) =
    some (useBit f 2) := rfl
theorem useOf_bfx (env : Env) (f : FmtR) : useOf env (.bfx f) =
    some (useField f false) := rfl
theorem useOf_bfi (env : Env) (f : FmtR) : useOf env (.bfi f) =
    some (useField f true) := rfl
theorem useOf_popc (env : Env) (f : FmtR) : useOf env (.popc f) =
    some (useBit f 1) := rfl
theorem useOf_clz (env : Env) (f : FmtR) : useOf env (.clz f) =
    some (useBit f 1) := rfl
theorem useOf_ctz (env : Env) (f : FmtR) : useOf env (.ctz f) =
    some (useBit f 1) := rfl
theorem useOf_brev (env : Env) (f : FmtR) : useOf env (.brev f) =
    some (useBit f 1) := rfl
theorem useOf_lea (env : Env) (f : FmtR) : useOf env (.lea f) =
    some (useLea f) := rfl
theorem useOf_iaddi (env : Env) (f : FmtI) : useOf env (.iaddi f) =
    some (useImm f 8) := rfl
theorem useOf_imuli (env : Env) (f : FmtI) : useOf env (.imuli f) =
    some (useImm f 8) := rfl
theorem useOf_andi (env : Env) (f : FmtI) : useOf env (.andi f) =
    some (useImm f 9) := rfl
theorem useOf_ori (env : Env) (f : FmtI) : useOf env (.ori f) =
    some (useImm f 9) := rfl
theorem useOf_xori (env : Env) (f : FmtI) : useOf env (.xori f) =
    some (useImm f 9) := rfl
theorem useOf_shli (env : Env) (f : FmtI) : useOf env (.shli f) =
    some (useImm f 9) := rfl
theorem useOf_shri (env : Env) (f : FmtI) : useOf env (.shri f) =
    some (useImm f 9) := rfl
theorem useOf_sari (env : Env) (f : FmtI) : useOf env (.sari f) =
    some (useImm f 9) := rfl
theorem useOf_icmpi (env : Env) (f : FmtI) : useOf env (.icmpi f) =
    some (useI f (.maskCond 6) (.src (typeRegs f.f)) (4 ≤ f.f.toNat && f.f.toNat < 8) false false) := rfl
theorem useOf_imadi (env : Env) (f : FmtI) : useOf env (.imadi f) =
    some (useI f (.both (typeRegs f.f)) (.src (typeRegs f.f)) (f.f.toNat < 8) false false) := rfl
theorem useOf_movi (env : Env) (f : FmtI) : useOf env (.movi f) =
    some (useI f (.dst 1) .zero (f.f == 0) false false) := rfl
theorem useOf_movw (env : Env) (f : FmtI) : useOf env (.movw f) =
    some (useI f (.dst 2) .zero (f.f == 0) false true) := rfl
theorem useOf_mov (env : Env) (f : FmtR) : useOf env (.mov f) =
    some (useBit f 1) := rfl
theorem useOf_sel (env : Env) (f : FmtR) : useOf env (.sel f) =
    some (useR f (.dst 1) (.src 1) (.src 1) (.sel false (badField f.c 4)) (f.f == 0) false false true) := rfl
theorem useOf_movs (env : Env) (f : FmtR) : useOf env (.movs f) =
    some (useR f (.dstLate 1) (.srcLateScalar 1) (.src 1) .zero (f.f == 0) false false true) := rfl
theorem useOf_prmt (env : Env) (f : FmtR) : useOf env (.prmt f) =
    some (useR f (.dst 1) (.src 1) (.src 1) (.src 1) (f.f == 8) false false true) := rfl
theorem useOf_fadd (env : Env) (f : FmtR) : useOf env (.fadd f) =
    some (useFloat env f 2) := rfl
theorem useOf_fsub (env : Env) (f : FmtR) : useOf env (.fsub f) =
    some (useFloat env f 2) := rfl
theorem useOf_fmul (env : Env) (f : FmtR) : useOf env (.fmul f) =
    some (useFloat env f 2) := rfl
theorem useOf_ffma (env : Env) (f : FmtR) : useOf env (.ffma f) =
    some (useFloat env f 3) := rfl
theorem useOf_fmin (env : Env) (f : FmtR) : useOf env (.fmin f) =
    some (useFloat env f 2) := rfl
theorem useOf_fmax (env : Env) (f : FmtR) : useOf env (.fmax f) =
    some (useFloat env f 2) := rfl
theorem useOf_fminn (env : Env) (f : FmtR) : useOf env (.fminn f) =
    some (useFloat env f 2) := rfl
theorem useOf_fmaxn (env : Env) (f : FmtR) : useOf env (.fmaxn f) =
    some (useFloat env f 2) := rfl
theorem useOf_fcmp (env : Env) (f : FmtR) : useOf env (.fcmp f) =
    some (useR f (.maskCond 8) (.src (slotRegs env f.f.toNat)) (.src (slotRegs env f.f.toNat)) .zero true true false true) := rfl
theorem useOf_fclass (env : Env) (f : FmtR) : useOf env (.fclass f) =
    some ((useR f (.dst 1) (.src (slotRegs env f.f.toNat)) .zero .zero true true false true).paired (slotRegs env f.f.toNat)) := rfl
theorem useOf_fdiv (env : Env) (f : FmtR) : useOf env (.fdiv f) =
    some (useFloat env f 2) := rfl
theorem useOf_fsqrt (env : Env) (f : FmtR) : useOf env (.fsqrt f) =
    some (useFloat env f 1) := rfl
theorem useOf_frcp (env : Env) (f : FmtR) : useOf env (.frcp f) =
    some (useFloat env f 1) := rfl
theorem useOf_frsq (env : Env) (f : FmtR) : useOf env (.frsq f) =
    some (useFloat env f 1) := rfl
theorem useOf_fexp2 (env : Env) (f : FmtR) : useOf env (.fexp2 f) =
    some (useFloat env f 1) := rfl
theorem useOf_flog2 (env : Env) (f : FmtR) : useOf env (.flog2 f) =
    some (useFloat env f 1) := rfl
theorem useOf_fsin (env : Env) (f : FmtR) : useOf env (.fsin f) =
    some (useFloat env f 1) := rfl
theorem useOf_fcos (env : Env) (f : FmtR) : useOf env (.fcos f) =
    some (useFloat env f 1) := rfl
theorem useOf_ftanh (env : Env) (f : FmtR) : useOf env (.ftanh f) =
    some (useFloat env f 1) := rfl
theorem useOf_frnd (env : Env) (f : FmtR) : useOf env (.frnd f) =
    some (useFloat env f 1) := rfl
theorem useOf_fscale (env : Env) (f : FmtR) : useOf env (.fscale f) =
    some (useFloat env f 2) := rfl
theorem useOf_fcvt (env : Env) (f : FmtR) : useOf env (.fcvt f) =
    some (useR f (.dst (slotRegs env f.f.toNat)) (.src (slotRegs env (f.c.toNat % 16))) .zero (.sel false (badField f.c 4)) true true false true) := rfl
theorem useOf_ftoi (env : Env) (f : FmtR) : useOf env (.ftoi f) =
    some (useR f (.dst (typeRegs (f.c.extractLsb' 0 4))) (.src (slotRegs env f.f.toNat)) .zero (.sel (8 ≤ f.c.toNat) false) true true false true) := rfl
theorem useOf_itof (env : Env) (f : FmtR) : useOf env (.itof f) =
    some (useR f (.dst (slotRegs env f.f.toNat)) (.src (typeRegs (f.c.extractLsb' 0 4))) .zero (.sel (8 ≤ f.c.toNat) false) true true false true) := rfl
theorem useOf_faddi (env : Env) (f : FmtI) : useOf env (.faddi f) =
    some (useI f (.dst (slotRegs env f.f.toNat)) (.src (slotRegs env f.f.toNat)) true true false) := rfl
theorem useOf_fmuli (env : Env) (f : FmtI) : useOf env (.fmuli f) =
    some (useI f (.dst (slotRegs env f.f.toNat)) (.src (slotRegs env f.f.toNat)) true true false) := rfl
theorem useOf_ffmai (env : Env) (f : FmtI) : useOf env (.ffmai f) =
    some (useI f (.both (slotRegs env f.f.toNat)) (.src (slotRegs env f.f.toNat)) true true false) := rfl
theorem useOf_exte (env : Env) (f : FmtR) : useOf env (.exte f) =
    some ((useR f (.dst (slotRegs env f.f.toNat)) (.src (slotRegs env f.f.toNat)) (.src 1) .zero true false false true).paired (slotRegs env f.f.toNat)) := rfl
theorem useOf_inse (env : Env) (f : FmtR) : useOf env (.inse f) =
    some ((useR f (.both (slotRegs env f.f.toNat)) (.src (slotRegs env f.f.toNat)) (.src 1) .zero true false false true).paired (slotRegs env f.f.toNat)) := rfl
theorem useOf_srseed (env : Env) (f : FmtR) : useOf env (.srseed f) =
    some (useR f .zero (.srcScalar 4) .zero .zero (f.f == 0) false false false) := rfl
theorem useOf_fmtset (env : Env) (f : FmtR) : useOf env (.fmtset f) =
    some (useR f .zero (.srcScalar 2) .zero .zero true false false false) := rfl
theorem useOf_fmtget (env : Env) (f : FmtR) : useOf env (.fmtget f) =
    some (useR f (.dstScalar 2) .zero .zero .zero true false false true) := rfl
theorem useOf_fmtchk (env : Env) (f : FmtR) : useOf env (.fmtchk f) =
    some (useR f (.dst 1) (.src 2) .zero .zero (f.f == 0) false false true) := rfl
theorem useOf_rand (env : Env) (f : FmtR) : useOf env (.rand f) =
    some (useR f (.dst 4) (.src 4) (.src 4) .zero (f.f == 0) false false true) := rfl
theorem useOf_wrng (env : Env) (f : FmtR) : useOf env (.wrng f) =
    some (useR f (.dst 1) .zero .zero .zero (f.f == 0) false false true) := rfl
theorem useOf_mand (env : Env) (f : FmtR) : useOf env (.mand f) =
    some (useMask f .mask .mask .mask) := rfl
theorem useOf_mor (env : Env) (f : FmtR) : useOf env (.mor f) =
    some (useMask f .mask .mask .mask) := rfl
theorem useOf_mxor (env : Env) (f : FmtR) : useOf env (.mxor f) =
    some (useMask f .mask .mask .mask) := rfl
theorem useOf_mnot (env : Env) (f : FmtR) : useOf env (.mnot f) =
    some (useMask f .mask .mask .zero) := rfl
theorem useOf_mpopc (env : Env) (f : FmtR) : useOf env (.mpopc f) =
    some (useMask f (.dst 1) .mask .zero) := rfl
theorem useOf_mfirst (env : Env) (f : FmtR) : useOf env (.mfirst f) =
    some (useMask f (.dst 1) .mask .zero) := rfl
theorem useOf_ballot (env : Env) (f : FmtR) : useOf env (.ballot f) =
    some (useMask f .mask (.src 1) .zero) := rfl
theorem useOf_mtos (env : Env) (f : FmtR) : useOf env (.mtos f) =
    some (useMask f (.dst (maskRegs env)) .mask .zero) := rfl
theorem useOf_stom (env : Env) (f : FmtR) : useOf env (.stom f) =
    some (useMask f .mask (.srcScalar (maskRegs env)) .zero) := rfl
theorem useOf_vote (env : Env) (f : FmtR) : useOf env (.vote f) =
    some (useR f .mask (.src 1) .zero (.sel (3 ≤ f.c.toNat) false) (f.f == 0) false false true) := rfl
theorem useOf_shfl (env : Env) (f : FmtR) : useOf env (.shfl f) =
    some (useExchange f (.dstLate 1) (.srcLate 1) .zero) := rfl
theorem useOf_shflb (env : Env) (f : FmtR) : useOf env (.shflb f) =
    some (useExchange f (.dstLate 1) (.srcLate 1) (.src 1)) := rfl
theorem useOf_bfly (env : Env) (f : FmtR) : useOf env (.bfly f) =
    some (useExchange f (.bothLate 1) (.bothLate 1) .zero) := rfl
theorem useOf_qswp (env : Env) (f : FmtR) : useOf env (.qswp f) =
    some (useExchange f (.dstLate 1) (.srcLate 1) .zero) := rfl
theorem useOf_qbcst (env : Env) (f : FmtR) : useOf env (.qbcst f) =
    some (useExchange f (.dstLate 1) (.srcLate 1) .zero) := rfl
theorem useOf_wred (env : Env) (f : FmtR) : useOf env (.wred f) =
    some (useReduce env f false) := rfl
theorem useOf_wscan (env : Env) (f : FmtR) : useOf env (.wscan f) =
    some (useReduce env f true) := rfl
theorem useOf_ld (env : Env) (f : FmtM) : useOf env (.ld f) =
    some (useLdSt f true) := rfl
theorem useOf_st (env : Env) (f : FmtM) : useOf env (.st f) =
    some (useLdSt f false) := rfl
theorem useOf_ldf (env : Env) (f : FmtM) : useOf env (.ldf f) =
    some (usePacked env f true) := rfl
theorem useOf_stf (env : Env) (f : FmtM) : useOf env (.stf f) =
    some (usePacked env f false) := rfl
theorem useOf_pref (env : Env) (f : FmtM) : useOf env (.pref f) =
    some (usePref f false) := rfl
theorem useOf_ipref (env : Env) (f : FmtM) : useOf env (.ipref f) =
    some (usePref f true) := rfl
theorem useOf_fence (env : Env) (f : FmtM) : useOf env (.fence f) =
    some (useFence f) := rfl
theorem useOf_atom (env : Env) (f : FmtMO) : useOf env (.atom f) =
    some (useAtom f true false) := rfl
theorem useOf_red (env : Env) (f : FmtMO) : useOf env (.red f) =
    some (useAtom f false false) := rfl
theorem useOf_cas (env : Env) (f : FmtMO) : useOf env (.cas f) =
    some (useAtom f true true) := rfl
theorem useOf_txb (env : Env) (f : FmtC) : useOf env (.txb f) =
    some (useC f true false false 0 true) := rfl
theorem useOf_txe (env : Env) (f : FmtC) : useOf env (.txe f) =
    some (useC f false false false 0 true) := rfl
theorem useOf_txa (env : Env) (f : FmtC) : useOf env (.txa f) =
    some (useC f false false false 8 true) := rfl
theorem useOf_txst (env : Env) (f : FmtR) : useOf env (.txst f) =
    some (useR f (.dst 1) .zero .zero .zero (f.f == 0) false false true) := rfl
theorem useOf_amxadv (env : Env) (f : FmtM) : useOf env (.amxadv f) =
    some (useScale f true) := rfl
theorem useOf_sclget (env : Env) (f : FmtM) : useOf env (.sclget f) =
    some (useScale f false) := rfl
theorem useOf_cpa (env : Env) (f : FmtMO) : useOf env (.cpa f) =
    some (useCpa f) := rfl
theorem useOf_cpwait (env : Env) (f : FmtC) : useOf env (.cpwait f) =
    some (useCpwait f) := rfl
theorem useOf_cpcnt (env : Env) (f : FmtS) : useOf env (.cpcnt f) =
    some (useS f (.dst 1) .zero .zero .zero 2 0 true) := rfl
theorem useOf_kick (env : Env) (f : FmtS) : useOf env (.kick f) =
    some ((useS f (.dst 1) (.src 1) (.src 1) (.src 1) 0 1 true).scalarOnly) := rfl
theorem useOf_binit (env : Env) (f : FmtR) : useOf env (.binit f) =
    some (useR f .zero (.src 1) (.src 1) .zero (f.f == 0) false false true) := rfl
theorem useOf_barr (env : Env) (f : FmtR) : useOf env (.barr f) =
    some (useR f (.dst 1) (.src 1) (.src 1) (.src 1) (f.f == 0) false false true) := rfl
theorem useOf_bwait (env : Env) (f : FmtR) : useOf env (.bwait f) =
    some (useR f .zero (.src 1) (.src 1) .zero (f.f == 0) false false true) := rfl
theorem useOf_btest (env : Env) (f : FmtR) : useOf env (.btest f) =
    some (useR f (.dst 1) (.src 1) (.src 1) .zero (f.f == 0) false false true) := rfl
theorem useOf_bar (env : Env) (f : FmtC) : useOf env (.bar f) =
    some (useC f false false false 0 false) := rfl
theorem useOf_gsync (env : Env) (f : FmtC) : useOf env (.gsync f) =
    some (useC f false false false 0 false) := rfl
theorem useOf_monw (env : Env) (f : FmtR) : useOf env (.monw f) =
    some (useR f (.dst 2) (.srcScalar 2) (.srcScalar 1) (.srcScalar 1) (f.f == 0) false false true) := rfl
theorem useOf_monx (env : Env) (f : FmtR) : useOf env (.monx f) =
    some (useR f (.dst 1) (.srcScalar 2) (.srcScalar 1) .zero (f.f == 0) false false true) := rfl
theorem useOf_mldb (env : Env) (f : FmtX) : useOf env (.mldb f) =
    some (useX f false true true true true true false (f.low.extractLsb' 0 11 != 0) true [(srcOp (xReg f 11) 1 false).scalar]) := rfl
theorem useOf_mldbs (env : Env) (f : FmtX) : useOf env (.mldbs f) =
    some (useX f false true true true true true false (f.low.extractLsb' 0 11 != 0) true [(srcOp (xReg f 11) 1 false).scalar]) := rfl
theorem useOf_mldt (env : Env) (f : FmtX) : useOf env (.mldt f) =
    some (useX f false false true true false true false (f.sparse || f.low.extractLsb' 0 8 != 0) true [(srcOp (xReg f 8) 1 false).scalar]) := rfl
theorem useOf_mma (env : Env) (f : FmtX) : useOf env (.mma f) =
    some (useX f true true true true true true true (f.sparse || f.low.extractLsb' 0 17 != 0) true []) := rfl
theorem useOf_mmas (env : Env) (f : FmtX) : useOf env (.mmas f) =
    some (useX f true true true true true true true (!f.sparse || f.low.extractLsb' 0 14 != 0 || f.low.extractLsb' 14 3 == 7) true []) := rfl
theorem useOf_msig (env : Env) (f : FmtX) : useOf env (.msig f) =
    some (useX f false false true false false true false (f.sparse || f.low != 0) true []) := rfl
theorem useOf_mkset (env : Env) (f : FmtX) : useOf env (.mkset f) =
    some (useX f false false false false false true false (f.sparse || !f.useK || f.low.extractLsb' 0 7 != 0) false []) := rfl
theorem useOf_mzero (env : Env) (f : FmtX) : useOf env (.mzero f) =
    some (useX f true false false false false true false (f.sparse || f.low != 0) true []) := rfl
theorem useOf_mst (env : Env) (f : FmtX) : useOf env (.mst f) =
    some (useX f true true false true false true false (badMst f) true (if f.low.getLsbD 1 || f.low.extractLsb' 9 2 == 3 then [(srcOp (xReg f 11) 2 false).scalar] else [])) := rfl
theorem useOf_mrd (env : Env) (f : FmtX) : useOf env (.mrd f) =
    some (useX f true false false false false false false (f.sparse || f.low.extractLsb' 0 3 != 0) true [dstOp (xReg f 11) 1, srcOp (xReg f 3) 1 false]) := rfl
theorem useOf_mwr (env : Env) (f : FmtX) : useOf env (.mwr f) =
    some (useX f true false false false false false false (f.sparse || f.low.extractLsb' 0 3 != 0) true [srcOp (xReg f 11) 1 false, srcOp (xReg f 3) 1 false]) := rfl
theorem useOf_mscl (env : Env) (f : FmtX) : useOf env (.mscl f) =
    some (useX f false true false false false true false (f.sparse || f.low.extractLsb' 0 10 != 0) true []) := rfl
theorem useOf_mwait (env : Env) (f : FmtX) : useOf env (.mwait f) =
    some (useX f false false false false false false false (f.sparse || f.low.extractLsb' 0 10 != 0 || (f.low.getLsbD 10 && xReg f 11 != 0)) true (if f.low.getLsbD 10 then [] else [(srcOp (xReg f 11) 1 false).scalar])) := rfl
theorem useOf_mstat (env : Env) (f : FmtX) : useOf env (.mstat f) =
    some (useX f false false false false false false false (f.sparse || f.low.extractLsb' 0 7 != 0 || 4 ≤ (f.low.extractLsb' 7 4).toNat) true [dstOp (xReg f 11) 1]) := rfl
theorem useOf_wset (env : Env) (f : FmtS) : useOf env (.wset f) =
    some (useS f .zero (.srcScalar 4) .zero .zero 3 0 true) := rfl
theorem useOf_wget (env : Env) (f : FmtS) : useOf env (.wget f) =
    some (useS f (.dst 1) .zero .zero .zero 5 0 true) := rfl
theorem useOf_trdec (env : Env) (f : FmtR) : useOf env (.trdec f) =
    some ((useR f (.dst (slotRegs env f.f.toNat)) (.src 1) .zero (.sel false (badField f.c 3)) true false false true)) := rfl
theorem useOf_trdecn (env : Env) (f : FmtS) : useOf env (.trdecn f) =
    some (useS f .zero (.srcScalar 1) (.srcScalar 1) (.srcScalar 1) 7 0 true) := rfl
theorem useOf_trenc (env : Env) (f : FmtS) : useOf env (.trenc f) =
    some (useS f .zero (.srcScalar 2) (.srcScalar 1) (.srcScalar 1) 3 0 true) := rfl
theorem useOf_trwait (env : Env) (f : FmtC) : useOf env (.trwait f) =
    some (useC f false false false 0 true) := rfl
theorem useOf_topen (env : Env) (f : FmtS) : useOf env (.topen f) =
    some (useS f .zero (.srcScalar 2) (.srcScalar 2) (.srcScalar 1) 0 1 true) := rfl
theorem useOf_trec (env : Env) (f : FmtS) : useOf env (.trec f) =
    some (useTapeRun f false) := rfl
theorem useOf_tbr (env : Env) (f : FmtS) : useOf env (.tbr f) =
    some (useS f .zero (.src 1) .zero .zero 4 1 true) := rfl
theorem useOf_tmark (env : Env) (f : FmtS) : useOf env (.tmark f) =
    some (useS f .zero (.srcScalar 1) .zero .zero 4 0 true) := rfl
theorem useOf_tclose (env : Env) (f : FmtS) : useOf env (.tclose f) =
    some (useS f .zero .zero .zero .zero 0 0 true) := rfl
theorem useOf_trev (env : Env) (f : FmtS) : useOf env (.trev f) =
    some (useS f .zero .zero .zero .zero 0 0 true) := rfl
theorem useOf_tget (env : Env) (f : FmtS) : useOf env (.tget f) =
    some (useTapeRun f true) := rfl
theorem useOf_tbrp (env : Env) (f : FmtS) : useOf env (.tbrp f) =
    some (useS f (.dst 1) .zero .zero .zero 4 1 true) := rfl
theorem useOf_tstat (env : Env) (f : FmtS) : useOf env (.tstat f) =
    some (useS f (.dst 1) .zero .zero .zero 3 0 true) := rfl
theorem useOf_tgrant (env : Env) (f : FmtS) : useOf env (.tgrant f) =
    some (useS f .zero (.srcScalar 2) (.srcScalar 1) .zero 0 0 true) := rfl
theorem useOf_sread (env : Env) (f : FmtS) : useOf env (.sread f) =
    some (((useS f (.dst 1) .zero .zero .zero 16 0 true).alsoReserved (!readable f.sel.toNat)).needsPriv (privilegedSel f.sel.toNat)) := rfl
theorem useOf_swrite (env : Env) (f : FmtS) : useOf env (.swrite f) =
    some (((useS f .zero (.src 1) .zero .zero 16 0 true).alsoReserved (!writable f.sel.toNat)).needsPriv (privilegedSel f.sel.toNat)) := rfl
theorem useOf_evmark (env : Env) (f : FmtS) : useOf env (.evmark f) =
    some (useS f .zero (.src 1) .zero .zero 16 0 true) := rfl
theorem useOf_sleep (env : Env) (f : FmtS) : useOf env (.sleep f) =
    some (useS f .zero (.src 1) .zero .zero 0 0 false) := rfl
theorem useOf_caprd (env : Env) (f : FmtS) : useOf env (.caprd f) =
    some (((useS f (.dst 1) (.src 2) (.src 1) (.src 1) 0 0 true).scalarOnly).needsPriv true) := rfl
theorem useOf_eret (env : Env) (f : FmtS) : useOf env (.eret f) =
    some ((useS f .zero .zero .zero .zero 0 0 false).alsoReserved (!env.handler)) := rfl
theorem useOf_trapr (env : Env) (f : FmtS) : useOf env (.trapr f) =
    some ((useS f (.dst 1) .zero .zero .zero 4 0 false)) := rfl
theorem useOf_energy (env : Env) (f : FmtS) : useOf env (.energy f) =
    some (useS f .zero .zero .zero .zero 3 0 true) := rfl
theorem useOf_perfsel (env : Env) (f : FmtS) : useOf env (.perfsel f) =
    some (useS f .zero (.src 1) .zero .zero 3 0 true) := rfl
theorem useOf_perfrd (env : Env) (f : FmtS) : useOf env (.perfrd f) =
    some (useS f (.dst 2) .zero .zero .zero 3 0 true) := rfl

end Sys2Proof.Machine
end

