-- ==== Sys2Proof/Laws/Ends.lean ====
section
/-! SUPPORT. The shared ends of meanings: what a typed result, a mask result and a result in flight leave. -/

namespace Sys2Proof.Machine

/-- The operands of an instruction whose use is known. -/
theorem operands_of {c : Ctx} {i : Instr} {u : Use} (h : useOf c.env i = some u) : c.operands i = u.ops := by
  unfold Ctx.operands
  rw [h]

/-- A destination of an instruction whose use is known is in range. -/
theorem inRange_of_use {i : Instr} {s : State} {c : Ctx} (h : Issues i s c) {u : Use} (hu : useOf c.env i = some u)
    {d : BitVec 8} {n : Nat} (ho : ∃ o ∈ u.ops, o.f = d ∧ o.n = n) : InRange d n := by
  obtain ⟨o, ho, rfl, rfl⟩ := ho
  exact inRange_of_legal h.legal hu ho

/-- What legality says of an instruction whose use is known (R241): each check of Table 9.13 has passed. -/
theorem checks_of_use {i : Instr} {s : State} {c : Ctx} (h : Issues i s c) {u : Use} (hu : useOf c.env i = some u) :
    u.reserved = false ∧ u.kind = false ∧ (∀ o ∈ u.ops, o.needScalar = true → isScalar o.f = true) ∧
    (∀ o ∈ u.ops, o.needVector = true → isScalar o.f = false) ∧ (∀ o ∈ u.ops, o.f.toNat % o.align = 0) ∧
    u.order = false ∧ u.case_ = false ∧ (u.uniform = true → ∀ o ∈ u.ops, isScalar o.f = true) ∧
    (u.privileged = true → c.env.priv = true) := by
  have hl := h.legal
  unfold causeOf at hl
  split at hl
  · cases hl
  · rw [hu] at hl
    simp only at hl
    repeat' split at hl
    all_goals cases hl
    simp_all

/-- A typed instruction of format R (R249). -/
theorem typedResult_typedOp (c : Ctx) (i : Instr) (f : FmtR) (op : Int → Int → Int → Int)
    (h : InRange f.d (typeRegs f.f)) :
    ∃ t, c.typedOp i f op = .next t ∧
      c.TypedResult i f.d f.f (fun l j => op (c.smod f 0 l j) (c.smod f 1 l j) (c.smod f 2 l j)) t := by
  obtain ⟨t, h1, h2⟩ := result_write c i h (c.intMap f op)
  exact ⟨t, h1, _, h2, fun l _ j hj => elemInt_packInts_map f.f _ hj⟩

/-- A typed instruction with an immediate (R257). -/
theorem typedResult_immOp (c : Ctx) (i : Instr) (f : FmtI) (op : Int → Int → Int → Int)
    (h : InRange f.d (typeRegs f.f)) :
    ∃ t, c.immOp i f op = .next t ∧
      c.TypedResult i f.d f.f (fun l j => op (elemInt f.f (c.typed f.f f.a l) j)
        (elemInt f.f (immOf f false).toNat j) (elemInt f.f (c.typed f.f f.d l) j)) t := by
  obtain ⟨t, h1, h2⟩ := result_write c i h _
  exact ⟨t, h1, _, h2, fun l _ j hj => elemInt_packInts_map f.f _ hj⟩

/-- Writing some bits of a mask register. -/
theorem writesMask_wrMask (c : Ctx) (m : Nat) (lanes : Lanes) (p : Nat → Bool) :
    c.WritesMask m lanes.getLsbD p (c.w.wrMask m lanes (maskWhere lanes p)) := by
  refine ⟨rfl, fun l hl => ?_, fun k hk => Sparse.get_set_ne _ _ _ hk⟩
  unfold Warp.wrMask
  simp only [Warp.mask, Sparse.get_set_self, BitVec.getLsbD_or, BitVec.getLsbD_and, BitVec.getLsbD_not,
    getLsbD_maskWhere _ _ _ hl, hl, decide_true, Bool.true_and]
  cases lanes.getLsbD l <;> simp

/-- An instruction whose meaning is to write mask bits of its executing lanes. -/
theorem maskResult_writeMask (c : Ctx) (i : Instr) (m : Nat) (p : Nat → Bool) :
    ∃ t, c.writeMask i m p = .next t ∧ c.MaskResult i m (c.maskLanes i) p t := by
  obtain ⟨h1, h2, h3⟩ := writesMask_wrMask c m (c.execs i &&& widthMask c.width) p
  refine ⟨_, rfl, _, rfl, h1, fun l hl => ?_, h3⟩
  rw [h2 l hl, BitVec.getLsbD_and, getLsbD_widthMask _ _ hl]
  rfl

theorem get_setMany_const {α : Type} [DecidableEq α] (d : α) (v : α) (ks : List Nat) (m : Sparse α) (k : Nat) :
    Sparse.get d (m.setMany d (ks.map fun k => (k, v))) k = if k ∈ ks then v else Sparse.get d m k := by
  unfold Sparse.setMany
  induction ks generalizing m with
  | nil => rfl
  | cons a ks ih =>
    rw [List.map_cons, List.foldl_cons, ih]
    by_cases hk : k ∈ ks
    · simp [hk]
    · by_cases ha : k = a
      · subst ha; simp [hk, Sparse.get_set_self]
      · simp [hk, ha, Sparse.get_set_ne _ _ _ ha]

/-- Which registers are empty after some are marked so. -/
theorem isEmpty_markEmpty (w : Warp) (ks : List RegKey) (k : RegKey) :
    (w.markEmpty ks).isEmpty k = (w.isEmpty k || decide (k ∈ ks)) := by
  unfold Warp.isEmpty Warp.markEmpty
  simp only
  rw [get_setMany_const]
  by_cases h : k ∈ ks <;> simp [h]

theorem isEmpty_markFull (w : Warp) (ks : List RegKey) (k : RegKey) :
    (w.markFull ks).isEmpty k = (w.isEmpty k && !decide (k ∈ ks)) := by
  unfold Warp.isEmpty Warp.markFull
  simp only
  rw [get_setMany_const]
  by_cases h : k ∈ ks <;> simp [h]

theorem unitsOf_eq_nil {d : BitVec 8} {m : Lanes} : unitsOf d m = [] ↔ m = 0 := by
  unfold unitsOf
  rw [← lanesOf_eq_nil]
  split
  · cases lanesOf m <;> simp
  · rfl

/-- A long-running instruction (R184). -/
theorem later_writeLater (c : Ctx) (w : Warp) (i : Instr) (d : BitVec 8) (n : Nat) (f : Nat → Nat) :
    ∃ t, c.writeLater i d n f w = .next t ∧ c.Later w i d n f t := by
  unfold Ctx.writeLater
  simp only [List.isEmpty_iff, List.map_eq_nil_iff, unitsOf_eq_nil]
  split
  · next h => exact ⟨_, rfl, w, rfl, by rw [if_pos h]⟩
  · next h =>
    refine ⟨_, rfl, _, rfl, ?_⟩
    rw [if_neg h]
    have hm : ((unitsOf d (c.execs i)).map fun l => (l, f l)).map (·.1) = unitsOf d (c.execs i) := by
      rw [List.map_map]
      exact List.map_id _
    rw [hm]
    refine ⟨rfl, fun k => ?_, _, rfl, rfl, rfl, rfl, rfl⟩
    exact isEmpty_markEmpty w _ k

end Sys2Proof.Machine
end

