-- ==== Sys2Proof/Laws/Access.lean ====
section
/-! SUPPORT. What translation leaves alone, and a load or store whose lanes all pass their checks outside
transactions. -/

namespace Sys2Proof.Machine

/-- `t` is `s` but for what the L2 slices hold, log and lose, and HBM's damage: all that an access at a home slice changes
beside the memory itself. -/
def Homed (s t : State) : Prop := t = { s with hbmBad := t.hbmBad, dies := t.dies }

/-- `t` is `s` but for memory and its damage, cores and dies: all that a translation changes. -/
def Near (s t : State) : Prop := t = { s with mem := t.mem, hbmBad := t.hbmBad, cores := t.cores, dies := t.dies }

theorem Homed.refl (s : State) : Homed s s := rfl

theorem Homed.trans {s t u : State} (h : Homed s t) (k : Homed t u) : Homed s u := by
  unfold Homed at *
  rw [k, h]

theorem Homed.foldl {α : Type} {f : State → α → State} (h : ∀ s x, Homed s (f s x)) (xs : List α) (s : State) :
    Homed s (xs.foldl f s) := by
  induction xs generalizing s with
  | nil => exact .refl s
  | cons x r ih => exact (h s x).trans (ih _)

theorem Near.refl (s : State) : Near s s := rfl

theorem Near.trans {s t u : State} (h : Near s t) (k : Near t u) : Near s u := by
  unfold Near at *
  rw [k, h]

theorem Near.foldl {α : Type} {f : State → α → State} (h : ∀ s x, Near s (f s x)) (xs : List α) (s : State) :
    Near s (xs.foldl f s) := by
  induction xs generalizing s with
  | nil => exact .refl s
  | cons x r ih => exact (h s x).trans (ih _)

theorem Homed.near {s t : State} (h : Homed s t) : Near s t := by
  unfold Homed at h
  unfold Near
  rw [h]

theorem Homed.mem {s t : State} (h : Homed s t) : t.mem = s.mem := by
  unfold Homed at h
  rw [h]

/-! ### Home slices -/

theorem modDie_homed (s : State) (d : Nat) (f : Die → Die) : Homed s (s.modDie d f) := rfl

theorem modDie_near (s : State) (d : Nat) (f : Die → Die) : Near s (s.modDie d f) := rfl

theorem modCore_near (s : State) (c : Nat) (f : Core → Core) : Near s (s.modCore c f) := rfl

theorem evict_homed (s : State) (line : Nat) (x : L2Line) : Homed s (s.evict line x) := by
  unfold State.evict
  dsimp only
  split
  · rfl
  · split <;> rfl

theorem insertLine_homed (s : State) (line : Nat) (x : L2Line) (low : Bool) : Homed s (s.insertLine line x low) := by
  unfold State.insertLine
  dsimp only
  split
  · exact (evict_homed ..).trans (modDie_homed ..)
  · exact modDie_homed ..

theorem touchLine_homed (s : State) (hint line : Nat) : Homed s (s.touchLine hint line) := by
  unfold State.touchLine
  split
  · rfl
  · split
    · rfl
    · exact insertLine_homed ..

theorem touchLines_homed (s : State) (hint : Nat) (as : List Addr) : Homed s (s.touchLines hint as) :=
  .foldl (fun s line => touchLine_homed s hint line) ..

theorem dirtyLine_homed (s : State) (hint line : Nat) (whole : List Nat) : Homed s (s.dirtyLine hint line whole) := by
  unfold State.dirtyLine
  dsimp only
  split
  · exact (touchLine_homed ..).trans (modDie_homed ..)
  · split
    · exact ((touchLine_homed ..).trans (modDie_homed ..)).trans (insertLine_homed ..)
    · exact touchLine_homed ..

/-- Making the lines of a write dirty changes the L2 slices, their logs and HBM's damage alone. -/
theorem dirtyLines_homed (s : State) (hint : Nat) (bs : List (Addr × Byte × Byte)) : Homed s (s.dirtyLines hint bs) :=
  .foldl (fun s line => dirtyLine_homed s hint line _) ..

/-! ### Translation -/

theorem orEntry_near (s : State) (at_ : Nat) (bits : Byte) : Near s (s.orEntry at_ bits) :=
  (dirtyLines_homed s 0 [(.phys at_, bits, 0xFF)]).near.trans rfl

theorem useEntry_near (s : State) (core va : Nat) (a : Access) (t : TlbEntry) : Near s (s.useEntry core va a t) := by
  unfold State.useEntry
  dsimp only
  refine (Near.trans ?_ (modCore_near ..)).trans (modDie_near ..)
  split <;> split
  · exact (orEntry_near ..).trans (orEntry_near ..)
  · exact orEntry_near ..
  · exact orEntry_near ..
  · rfl

theorem cacheWalks_near (s : State) (die c va : Nat) (w : Walk) : Near s (s.cacheWalks die c va w) :=
  .foldl (fun s _ => modDie_near s ..) ..

theorem translateBy_near {s s' : State} (h : Near s s') (core va : Nat) (a : Access) (t : TlbEntry) :
    Near s (s.translateBy s' core va a t).2 := by
  unfold State.translateBy
  split
  · rfl
  · exact h.trans (useEntry_near ..)

/-- Translation changes memory, its damage, cores and dies alone. -/
theorem translate_near (s : State) (core c va : Nat) (a : Access) (priv : Bool) :
    Near s (s.translate core c va a priv).2 := by
  unfold State.translate
  split
  · exact translateBy_near (.refl s) ..
  · dsimp only
    split
    · exact translateBy_near ((touchLines_homed ..).near.trans (cacheWalks_near ..)) ..
    · rfl

theorem translatePages_near (core c : Nat) (a : Access) (priv : Bool) (pages : List Nat) (s : State) :
    Near s (s.translatePages core c a priv pages).2 := by
  induction pages generalizing s with
  | nil => exact .refl s
  | cons va r ih => exact (translate_near s core c va a priv).trans (ih _)

theorem target_near (c : Ctx) (s : State) (a : Access) (space : Nat) (x : Span) :
    Near s (c.target s a space x).2 := by
  unfold Ctx.target
  split
  · split <;> rfl
  · exact translatePages_near ..

/-- The translation of an instruction's targets changes memory, its damage, cores and dies alone. -/
theorem targets_near (c : Ctx) (h : Nat → How) (space : Nat) (xs : List Span) (s : State) :
    Near s (c.targets s h space xs).2 := by
  induction xs generalizing s with
  | nil => exact .refl s
  | cons x r ih =>
    simp only [Ctx.targets]
    split
    · exact ih s
    · exact (target_near ..).trans (ih _)

theorem reached_order (c : Ctx) (h : Nat → How) (space : Nat) (xs : List Span) :
    (c.reached h space xs).2.s.order = c.s.order := by
  change (c.targets c.s h space xs).2.order = _
  rw [targets_near c h space xs c.s]

theorem lane_of_targets (c : Ctx) (h : Nat → How) (space : Nat) (xs : List Span) (s : State) :
    (c.targets s h space xs).1.map (·.lane) = xs.map (·.lane) := by
  induction xs generalizing s with
  | nil => rfl
  | cons x r ih =>
    simp only [Ctx.targets, List.map_cons]
    split
    · rw [ih]
    · rw [ih]
      congr 1
      unfold Ctx.target
      split
      · split <;> rfl
      · rfl

theorem ctxOf_parts {s : State} {c : Ctx} (h : ctxOf s = some c) :
    ∃ cur, s.cur = some cur ∧ s.wgs.look c.uid = some c.g ∧ s.warp? c.uid c.wi = some c.w ∧
      c.w.split? cur.split = some c.sp ∧ c.uid = cur.wg ∧ c.wi = cur.warp ∧ c.slots = (cur.slots.map (·.1)).getD c.w.slots ∧
      c.emul = cur.slots.map (·.2) := by
  unfold ctxOf at h
  split at h
  · cases h
  · next cur hc =>
    split at h
    · next g w hg hw =>
      rcases hm : w.split? cur.split with _ | sp
      · rw [hm] at h; cases h
      · rw [hm] at h
        simp only [Option.map_some, Option.some.injEq] at h
        subst h
        exact ⟨cur, hc, hg, hw, hm, rfl, rfl, rfl, rfl⟩
    · cases h

/-- The context of the same split in a state with the same pointer and the same work-groups. -/
theorem ctxOf_same {s t : State} {c : Ctx} (h : ctxOf s = some c) (hc : t.cur = s.cur) (hw : t.wgs = s.wgs) :
    ctxOf t = some { c with s := t } := by
  obtain ⟨cur, h1, h2, h3, h4, h5, h6, h7, h8⟩ := ctxOf_parts h
  have h3' : t.warp? c.uid c.wi = some c.w := by
    unfold State.warp? at h3 ⊢; rw [hw]; exact h3
  unfold ctxOf
  rw [hc, h1]
  dsimp only
  rw [hw, ← h5, ← h6, h2, h3']
  dsimp only
  rw [h4, Option.map_some, ← h7, ← h8]

theorem setWarp_setWarp (s : State) (u i : Nat) (w w' : Warp) :
    (s.setWarp u i w).setWarp u i w' = s.setWarp u i w' := by
  unfold State.setWarp
  rcases hg : s.wgs.look u with _ | g
  · simp [hg]
  · simp only [State.setWg, Sparse.look_put_self]
    have : (s.wgs.put u (some (g.setWarp i w))).del u = s.wgs.del u := by
      simp only [Sparse.put]
      have aux : ∀ (m : Sparse WorkGroup) (v : WorkGroup), m.look u = none → (Sparse.ins u v m).del u = m.del u := by
        intro m v
        induction m with
        | nil => intro _; simp [Sparse.ins, Sparse.del]
        | cons p r ih =>
          intro hn
          simp only [Sparse.look] at hn
          simp only [Sparse.ins]
          split
          · simp [Sparse.del]
          · split at hn
            · cases hn
            · have := ih hn
              simp only [Sparse.del, List.filter_cons] at this ⊢
              rw [this]
      rw [aux _ _ (Sparse.look_del_self _ _)]
      simp [Sparse.del]
    simp only [Sparse.put] at this ⊢
    rw [this]
    simp [WorkGroup.setWarp]

/-- A state after a context's warp was put back unchanged has that context. -/
theorem ctxOf_setWarp_self {s : State} {c : Ctx} (h : ctxOf s = some c) :
    ctxOf (s.setWarp c.uid c.wi c.w) = some { c with s := s.setWarp c.uid c.wi c.w } := by
  obtain ⟨cur, h1, h2, h3, h4, h5, h6, h7, h8⟩ := ctxOf_parts h
  have hi : c.g.warps[c.wi]? = some c.w := by
    unfold State.warp? at h3; rw [h2] at h3; exact h3
  have hg : c.g.setWarp c.wi c.w = c.g := by
    obtain ⟨hlt, he⟩ := List.getElem?_eq_some_iff.1 hi
    unfold WorkGroup.setWarp
    rw [← he, List.set_getElem_self]
  have hl : (s.setWarp c.uid c.wi c.w).wgs.look c.uid = some c.g := by
    unfold State.setWarp
    rw [h2]
    simp [State.setWg, hg]
  have hw : (s.setWarp c.uid c.wi c.w).warp? c.uid c.wi = some c.w := by
    unfold State.warp?; rw [hl]; exact hi
  unfold ctxOf
  rw [State.setWarp_cur, h1]
  dsimp only
  rw [← h5, ← h6, hl, hw]
  dsimp only
  rw [h4, Option.map_some, ← h7, ← h8]

theorem after_setWarp_self (c : Ctx) (i : Instr) (w : Warp) :
    ({ c with s := c.s.setWarp c.uid c.wi c.w } : Ctx).after i w = c.after i w := by
  unfold Ctx.after
  dsimp only
  rw [setWarp_setWarp]
  unfold Ctx.now State.now State.die
  rw [State.setWarp_dies]

theorem guarded_sub (c : Ctx) (g : Guard) (l : Nat) (h : (c.guarded g).getLsbD l = true) :
    c.sp.lanes.getLsbD l = true := by
  unfold Ctx.guarded at h
  split at h
  · rw [BitVec.getLsbD_and, Bool.and_eq_true] at h
    exact h.1
  · exact h

theorem txAborts_clean (c : Ctx) (store : Bool) (ts : List Target) (h : c.w.txns = []) :
    c.txAborts store ts = ([], c.w) := by
  have hn : ∀ x : Target, c.inTx x.lane = false := by
    intro x; unfold Ctx.inTx; rw [h]; rfl
  unfold Ctx.txAborts
  simp [hn, h, conflictLosers]

/-- Lanes outside transactions whose checks pass access their targets. -/
theorem accessing_clean {s : State} {c : Ctx} (hc : ctxOf s = some c) (ht : c.w.txns = []) (h : Nat → How)
    (space : Nat) (store : Bool) (xs : List Span) (units : List Nat) (body : Ctx → List Target → Res)
    (hf : c.failing h space xs = none) (hl : ∀ x ∈ xs, c.sp.lanes.getLsbD x.lane = true) :
    c.accessing h space store xs units body =
      let r := c.reached h space (xs.filter fun x => units.contains x.lane)
      body { c with s := r.2.s.setWarp c.uid c.wi c.w } r.1 := by
  have hs := ctxOf_state hc
  unfold Ctx.accessing
  rw [hf]
  dsimp only
  rw [txAborts_clean c store _ ht]
  have hab : ∀ s' : State, s'.abortCodes c.uid c.wi [] 0 = s' := fun _ => rfl
  dsimp only
  rw [hab]
  have hto := targets_near c h space (xs.filter fun x => units.contains x.lane) c.s
  have h1 : ctxOf (c.targets c.s h space (xs.filter fun x => units.contains x.lane)).2 =
      some { c with s := (c.targets c.s h space (xs.filter fun x => units.contains x.lane)).2 } := by
    apply ctxOf_same hc
    · rw [hto, hs]
    · rw [hto, hs]
  rw [ctxOf_setWarp_self h1]
  dsimp only [Ctx.reached]
  congr 1
  rw [List.filter_eq_self]
  intro t ht'
  have : t.lane ∈ (c.targets c.s h space (xs.filter fun x => units.contains x.lane)).1.map (·.lane) :=
    List.mem_map_of_mem ht'
  rw [lane_of_targets] at this
  obtain ⟨x, hx, he⟩ := List.mem_map.1 this
  rw [← he]
  exact hl x (List.mem_filter.1 hx).1

theorem inFlight_produce (c : Ctx) (w : Warp) (keys : List RegKey) (work : Work) (order : Nat) :
    c.InFlight w keys work order (c.produce w keys work order) := by
  refine ⟨rfl, fun k => ?_, rfl⟩
  exact isEmpty_markEmpty w keys k

end Sys2Proof.Machine
end

