-- ==== Sys2Proof/Laws/Frames.lean ====
section
/-! SUPPORT. What the shared operations leave alone: the recorder, monitors, writes, events, aborts and traps. -/

namespace Sys2Proof.Machine

/-! ### The recorder -/

theorem varve_only (s : State) (core type : Nat) (tenant : BitVec 16) (sub slot payload : Nat) :
    s.varve core type tenant sub slot payload = { s with cores := (s.varve core type tenant sub slot payload).cores } := rfl

theorem varveWarp_only (s : State) (g : WorkGroup) (w : Warp) (type payload : Nat) :
    s.varveWarp g w type payload = { s with cores := (s.varveWarp g w type payload).cores } := rfl

theorem noteEcc_only (s : State) (g : WorkGroup) (w : Warp) (at_ cause : Nat) (pool : Option Cell) :
    s.noteEcc g w at_ cause pool = { s with cores := (s.noteEcc g w at_ cause pool).cores,
                                            dies := (s.noteEcc g w at_ cause pool).dies } := by
  unfold State.noteEcc
  cases pool
  · dsimp only
    split <;> rfl
  · rfl

theorem varveParts_only (g : WorkGroup) (w : Warp) (ext : Nat) (ps : List Nat) (s : State) :
    s.varveParts g w ext ps = { s with cores := (s.varveParts g w ext ps).cores } := by
  induction ps generalizing s with
  | nil => rfl
  | cons p r ih => rw [State.varveParts, ih, varveWarp_only]

/-- `t` is `s` but for records in the rings of the cores' recorders. -/
def CoresAlone (s t : State) : Prop := t = { s with cores := t.cores }

theorem CoresAlone.trans {s t u : State} (h : CoresAlone s t) (k : CoresAlone t u) : CoresAlone s u := by
  unfold CoresAlone at *
  rw [k, h]

theorem varveWarp_alone (s : State) (g : WorkGroup) (w : Warp) (type payload : Nat) :
    CoresAlone s (s.varveWarp g w type payload) := varveWarp_only ..

theorem varveParts_alone (g : WorkGroup) (w : Warp) (ext : Nat) (ps : List Nat) (s : State) :
    CoresAlone s (s.varveParts g w ext ps) := varveParts_only ..

theorem noteWaiting_only (g : WorkGroup) (w : Warp) (kind : Nat) (l : List Split) (s : State) :
    s.noteWaiting g w kind l = { s with cores := (s.noteWaiting g w kind l).cores } := by
  show CoresAlone s _
  induction l generalizing s with
  | nil => rfl
  | cons sp r ih =>
    refine CoresAlone.trans ?_ (ih _)
    repeat' split
    all_goals first
      | exact (((varveWarp_alone ..).trans (varveParts_alone ..)).trans (varveParts_alone ..)).trans (varveParts_alone ..)
      | exact ((varveWarp_alone ..).trans (varveParts_alone ..)).trans (varveParts_alone ..)
      | exact (varveWarp_alone ..).trans (varveParts_alone ..)

theorem noteAborts_only (g : WorkGroup) (w : Warp) (l : List (Nat × Nat)) (s : State) :
    s.noteAborts g w l = { s with cores := (s.noteAborts g w l).cores } := by
  show CoresAlone s _
  induction l generalizing s with
  | nil => rfl
  | cons p r ih =>
    refine CoresAlone.trans ?_ (ih _)
    exact varveWarp_alone ..

/-! ### Monitors -/

theorem dropL1_only (s : State) (core launch : Nat) :
    s.dropL1 core launch = { s with cores := (s.dropL1 core launch).cores } := rfl

theorem expose_only (s : State) (g : WorkGroup) : s.expose g = { s with launches := (s.expose g).launches } := by
  unfold State.expose State.modLaunch
  split <;> rfl

theorem setWarp_only (s : State) (u i : Nat) (w : Warp) : s.setWarp u i w = { s with wgs := (s.setWarp u i w).wgs } := by
  unfold State.setWarp
  split <;> rfl

theorem modWarp_only (s : State) (u i : Nat) (f : Warp → Warp) : s.modWarp u i f = { s with wgs := (s.modWarp u i f).wgs } := by
  unfold State.modWarp
  split
  · exact setWarp_only ..
  · rfl

theorem modWg_only (s : State) (u : Nat) (f : WorkGroup → WorkGroup) : s.modWg u f = { s with wgs := (s.modWg u f).wgs } := by
  unfold State.modWg
  split <;> rfl

/-- `t` is `s` but for memory and its damage, work-groups, cores, dies and launches: all that performing an access
changes. -/
def Performed (s t : State) : Prop :=
  t = { s with
    mem := t.mem, hbmBad := t.hbmBad, wgs := t.wgs, cores := t.cores, dies := t.dies, launches := t.launches }

theorem Performed.refl (s : State) : Performed s s := rfl

theorem Performed.trans {s t u : State} (h : Performed s t) (k : Performed t u) : Performed s u := by
  unfold Performed at *
  rw [k, h]

theorem Performed.foldl {α : Type} {f : State → α → State} (h : ∀ s x, Performed s (f s x)) (xs : List α) (s : State) :
    Performed s (xs.foldl f s) := by
  induction xs generalizing s with
  | nil => exact .refl s
  | cons x r ih => exact (h s x).trans (ih _)

theorem Near.performed {s t : State} (h : Near s t) : Performed s t := by
  unfold Near at h
  unfold Performed
  rw [h]

theorem setWarp_performed (s : State) (u i : Nat) (w : Warp) : Performed s (s.setWarp u i w) := by
  unfold Performed
  rw [setWarp_only]

theorem modWg_performed (s : State) (u : Nat) (f : WorkGroup → WorkGroup) : Performed s (s.modWg u f) := by
  unfold Performed
  rw [modWg_only]

theorem expose_performed (s : State) (g : WorkGroup) : Performed s (s.expose g) := by
  unfold Performed
  rw [expose_only]

theorem acquire_performed (s : State) (core launch : Nat) : Performed s (s.acquire core launch) := rfl

theorem endMonitor_performed (s : State) (m : Monitor) (status : Nat) (value : Word) :
    Performed s (s.endMonitor m status value) := by
  unfold State.endMonitor
  split
  · dsimp only
    split
    · exact (setWarp_performed ..).trans (acquire_performed ..)
    · exact (setWarp_performed ..).trans (expose_performed ..)
  · rfl

theorem testMonitors_performed (s : State) (line : Nat) : Performed s (s.testMonitors line).2 :=
  (modDie_near s (homeDie (line * 128)) _).performed.trans
    (.foldl (fun t (p : Nat × Monitor) => endMonitor_performed t p.2 0 (BitVec.ofNat 32 (s.mem.value p.2.word 4))) ..)

/-- Testing the monitors of written lines. -/
theorem testAll_performed (s : State) (as : List Addr) : Performed s (s.testAll as) :=
  .foldl (fun s line => testMonitors_performed s line) ..

/-! ### Writes -/

theorem putByte_performed (s : State) (a : Addr) (b mask : Byte) : Performed s (s.putByte a b mask) := by
  unfold State.putByte
  cases a
  · rfl
  · exact modWg_performed ..

theorem remember_performed (s : State) (as : List Addr) : Performed s (s.remember as) := rfl

/-- A write of bytes changes memory and its damage, work-groups, cores, dies and launches alone. -/
theorem writeUnder_performed (s : State) (hint : Nat) (bs : List (Addr × Byte × Byte)) :
    Performed s (s.writeUnder hint bs) :=
  (((remember_performed s _).trans (dirtyLines_homed _ hint bs).near.performed).trans
    (.foldl (fun s (b : Addr × Byte × Byte) => putByte_performed s b.1 b.2.1 b.2.2) ..)).trans (testAll_performed ..)

theorem writeBytes_performed (s : State) (bs : List (Addr × Byte × Byte)) : Performed s (s.writeBytes bs) :=
  writeUnder_performed ..

/-! ### The memory of a write -/

theorem endMonitor_mem (s : State) (m : Monitor) (status : Nat) (value : Word) :
    (s.endMonitor m status value).mem = s.mem := by
  unfold State.endMonitor
  split
  · dsimp only
    split
    · exact State.setWarp_mem ..
    · rw [expose_only]
      exact State.setWarp_mem ..
  · rfl

theorem foldl_mem {α : Type} {f : State → α → State} (h : ∀ s x, (f s x).mem = s.mem) (xs : List α) (s : State) :
    (xs.foldl f s).mem = s.mem := by
  induction xs generalizing s with
  | nil => rfl
  | cons x r ih => exact (ih _).trans (h s x)

theorem testMonitors_mem (s : State) (line : Nat) : (s.testMonitors line).2.mem = s.mem :=
  foldl_mem (f := fun t (p : Nat × Monitor) => t.endMonitor p.2 0 (BitVec.ofNat 32 (s.mem.value p.2.word 4)))
    (fun t p => endMonitor_mem t p.2 0 _) ..

/-- Testing monitors writes no memory. -/
theorem testAll_mem (s : State) (as : List Addr) : (s.testAll as).mem = s.mem :=
  foldl_mem (fun s line => testMonitors_mem s line) ..

/-- The bytes of a write to physical addresses, as they are put in memory in order. -/
theorem foldl_putByte_mem (bs : List (Addr × Byte × Byte)) (s t : State) (hm : s.mem = t.mem) (hw : s.wgs = t.wgs) :
    (bs.foldl (fun s b => s.putByte b.1 b.2.1 b.2.2) s).mem = (bs.foldl (fun s b => s.putByte b.1 b.2.1 b.2.2) t).mem ∧
    (bs.foldl (fun s b => s.putByte b.1 b.2.1 b.2.2) s).wgs = (bs.foldl (fun s b => s.putByte b.1 b.2.1 b.2.2) t).wgs := by
  induction bs generalizing s t with
  | nil => exact ⟨hm, hw⟩
  | cons p r ih =>
    refine ih _ _ ?_ ?_ <;> rcases p with ⟨⟨pa⟩ | ⟨u, off⟩, b, m⟩
    all_goals simp only [State.putByte, State.modWg, hm, hw]
    all_goals (split <;> simp [State.setWg, hm, hw])

/-- The memory that a write leaves is the one its bytes are put in. -/
theorem writeBytes_mem (s : State) (bs : List (Addr × Byte × Byte)) :
    (s.writeBytes bs).mem = (bs.foldl (fun s b => s.putByte b.1 b.2.1 b.2.2) s).mem := by
  have h := dirtyLines_homed (s.remember (bs.map (·.1))) 0 bs
  refine (testAll_mem ..).trans (foldl_putByte_mem bs _ s h.mem ?_).1
  unfold Homed at h
  rw [h]
  rfl

/-- A whole byte replaces the one that stands. -/
theorem mergeByte_full (a b : Byte) : mergeByte a b 0xFF = b := by
  show (a &&& ~~~BitVec.allOnes 8) ||| (b &&& BitVec.allOnes 8) = b
  rw [BitVec.and_allOnes, BitVec.not_allOnes]
  simp

/-- The memory that a write of whole bytes at consecutive physical addresses leaves. -/
theorem byte_foldl_putByte (bytes : List Byte) (pa a : Nat) (s : State) :
    ((plainBytes ((List.range bytes.length).map fun i => .phys (pa + i)) bytes).foldl
      (fun s b => s.putByte b.1 b.2.1 b.2.2) s).mem.byte a =
      if pa ≤ a ∧ a < pa + bytes.length then bytes.getD (a - pa) 0 else s.mem.byte a := by
  induction bytes generalizing pa s with
  | nil => simp [plainBytes]
  | cons b r ih =>
    have e : ((List.range (b :: r).length).map fun i => Addr.phys (pa + i)) =
        .phys pa :: (List.range r.length).map fun i => .phys (pa + 1 + i) := by
      rw [List.length_cons, List.range_succ_eq_map]
      simp [Function.comp_def, Nat.add_assoc, Nat.add_comm 1]
    rw [e]
    refine (ih (pa + 1) (s.putByte (.phys pa) b 0xFF)).trans ?_
    simp only [State.putByte, mergeByte_full, List.length_cons]
    by_cases h : a = pa
    · subst h
      simp
    · rw [Memory.byte_setByte_ne _ _ h]
      split <;> split <;> try omega
      · rw [show a - pa = (a - (pa + 1)) + 1 by omega]; rfl
      · rfl

/-! ### Events -/

theorem signal_only (s : State) (c k : Nat) : s.signal c k = { s with irqs := (s.signal c k).irqs } := by
  unfold State.signal
  split <;> rfl

theorem writeCompletion_only (s : State) (c : Nat) (e : BitVec 1024) (irq : Bool) :
    s.writeCompletion c e irq = { s with mem := (s.writeCompletion c e irq).mem, pages := (s.writeCompletion c e irq).pages,
                                         irqs := (s.writeCompletion c e irq).irqs } := by
  unfold State.writeCompletion
  dsimp only
  split
  · rw [signal_only]; rfl
  · rfl

theorem post_only (s : State) (c : Nat) (e : BitVec 1024) (irq : Bool) :
    s.post c e irq = { s with mem := (s.post c e irq).mem, pages := (s.post c e irq).pages,
                              irqs := (s.post c e irq).irqs } := by
  unfold State.post
  dsimp only
  split
  · exact writeCompletion_only ..
  · rfl

theorem event_only (s : State) (c kind payload : Nat) :
    s.event c kind payload = { s with mem := (s.event c kind payload).mem, pages := (s.event c kind payload).pages,
                                      irqs := (s.event c kind payload).irqs } := post_only ..

/-! ### Warps, aborts and traps -/

theorem warp?_of {s : State} {u i : Nat} {g : WorkGroup} {w : Warp} (h : s.wgs.look u = some g)
    (hw : g.warps[i]? = some w) : s.warp? u i = some w := by
  unfold State.warp?
  rw [h]
  exact hw

/-- `t` is `s` but for work-groups, cores, dies and what an event to the host changes: all that a trap changes. -/
def Trapped (s t : State) : Prop :=
  t = { s with wgs := t.wgs, cores := t.cores, dies := t.dies, mem := t.mem, pages := t.pages, irqs := t.irqs }

theorem Trapped.refl (s : State) : Trapped s s := rfl

theorem Trapped.trans {s t u : State} (h : Trapped s t) (k : Trapped t u) : Trapped s u := by
  unfold Trapped at *
  rw [k, h]

theorem Trapped.foldl {α : Type} {f : State → α → State} (h : ∀ s x, Trapped s (f s x)) (xs : List α) (s : State) :
    Trapped s (xs.foldl f s) := by
  induction xs generalizing s with
  | nil => exact .refl s
  | cons x r ih => exact (h s x).trans (ih _)

theorem Trapped.ite {p : Prop} [Decidable p] {s a b : State} (ha : Trapped s a) (hb : Trapped s b) :
    Trapped s (if p then a else b) := by
  split
  · exact ha
  · exact hb

theorem CoresAlone.trapped {s t : State} (h : CoresAlone s t) : Trapped s t := by
  unfold CoresAlone at h
  unfold Trapped
  rw [h]

theorem setWarp_trapped (s : State) (u i : Nat) (w : Warp) : Trapped s (s.setWarp u i w) := by
  unfold Trapped
  rw [setWarp_only]

theorem modWarp_trapped (s : State) (u i : Nat) (f : Warp → Warp) : Trapped s (s.modWarp u i f) := by
  unfold Trapped
  rw [modWarp_only]

theorem event_trapped (s : State) (c kind payload : Nat) : Trapped s (s.event c kind payload) := by
  unfold Trapped
  rw [event_only]

theorem noteAborts_alone (g : WorkGroup) (w : Warp) (l : List (Nat × Nat)) (s : State) :
    CoresAlone s (s.noteAborts g w l) := noteAborts_only ..

theorem noteWaiting_alone (g : WorkGroup) (w : Warp) (kind : Nat) (l : List Split) (s : State) :
    CoresAlone s (s.noteWaiting g w kind l) := noteWaiting_only ..

theorem abortLanes_trapped (s : State) (u i : Nat) (lanes : List Nat) (code user : Nat) :
    Trapped s (s.abortLanes u i lanes code user) := by
  unfold State.abortLanes State.abortCodes
  split
  · rfl
  · split
    · exact (setWarp_trapped ..).trans (noteAborts_alone ..).trapped
    · rfl

theorem noteReplays_trapped (s : State) (u i : Nat) (resumes : List (Nat × Option Nat)) :
    Trapped s (s.noteReplays u i resumes) := by
  refine .foldl (fun s r => ?_) ..
  split
  · split
    · rfl
    · exact (varveWarp_alone ..).trapped
  · rfl

theorem leaveHandler_trapped (s : State) (u i : Nat) : Trapped s (s.leaveHandler u i) := by
  unfold State.leaveHandler
  split
  · split
    · split
      · rfl
      · dsimp only
        split
        · exact (((setWarp_trapped ..).trans (abortLanes_trapped ..)).trans (modWarp_trapped ..)).trans
            (noteReplays_trapped ..)
        · exact ((setWarp_trapped ..).trans (modWarp_trapped ..)).trans (noteReplays_trapped ..)
    · rfl
  · rfl

theorem freeMonitors_trapped (s : State) (u i : Nat) (of : Nat → Bool) : Trapped s (s.freeMonitors u i of) := rfl

theorem deliver_trapped (s : State) (u i : Nat) (t : Trap) : Trapped s (s.deliver u i t) := by
  unfold State.deliver
  split
  · have h (x : Warp) : Trapped s ((s.freeMonitors u i t.concerns).setWarp u i x) :=
      (freeMonitors_trapped ..).trans (setWarp_trapped ..)
    have h1 (p : Bool) (x : Warp) : Trapped s (if p then
        ((s.freeMonitors u i t.concerns).setWarp u i x).leaveHandler u i
        else (s.freeMonitors u i t.concerns).setWarp u i x) :=
      .ite ((h x).trans (leaveHandler_trapped ..)) (h x)
    have h2 (p : Bool) (x : Warp) (g : WorkGroup) (w : Warp) (type payload : Nat) :=
      (h1 p x).trans (varveWarp_alone _ g w type payload).trapped
    have h3 (p : Bool) (x : Warp) (g : WorkGroup) (w : Warp) (type payload : Nat) (l : List Split) :=
      Trapped.ite (p := 4 ≤ t.kind ∧ t.kind ≤ 6) ((h2 p x g w type payload).trans (noteWaiting_alone g w t.kind l _).trapped)
        (h2 p x g w type payload)
    exact .ite (h3 ..) ((h3 ..).trans (event_trapped ..))
  · rfl

/-- Taking a trap changes work-groups, cores, dies and what an event to the host changes. -/
theorem takeTrap_trapped (s : State) (u i : Nat) (t : Trap) : Trapped s (s.takeTrap u i t) := by
  unfold State.takeTrap
  split
  · rfl
  · dsimp only
    split
    · exact (abortLanes_trapped ..).trans (modWarp_trapped ..)
    · exact (abortLanes_trapped ..).trans (deliver_trapped ..)

theorem holdTrap_only (s : State) (u i : Nat) (t : Trap) :
    s.holdTrap u i t = { s with wgs := (s.holdTrap u i t).wgs } := modWarp_only ..

theorem holdTrap_warp {s : State} {u i : Nat} {w : Warp} (h : s.warp? u i = some w) (t : Trap) :
    ∃ cycle, (s.holdTrap u i t).warp? u i = some (w.hold cycle t) := by
  refine ⟨((s.wgs.look u).map fun g => s.now g.core).getD 0, ?_⟩
  unfold State.holdTrap State.modWarp
  rw [h]
  exact State.warp?_setWarp_self s h

/-- A warp that holds a trap holds it with its cycle and keeps every other field and every trap held before. -/
theorem Warp.hold_only (w : Warp) (cycle : Nat) (t : Trap) :
    w.hold cycle t = { w with held := (w.hold cycle t).held } := rfl

theorem Warp.mem_hold (w : Warp) (cycle : Nat) (t x : Trap) :
    x ∈ (w.hold cycle t).held ↔ x = { t with cycle := cycle } ∨ x ∈ w.held := by
  simp only [Warp.hold, List.mem_append, List.mem_cons]
  generalize hp : (fun x : Trap => x.cycle != cycle || decide (x.kind ≤ t.kind)) = p
  rw [List.takeWhile_eq_take_findIdx_not, List.length_take]
  have : x ∈ w.held ↔ x ∈ w.held.take (w.held.findIdx (!p ·)) ∨
      x ∈ w.held.drop (min (w.held.findIdx (!p ·)) w.held.length) := by
    conv_lhs => rw [← List.take_append_drop (w.held.findIdx (!p ·)) w.held, List.mem_append]
    rw [Nat.min_eq_left List.findIdx_le_length]
  tauto

end Sys2Proof.Machine
end

