-- ==== Sys2Proof/Laws/PerInstr.lean ====
section
/-! SUPPORT. What decoding gives back of the words that encoding packs (file 09), and the round trip of each instruction. -/

set_option maxRecDepth 10000

namespace Sys2Proof.Laws

theorem ex_low {m n : Nat} (x : BitVec m) (y : BitVec n) (s k : Nat) (h : s + k ≤ n) :
    (x ++ y).extractLsb' s k = y.extractLsb' s k := by
  apply BitVec.eq_of_getElem_eq
  intro i hi
  rw [BitVec.getElem_extractLsb', BitVec.getElem_extractLsb', BitVec.getLsbD_append, if_pos (by omega)]

theorem ex_high {m n : Nat} (x : BitVec m) (y : BitVec n) (s k : Nat) (h : n ≤ s) :
    (x ++ y).extractLsb' s k = x.extractLsb' (s - n) k := by
  apply BitVec.eq_of_getElem_eq
  intro i hi
  rw [BitVec.getElem_extractLsb', BitVec.getElem_extractLsb', BitVec.getLsbD_append, if_neg (by omega)]
  congr 1; omega

theorem ex_self {m : Nat} (x : BitVec m) : x.extractLsb' 0 m = x := BitVec.extractLsb'_eq_self

theorem bit_low {m n : Nat} (x : BitVec m) (y : BitVec n) (s : Nat) (h : s < n) :
    (x ++ y).getLsbD s = y.getLsbD s := by rw [BitVec.getLsbD_append, if_pos h]
theorem bit_high {m n : Nat} (x : BitVec m) (y : BitVec n) (s : Nat) (h : n ≤ s) :
    (x ++ y).getLsbD s = x.getLsbD (s - n) := by rw [BitVec.getLsbD_append, if_neg (by omega)]
theorem bit_ofBool (b : Bool) : (BitVec.ofBool b).getLsbD 0 = b := by cases b <;> rfl

theorem unpackR_pack (op : BitVec 8) (f : FmtR) : unpackR (packR op f) = f ∧ opcodeOf (packR op f) = op := by
  unfold unpackR packR opcodeOf unpackGuard packHead
  simp (discharger := omega) only [ex_low, ex_high, ex_self, bit_low, bit_high, bit_ofBool, Nat.reduceSub]
  trivial

theorem unpackC_pack (op : BitVec 8) (f : FmtC) : unpackC (packC op f) = f ∧ opcodeOf (packC op f) = op ∧ (packC op f).extractLsb' 10 4 = f.site := by
  unfold unpackC packC opcodeOf unpackGuard packHead
  simp (discharger := omega) only [ex_low, ex_high, ex_self, bit_low, bit_high, bit_ofBool, Nat.reduceSub]
  trivial

theorem unpackX_pack (op : BitVec 8) (f : FmtX) : unpackX (packX op f) = f ∧ opcodeOf (packX op f) = op := by
  unfold unpackX packX opcodeOf unpackGuard packHead
  simp (discharger := omega) only [ex_low, ex_high, ex_self, bit_low, bit_high, bit_ofBool, Nat.reduceSub]
  trivial

theorem unpackS_pack (op : BitVec 8) (f : FmtS) : unpackS (packS op f) = f ∧ opcodeOf (packS op f) = op := by
  unfold unpackS packS opcodeOf unpackGuard packHead
  simp (discharger := omega) only [ex_low, ex_high, ex_self, bit_low, bit_high, bit_ofBool, Nat.reduceSub]
  trivial

theorem unpackM_pack (op : BitVec 8) (f : FmtM) (ext : List Dword) (h : ext.head? = f.ext) :
    unpackM (packMWord op f) ext = f ∧ opcodeOf (packMWord op f) = op ∧ (packMWord op f).getLsbD 3 = f.ext.isSome := by
  unfold unpackM packMWord opcodeOf unpackGuard packHead
  simp (discharger := omega) only [ex_low, ex_high, ex_self, bit_low, bit_high, bit_ofBool, Nat.reduceSub, h]
  trivial

def headI (op : BitVec 8) (f : FmtI) : Dword := (packI op f).headD 0
theorem packI_eq (op : BitVec 8) (f : FmtI) : packI op f = headI op f :: f.ext.toList := rfl
theorem unpackI_pack (op : BitVec 8) (f : FmtI) (ext : List Dword) (h : ext.head? = f.ext) :
    unpackI (headI op f) ext = f ∧ opcodeOf (headI op f) = op ∧ (headI op f).getLsbD 24 = f.ext.isSome := by
  unfold unpackI headI packI opcodeOf unpackGuard packHead List.headD
  simp (discharger := omega) only [ex_low, ex_high, ex_self, bit_low, bit_high, bit_ofBool, Nat.reduceSub, h]
  trivial

theorem dec_one {w : Dword} {i : Instr} {rest : List Dword} (h : extCount w = 0) (e : fromWords w [] = i) :
    decodeWords (w :: rest) = .ok (i, rest) := by
  simp [decodeWords, h, e]

theorem dec_n {w : Dword} {i : Instr} {ext rest : List Dword} (h : extCount w = ext.length) (e : fromWords w ext = i) :
    decodeWords (w :: (ext ++ rest)) = .ok (i, rest) := by
  simp [decodeWords, h, e]

theorem roundR {op : BitVec 8} {f : FmtR} {mk : FmtR → Instr} {rest : List Dword}
    (hx : ∀ w, opcodeOf w = op → extCount w = 0) (hf : ∀ w, opcodeOf w = op → fromWords w [] = mk (unpackR w)) :
    decodeWords (packR op f :: rest) = .ok (mk f, rest) :=
  dec_one (hx _ (unpackR_pack op f).2) (by rw [hf _ (unpackR_pack op f).2, (unpackR_pack op f).1])

theorem roundX {op : BitVec 8} {f : FmtX} {mk : FmtX → Instr} {rest : List Dword}
    (hx : ∀ w, opcodeOf w = op → extCount w = 0) (hf : ∀ w, opcodeOf w = op → fromWords w [] = mk (unpackX w)) :
    decodeWords (packX op f :: rest) = .ok (mk f, rest) :=
  dec_one (hx _ (unpackX_pack op f).2) (by rw [hf _ (unpackX_pack op f).2, (unpackX_pack op f).1])

theorem roundS {op : BitVec 8} {f : FmtS} {mk : FmtS → Instr} {rest : List Dword}
    (hx : ∀ w, opcodeOf w = op → extCount w = 0) (hf : ∀ w, opcodeOf w = op → fromWords w [] = mk (unpackS w)) :
    decodeWords (packS op f :: rest) = .ok (mk f, rest) :=
  dec_one (hx _ (unpackS_pack op f).2) (by rw [hf _ (unpackS_pack op f).2, (unpackS_pack op f).1])

theorem roundC {op : BitVec 8} {f : FmtC} {mk : FmtC → Instr} {rest : List Dword}
    (hx : ∀ w, opcodeOf w = op → extCount w = 0) (hf : ∀ w, opcodeOf w = op → fromWords w [] = mk (unpackC w)) :
    decodeWords (packC op f :: rest) = .ok (mk f, rest) :=
  dec_one (hx _ (unpackC_pack op f).2.1) (by rw [hf _ (unpackC_pack op f).2.1, (unpackC_pack op f).1])

theorem toList_head {α : Type} (x : Option α) : x.toList.head? = x := by cases x <;> rfl

theorem roundI {op : BitVec 8} {f : FmtI} {mk : FmtI → Instr} {rest : List Dword}
    (hx : ∀ w, opcodeOf w = op → extCount w = if w.getLsbD 24 then 1 else 0)
    (hf : ∀ w ext, opcodeOf w = op → fromWords w ext = mk (unpackI w ext)) :
    decodeWords (packI op f ++ rest) = .ok (mk f, rest) := by
  obtain ⟨a, b, c⟩ := unpackI_pack op f _ (toList_head f.ext)
  rw [packI_eq]
  exact dec_n (by rw [hx _ b, c]; cases f.ext <;> rfl) (by rw [hf _ _ b, a])

theorem roundM {op : BitVec 8} {f : FmtM} {mk : FmtM → Instr} {rest : List Dword}
    (hx : ∀ w, opcodeOf w = op → extCount w = if w.getLsbD 3 then 1 else 0)
    (hf : ∀ w ext, opcodeOf w = op → fromWords w ext = mk (unpackM w ext)) :
    decodeWords (packM op f ++ rest) = .ok (mk f, rest) := by
  obtain ⟨a, b, c⟩ := unpackM_pack op f _ (toList_head f.ext)
  exact dec_n (by rw [hx _ b, c]; cases f.ext <;> rfl) (by rw [hf _ _ b, a])

theorem roundMO {op : BitVec 8} {f : FmtMO} {mk : FmtMO → Instr} {rest : List Dword}
    (hx : ∀ w, opcodeOf w = op → extCount w = if w.getLsbD 3 then 2 else 1)
    (hf : ∀ w ext, opcodeOf w = op → fromWords w ext = mk (unpackMO w ext)) :
    decodeWords (packMO op f ++ rest) = .ok (mk f, rest) := by
  obtain ⟨a, b, c⟩ := unpackM_pack op f.m _ (toList_head f.m.ext)
  refine dec_n (ext := f.operand :: f.m.ext.toList) (by rw [hx _ b, c]; cases f.m.ext <;> rfl) ?_
  rw [hf _ _ b]
  show mk ⟨unpackM (packMWord op f.m) f.m.ext.toList, f.operand⟩ = mk f
  rw [a]

theorem unassigned_words {w : Dword} (h : assigned (opcodeOf w) = false) :
    extCount w = 0 ∧ fromWords w [] = .unassignedOpcode w := by
  unfold extCount fromWords
  constructor <;> split <;> first | rfl | (next k => simp [assigned, k] at h)

end Sys2Proof.Laws

/-- The round trip of one instruction (R226): its words, with others behind them, decode to it and leave the others. -/
def Sys2Proof.Laws.RoundTrip.Statement (i : Sys2Proof.Instr) : Prop :=
  i.wellFormed = true → ∀ rest, Sys2Proof.decodeWords (Sys2Proof.encode i ++ rest) = .ok (i, rest)

namespace Sys2Proof.Laws.RoundTrip

theorem nop (f : FmtC) : Statement (.nop f) := fun _ _ =>
  roundC (mk := .nop) (fun w k => by unfold extCount; rw [k]; rfl) (fun w k => by unfold fromWords; rw [k]; rfl)

theorem bra (f : FmtC) : Statement (.bra f) := fun _ _ =>
  roundC (mk := .bra) (fun w k => by unfold extCount; rw [k]; rfl) (fun w k => by unfold fromWords; rw [k]; rfl)

theorem brx (f : FmtC) : Statement (.brx f) := fun _ _ =>
  roundC (mk := .brx) (fun w k => by unfold extCount; rw [k]; rfl) (fun w k => by unfold fromWords; rw [k]; rfl)

theorem call (f : FmtC) : Statement (.call f) := fun _ _ =>
  roundC (mk := .call) (fun w k => by unfold extCount; rw [k]; rfl) (fun w k => by unfold fromWords; rw [k]; rfl)

theorem ret (f : FmtC) : Statement (.ret f) := fun _ _ =>
  roundC (mk := .ret) (fun w k => by unfold extCount; rw [k]; rfl) (fun w k => by unfold fromWords; rw [k]; rfl)

theorem switch (f : FmtCS) : Statement (.switch f) := fun h rest => by
  obtain ⟨a, b, c⟩ := unpackC_pack 0x06 f.c
  have k : f.cases.length = caseWords f.c.site := by simpa [Instr.wellFormed] using h
  refine dec_n (w := packC 0x06 f.c) (ext := f.cases) (by unfold extCount; rw [b]; show caseWords _ = _; rw [c, k]) ?_
  unfold fromWords
  rw [b]
  show Instr.switch ⟨unpackC (packC 0x06 f.c), f.cases⟩ = _
  rw [a]

theorem rset (f : FmtC) : Statement (.rset f) := fun _ _ =>
  roundC (mk := .rset) (fun w k => by unfold extCount; rw [k]; rfl) (fun w k => by unfold fromWords; rw [k]; rfl)

theorem rwait (f : FmtC) : Statement (.rwait f) := fun _ _ =>
  roundC (mk := .rwait) (fun w k => by unfold extCount; rw [k]; rfl) (fun w k => by unfold fromWords; rw [k]; rfl)

theorem rleave (f : FmtC) : Statement (.rleave f) := fun _ _ =>
  roundC (mk := .rleave) (fun w k => by unfold extCount; rw [k]; rfl) (fun w k => by unfold fromWords; rw [k]; rfl)

theorem yield (f : FmtC) : Statement (.yield f) := fun _ _ =>
  roundC (mk := .yield) (fun w k => by unfold extCount; rw [k]; rfl) (fun w k => by unfold fromWords; rw [k]; rfl)

theorem exit (f : FmtC) : Statement (.exit f) := fun _ _ =>
  roundC (mk := .exit) (fun w k => by unfold extCount; rw [k]; rfl) (fun w k => by unfold fromWords; rw [k]; rfl)

theorem region (f : FmtC) : Statement (.region f) := fun _ _ =>
  roundC (mk := .region) (fun w k => by unfold extCount; rw [k]; rfl) (fun w k => by unfold fromWords; rw [k]; rfl)

theorem launch (f : FmtS) : Statement (.launch f) := fun _ _ =>
  roundS (mk := .launch) (fun w k => by unfold extCount; rw [k]; rfl) (fun w k => by unfold fromWords; rw [k]; rfl)

theorem trap (f : FmtC) : Statement (.trap f) := fun _ _ =>
  roundC (mk := .trap) (fun w k => by unfold extCount; rw [k]; rfl) (fun w k => by unfold fromWords; rw [k]; rfl)

theorem bkpt (f : FmtC) : Statement (.bkpt f) := fun _ _ =>
  roundC (mk := .bkpt) (fun w k => by unfold extCount; rw [k]; rfl) (fun w k => by unfold fromWords; rw [k]; rfl)

theorem iadd (f : FmtR) : Statement (.iadd f) := fun _ _ =>
  roundR (mk := .iadd) (fun w k => by unfold extCount; rw [k]; rfl) (fun w k => by unfold fromWords; rw [k]; rfl)

theorem isub (f : FmtR) : Statement (.isub f) := fun _ _ =>
  roundR (mk := .isub) (fun w k => by unfold extCount; rw [k]; rfl) (fun w k => by unfold fromWords; rw [k]; rfl)

theorem imul (f : FmtR) : Statement (.imul f) := fun _ _ =>
  roundR (mk := .imul) (fun w k => by unfold extCount; rw [k]; rfl) (fun w k => by unfold fromWords; rw [k]; rfl)

theorem imulh (f : FmtR) : Statement (.imulh f) := fun _ _ =>
  roundR (mk := .imulh) (fun w k => by unfold extCount; rw [k]; rfl) (fun w k => by unfold fromWords; rw [k]; rfl)

theorem imad (f : FmtR) : Statement (.imad f) := fun _ _ =>
  roundR (mk := .imad) (fun w k => by unfold extCount; rw [k]; rfl) (fun w k => by unfold fromWords; rw [k]; rfl)

theorem idiv (f : FmtR) : Statement (.idiv f) := fun _ _ =>
  roundR (mk := .idiv) (fun w k => by unfold extCount; rw [k]; rfl) (fun w k => by unfold fromWords; rw [k]; rfl)

theorem irem (f : FmtR) : Statement (.irem f) := fun _ _ =>
  roundR (mk := .irem) (fun w k => by unfold extCount; rw [k]; rfl) (fun w k => by unfold fromWords; rw [k]; rfl)

theorem imin (f : FmtR) : Statement (.imin f) := fun _ _ =>
  roundR (mk := .imin) (fun w k => by unfold extCount; rw [k]; rfl) (fun w k => by unfold fromWords; rw [k]; rfl)

theorem imax (f : FmtR) : Statement (.imax f) := fun _ _ =>
  roundR (mk := .imax) (fun w k => by unfold extCount; rw [k]; rfl) (fun w k => by unfold fromWords; rw [k]; rfl)

theorem iabs (f : FmtR) : Statement (.iabs f) := fun _ _ =>
  roundR (mk := .iabs) (fun w k => by unfold extCount; rw [k]; rfl) (fun w k => by unfold fromWords; rw [k]; rfl)

theorem ineg (f : FmtR) : Statement (.ineg f) := fun _ _ =>
  roundR (mk := .ineg) (fun w k => by unfold extCount; rw [k]; rfl) (fun w k => by unfold fromWords; rw [k]; rfl)

theorem isat (f : FmtR) : Statement (.isat f) := fun _ _ =>
  roundR (mk := .isat) (fun w k => by unfold extCount; rw [k]; rfl) (fun w k => by unfold fromWords; rw [k]; rfl)

theorem iadds (f : FmtR) : Statement (.iadds f) := fun _ _ =>
  roundR (mk := .iadds) (fun w k => by unfold extCount; rw [k]; rfl) (fun w k => by unfold fromWords; rw [k]; rfl)

theorem isubs (f : FmtR) : Statement (.isubs f) := fun _ _ =>
  roundR (mk := .isubs) (fun w k => by unfold extCount; rw [k]; rfl) (fun w k => by unfold fromWords; rw [k]; rfl)

theorem icmp (f : FmtR) : Statement (.icmp f) := fun _ _ =>
  roundR (mk := .icmp) (fun w k => by unfold extCount; rw [k]; rfl) (fun w k => by unfold fromWords; rw [k]; rfl)

theorem qadd (f : FmtR) : Statement (.qadd f) := fun _ _ =>
  roundR (mk := .qadd) (fun w k => by unfold extCount; rw [k]; rfl) (fun w k => by unfold fromWords; rw [k]; rfl)

theorem and (f : FmtR) : Statement (.and f) := fun _ _ =>
  roundR (mk := .and) (fun w k => by unfold extCount; rw [k]; rfl) (fun w k => by unfold fromWords; rw [k]; rfl)

theorem or (f : FmtR) : Statement (.or f) := fun _ _ =>
  roundR (mk := .or) (fun w k => by unfold extCount; rw [k]; rfl) (fun w k => by unfold fromWords; rw [k]; rfl)

theorem xor (f : FmtR) : Statement (.xor f) := fun _ _ =>
  roundR (mk := .xor) (fun w k => by unfold extCount; rw [k]; rfl) (fun w k => by unfold fromWords; rw [k]; rfl)

theorem andn (f : FmtR) : Statement (.andn f) := fun _ _ =>
  roundR (mk := .andn) (fun w k => by unfold extCount; rw [k]; rfl) (fun w k => by unfold fromWords; rw [k]; rfl)

theorem not (f : FmtR) : Statement (.not f) := fun _ _ =>
  roundR (mk := .not) (fun w k => by unfold extCount; rw [k]; rfl) (fun w k => by unfold fromWords; rw [k]; rfl)

theorem shl (f : FmtR) : Statement (.shl f) := fun _ _ =>
  roundR (mk := .shl) (fun w k => by unfold extCount; rw [k]; rfl) (fun w k => by unfold fromWords; rw [k]; rfl)

theorem shr (f : FmtR) : Statement (.shr f) := fun _ _ =>
  roundR (mk := .shr) (fun w k => by unfold extCount; rw [k]; rfl) (fun w k => by unfold fromWords; rw [k]; rfl)

theorem sar (f : FmtR) : Statement (.sar f) := fun _ _ =>
  roundR (mk := .sar) (fun w k => by unfold extCount; rw [k]; rfl) (fun w k => by unfold fromWords; rw [k]; rfl)

theorem rol (f : FmtR) : Statement (.rol f) := fun _ _ =>
  roundR (mk := .rol) (fun w k => by unfold extCount; rw [k]; rfl) (fun w k => by unfold fromWords; rw [k]; rfl)

theorem bfx (f : FmtR) : Statement (.bfx f) := fun _ _ =>
  roundR (mk := .bfx) (fun w k => by unfold extCount; rw [k]; rfl) (fun w k => by unfold fromWords; rw [k]; rfl)

theorem bfi (f : FmtR) : Statement (.bfi f) := fun _ _ =>
  roundR (mk := .bfi) (fun w k => by unfold extCount; rw [k]; rfl) (fun w k => by unfold fromWords; rw [k]; rfl)

theorem popc (f : FmtR) : Statement (.popc f) := fun _ _ =>
  roundR (mk := .popc) (fun w k => by unfold extCount; rw [k]; rfl) (fun w k => by unfold fromWords; rw [k]; rfl)

theorem clz (f : FmtR) : Statement (.clz f) := fun _ _ =>
  roundR (mk := .clz) (fun w k => by unfold extCount; rw [k]; rfl) (fun w k => by unfold fromWords; rw [k]; rfl)

theorem ctz (f : FmtR) : Statement (.ctz f) := fun _ _ =>
  roundR (mk := .ctz) (fun w k => by unfold extCount; rw [k]; rfl) (fun w k => by unfold fromWords; rw [k]; rfl)

theorem brev (f : FmtR) : Statement (.brev f) := fun _ _ =>
  roundR (mk := .brev) (fun w k => by unfold extCount; rw [k]; rfl) (fun w k => by unfold fromWords; rw [k]; rfl)

theorem lea (f : FmtR) : Statement (.lea f) := fun _ _ =>
  roundR (mk := .lea) (fun w k => by unfold extCount; rw [k]; rfl) (fun w k => by unfold fromWords; rw [k]; rfl)

theorem iaddi (f : FmtI) : Statement (.iaddi f) := fun _ _ =>
  roundI (mk := .iaddi) (fun w k => by unfold extCount; rw [k]; rfl) (fun w e k => by unfold fromWords; rw [k]; rfl)

theorem imuli (f : FmtI) : Statement (.imuli f) := fun _ _ =>
  roundI (mk := .imuli) (fun w k => by unfold extCount; rw [k]; rfl) (fun w e k => by unfold fromWords; rw [k]; rfl)

theorem andi (f : FmtI) : Statement (.andi f) := fun _ _ =>
  roundI (mk := .andi) (fun w k => by unfold extCount; rw [k]; rfl) (fun w e k => by unfold fromWords; rw [k]; rfl)

theorem ori (f : FmtI) : Statement (.ori f) := fun _ _ =>
  roundI (mk := .ori) (fun w k => by unfold extCount; rw [k]; rfl) (fun w e k => by unfold fromWords; rw [k]; rfl)

theorem xori (f : FmtI) : Statement (.xori f) := fun _ _ =>
  roundI (mk := .xori) (fun w k => by unfold extCount; rw [k]; rfl) (fun w e k => by unfold fromWords; rw [k]; rfl)

theorem shli (f : FmtI) : Statement (.shli f) := fun _ _ =>
  roundI (mk := .shli) (fun w k => by unfold extCount; rw [k]; rfl) (fun w e k => by unfold fromWords; rw [k]; rfl)

theorem shri (f : FmtI) : Statement (.shri f) := fun _ _ =>
  roundI (mk := .shri) (fun w k => by unfold extCount; rw [k]; rfl) (fun w e k => by unfold fromWords; rw [k]; rfl)

theorem sari (f : FmtI) : Statement (.sari f) := fun _ _ =>
  roundI (mk := .sari) (fun w k => by unfold extCount; rw [k]; rfl) (fun w e k => by unfold fromWords; rw [k]; rfl)

theorem icmpi (f : FmtI) : Statement (.icmpi f) := fun _ _ =>
  roundI (mk := .icmpi) (fun w k => by unfold extCount; rw [k]; rfl) (fun w e k => by unfold fromWords; rw [k]; rfl)

theorem imadi (f : FmtI) : Statement (.imadi f) := fun _ _ =>
  roundI (mk := .imadi) (fun w k => by unfold extCount; rw [k]; rfl) (fun w e k => by unfold fromWords; rw [k]; rfl)

theorem movi (f : FmtI) : Statement (.movi f) := fun _ _ =>
  roundI (mk := .movi) (fun w k => by unfold extCount; rw [k]; rfl) (fun w e k => by unfold fromWords; rw [k]; rfl)

theorem movw (f : FmtI) : Statement (.movw f) := fun _ _ =>
  roundI (mk := .movw) (fun w k => by unfold extCount; rw [k]; rfl) (fun w e k => by unfold fromWords; rw [k]; rfl)

theorem mov (f : FmtR) : Statement (.mov f) := fun _ _ =>
  roundR (mk := .mov) (fun w k => by unfold extCount; rw [k]; rfl) (fun w k => by unfold fromWords; rw [k]; rfl)

theorem sel (f : FmtR) : Statement (.sel f) := fun _ _ =>
  roundR (mk := .sel) (fun w k => by unfold extCount; rw [k]; rfl) (fun w k => by unfold fromWords; rw [k]; rfl)

theorem movs (f : FmtR) : Statement (.movs f) := fun _ _ =>
  roundR (mk := .movs) (fun w k => by unfold extCount; rw [k]; rfl) (fun w k => by unfold fromWords; rw [k]; rfl)

theorem prmt (f : FmtR) : Statement (.prmt f) := fun _ _ =>
  roundR (mk := .prmt) (fun w k => by unfold extCount; rw [k]; rfl) (fun w k => by unfold fromWords; rw [k]; rfl)

theorem fadd (f : FmtR) : Statement (.fadd f) := fun _ _ =>
  roundR (mk := .fadd) (fun w k => by unfold extCount; rw [k]; rfl) (fun w k => by unfold fromWords; rw [k]; rfl)

theorem fsub (f : FmtR) : Statement (.fsub f) := fun _ _ =>
  roundR (mk := .fsub) (fun w k => by unfold extCount; rw [k]; rfl) (fun w k => by unfold fromWords; rw [k]; rfl)

theorem fmul (f : FmtR) : Statement (.fmul f) := fun _ _ =>
  roundR (mk := .fmul) (fun w k => by unfold extCount; rw [k]; rfl) (fun w k => by unfold fromWords; rw [k]; rfl)

theorem ffma (f : FmtR) : Statement (.ffma f) := fun _ _ =>
  roundR (mk := .ffma) (fun w k => by unfold extCount; rw [k]; rfl) (fun w k => by unfold fromWords; rw [k]; rfl)

theorem fmin (f : FmtR) : Statement (.fmin f) := fun _ _ =>
  roundR (mk := .fmin) (fun w k => by unfold extCount; rw [k]; rfl) (fun w k => by unfold fromWords; rw [k]; rfl)

theorem fmax (f : FmtR) : Statement (.fmax f) := fun _ _ =>
  roundR (mk := .fmax) (fun w k => by unfold extCount; rw [k]; rfl) (fun w k => by unfold fromWords; rw [k]; rfl)

theorem fminn (f : FmtR) : Statement (.fminn f) := fun _ _ =>
  roundR (mk := .fminn) (fun w k => by unfold extCount; rw [k]; rfl) (fun w k => by unfold fromWords; rw [k]; rfl)

theorem fmaxn (f : FmtR) : Statement (.fmaxn f) := fun _ _ =>
  roundR (mk := .fmaxn) (fun w k => by unfold extCount; rw [k]; rfl) (fun w k => by unfold fromWords; rw [k]; rfl)

theorem fcmp (f : FmtR) : Statement (.fcmp f) := fun _ _ =>
  roundR (mk := .fcmp) (fun w k => by unfold extCount; rw [k]; rfl) (fun w k => by unfold fromWords; rw [k]; rfl)

theorem fclass (f : FmtR) : Statement (.fclass f) := fun _ _ =>
  roundR (mk := .fclass) (fun w k => by unfold extCount; rw [k]; rfl) (fun w k => by unfold fromWords; rw [k]; rfl)

theorem fdiv (f : FmtR) : Statement (.fdiv f) := fun _ _ =>
  roundR (mk := .fdiv) (fun w k => by unfold extCount; rw [k]; rfl) (fun w k => by unfold fromWords; rw [k]; rfl)

theorem fsqrt (f : FmtR) : Statement (.fsqrt f) := fun _ _ =>
  roundR (mk := .fsqrt) (fun w k => by unfold extCount; rw [k]; rfl) (fun w k => by unfold fromWords; rw [k]; rfl)

theorem frcp (f : FmtR) : Statement (.frcp f) := fun _ _ =>
  roundR (mk := .frcp) (fun w k => by unfold extCount; rw [k]; rfl) (fun w k => by unfold fromWords; rw [k]; rfl)

theorem frsq (f : FmtR) : Statement (.frsq f) := fun _ _ =>
  roundR (mk := .frsq) (fun w k => by unfold extCount; rw [k]; rfl) (fun w k => by unfold fromWords; rw [k]; rfl)

theorem fexp2 (f : FmtR) : Statement (.fexp2 f) := fun _ _ =>
  roundR (mk := .fexp2) (fun w k => by unfold extCount; rw [k]; rfl) (fun w k => by unfold fromWords; rw [k]; rfl)

theorem flog2 (f : FmtR) : Statement (.flog2 f) := fun _ _ =>
  roundR (mk := .flog2) (fun w k => by unfold extCount; rw [k]; rfl) (fun w k => by unfold fromWords; rw [k]; rfl)

theorem fsin (f : FmtR) : Statement (.fsin f) := fun _ _ =>
  roundR (mk := .fsin) (fun w k => by unfold extCount; rw [k]; rfl) (fun w k => by unfold fromWords; rw [k]; rfl)

theorem fcos (f : FmtR) : Statement (.fcos f) := fun _ _ =>
  roundR (mk := .fcos) (fun w k => by unfold extCount; rw [k]; rfl) (fun w k => by unfold fromWords; rw [k]; rfl)

theorem ftanh (f : FmtR) : Statement (.ftanh f) := fun _ _ =>
  roundR (mk := .ftanh) (fun w k => by unfold extCount; rw [k]; rfl) (fun w k => by unfold fromWords; rw [k]; rfl)

theorem frnd (f : FmtR) : Statement (.frnd f) := fun _ _ =>
  roundR (mk := .frnd) (fun w k => by unfold extCount; rw [k]; rfl) (fun w k => by unfold fromWords; rw [k]; rfl)

theorem fscale (f : FmtR) : Statement (.fscale f) := fun _ _ =>
  roundR (mk := .fscale) (fun w k => by unfold extCount; rw [k]; rfl) (fun w k => by unfold fromWords; rw [k]; rfl)

theorem fcvt (f : FmtR) : Statement (.fcvt f) := fun _ _ =>
  roundR (mk := .fcvt) (fun w k => by unfold extCount; rw [k]; rfl) (fun w k => by unfold fromWords; rw [k]; rfl)

theorem ftoi (f : FmtR) : Statement (.ftoi f) := fun _ _ =>
  roundR (mk := .ftoi) (fun w k => by unfold extCount; rw [k]; rfl) (fun w k => by unfold fromWords; rw [k]; rfl)

theorem itof (f : FmtR) : Statement (.itof f) := fun _ _ =>
  roundR (mk := .itof) (fun w k => by unfold extCount; rw [k]; rfl) (fun w k => by unfold fromWords; rw [k]; rfl)

theorem faddi (f : FmtI) : Statement (.faddi f) := fun _ _ =>
  roundI (mk := .faddi) (fun w k => by unfold extCount; rw [k]; rfl) (fun w e k => by unfold fromWords; rw [k]; rfl)

theorem fmuli (f : FmtI) : Statement (.fmuli f) := fun _ _ =>
  roundI (mk := .fmuli) (fun w k => by unfold extCount; rw [k]; rfl) (fun w e k => by unfold fromWords; rw [k]; rfl)

theorem ffmai (f : FmtI) : Statement (.ffmai f) := fun _ _ =>
  roundI (mk := .ffmai) (fun w k => by unfold extCount; rw [k]; rfl) (fun w e k => by unfold fromWords; rw [k]; rfl)

theorem exte (f : FmtR) : Statement (.exte f) := fun _ _ =>
  roundR (mk := .exte) (fun w k => by unfold extCount; rw [k]; rfl) (fun w k => by unfold fromWords; rw [k]; rfl)

theorem inse (f : FmtR) : Statement (.inse f) := fun _ _ =>
  roundR (mk := .inse) (fun w k => by unfold extCount; rw [k]; rfl) (fun w k => by unfold fromWords; rw [k]; rfl)

theorem srseed (f : FmtR) : Statement (.srseed f) := fun _ _ =>
  roundR (mk := .srseed) (fun w k => by unfold extCount; rw [k]; rfl) (fun w k => by unfold fromWords; rw [k]; rfl)

theorem fmtset (f : FmtR) : Statement (.fmtset f) := fun _ _ =>
  roundR (mk := .fmtset) (fun w k => by unfold extCount; rw [k]; rfl) (fun w k => by unfold fromWords; rw [k]; rfl)

theorem fmtget (f : FmtR) : Statement (.fmtget f) := fun _ _ =>
  roundR (mk := .fmtget) (fun w k => by unfold extCount; rw [k]; rfl) (fun w k => by unfold fromWords; rw [k]; rfl)

theorem fmtchk (f : FmtR) : Statement (.fmtchk f) := fun _ _ =>
  roundR (mk := .fmtchk) (fun w k => by unfold extCount; rw [k]; rfl) (fun w k => by unfold fromWords; rw [k]; rfl)

theorem rand (f : FmtR) : Statement (.rand f) := fun _ _ =>
  roundR (mk := .rand) (fun w k => by unfold extCount; rw [k]; rfl) (fun w k => by unfold fromWords; rw [k]; rfl)

theorem wrng (f : FmtR) : Statement (.wrng f) := fun _ _ =>
  roundR (mk := .wrng) (fun w k => by unfold extCount; rw [k]; rfl) (fun w k => by unfold fromWords; rw [k]; rfl)

theorem mand (f : FmtR) : Statement (.mand f) := fun _ _ =>
  roundR (mk := .mand) (fun w k => by unfold extCount; rw [k]; rfl) (fun w k => by unfold fromWords; rw [k]; rfl)

theorem mor (f : FmtR) : Statement (.mor f) := fun _ _ =>
  roundR (mk := .mor) (fun w k => by unfold extCount; rw [k]; rfl) (fun w k => by unfold fromWords; rw [k]; rfl)

theorem mxor (f : FmtR) : Statement (.mxor f) := fun _ _ =>
  roundR (mk := .mxor) (fun w k => by unfold extCount; rw [k]; rfl) (fun w k => by unfold fromWords; rw [k]; rfl)

theorem mnot (f : FmtR) : Statement (.mnot f) := fun _ _ =>
  roundR (mk := .mnot) (fun w k => by unfold extCount; rw [k]; rfl) (fun w k => by unfold fromWords; rw [k]; rfl)

theorem mpopc (f : FmtR) : Statement (.mpopc f) := fun _ _ =>
  roundR (mk := .mpopc) (fun w k => by unfold extCount; rw [k]; rfl) (fun w k => by unfold fromWords; rw [k]; rfl)

theorem mfirst (f : FmtR) : Statement (.mfirst f) := fun _ _ =>
  roundR (mk := .mfirst) (fun w k => by unfold extCount; rw [k]; rfl) (fun w k => by unfold fromWords; rw [k]; rfl)

theorem ballot (f : FmtR) : Statement (.ballot f) := fun _ _ =>
  roundR (mk := .ballot) (fun w k => by unfold extCount; rw [k]; rfl) (fun w k => by unfold fromWords; rw [k]; rfl)

theorem mtos (f : FmtR) : Statement (.mtos f) := fun _ _ =>
  roundR (mk := .mtos) (fun w k => by unfold extCount; rw [k]; rfl) (fun w k => by unfold fromWords; rw [k]; rfl)

theorem stom (f : FmtR) : Statement (.stom f) := fun _ _ =>
  roundR (mk := .stom) (fun w k => by unfold extCount; rw [k]; rfl) (fun w k => by unfold fromWords; rw [k]; rfl)

theorem vote (f : FmtR) : Statement (.vote f) := fun _ _ =>
  roundR (mk := .vote) (fun w k => by unfold extCount; rw [k]; rfl) (fun w k => by unfold fromWords; rw [k]; rfl)

theorem shfl (f : FmtR) : Statement (.shfl f) := fun _ _ =>
  roundR (mk := .shfl) (fun w k => by unfold extCount; rw [k]; rfl) (fun w k => by unfold fromWords; rw [k]; rfl)

theorem shflb (f : FmtR) : Statement (.shflb f) := fun _ _ =>
  roundR (mk := .shflb) (fun w k => by unfold extCount; rw [k]; rfl) (fun w k => by unfold fromWords; rw [k]; rfl)

theorem bfly (f : FmtR) : Statement (.bfly f) := fun _ _ =>
  roundR (mk := .bfly) (fun w k => by unfold extCount; rw [k]; rfl) (fun w k => by unfold fromWords; rw [k]; rfl)

theorem qswp (f : FmtR) : Statement (.qswp f) := fun _ _ =>
  roundR (mk := .qswp) (fun w k => by unfold extCount; rw [k]; rfl) (fun w k => by unfold fromWords; rw [k]; rfl)

theorem qbcst (f : FmtR) : Statement (.qbcst f) := fun _ _ =>
  roundR (mk := .qbcst) (fun w k => by unfold extCount; rw [k]; rfl) (fun w k => by unfold fromWords; rw [k]; rfl)

theorem wred (f : FmtR) : Statement (.wred f) := fun _ _ =>
  roundR (mk := .wred) (fun w k => by unfold extCount; rw [k]; rfl) (fun w k => by unfold fromWords; rw [k]; rfl)

theorem wscan (f : FmtR) : Statement (.wscan f) := fun _ _ =>
  roundR (mk := .wscan) (fun w k => by unfold extCount; rw [k]; rfl) (fun w k => by unfold fromWords; rw [k]; rfl)

theorem ld (f : FmtM) : Statement (.ld f) := fun _ _ =>
  roundM (mk := .ld) (fun w k => by unfold extCount; rw [k]; rfl) (fun w e k => by unfold fromWords; rw [k]; rfl)

theorem st (f : FmtM) : Statement (.st f) := fun _ _ =>
  roundM (mk := .st) (fun w k => by unfold extCount; rw [k]; rfl) (fun w e k => by unfold fromWords; rw [k]; rfl)

theorem ldf (f : FmtM) : Statement (.ldf f) := fun _ _ =>
  roundM (mk := .ldf) (fun w k => by unfold extCount; rw [k]; rfl) (fun w e k => by unfold fromWords; rw [k]; rfl)

theorem stf (f : FmtM) : Statement (.stf f) := fun _ _ =>
  roundM (mk := .stf) (fun w k => by unfold extCount; rw [k]; rfl) (fun w e k => by unfold fromWords; rw [k]; rfl)

theorem pref (f : FmtM) : Statement (.pref f) := fun _ _ =>
  roundM (mk := .pref) (fun w k => by unfold extCount; rw [k]; rfl) (fun w e k => by unfold fromWords; rw [k]; rfl)

theorem ipref (f : FmtM) : Statement (.ipref f) := fun _ _ =>
  roundM (mk := .ipref) (fun w k => by unfold extCount; rw [k]; rfl) (fun w e k => by unfold fromWords; rw [k]; rfl)

theorem fence (f : FmtM) : Statement (.fence f) := fun _ _ =>
  roundM (mk := .fence) (fun w k => by unfold extCount; rw [k]; rfl) (fun w e k => by unfold fromWords; rw [k]; rfl)

theorem atom (f : FmtMO) : Statement (.atom f) := fun _ _ =>
  roundMO (mk := .atom) (fun w k => by unfold extCount; rw [k]; rfl) (fun w e k => by unfold fromWords; rw [k]; rfl)

theorem red (f : FmtMO) : Statement (.red f) := fun _ _ =>
  roundMO (mk := .red) (fun w k => by unfold extCount; rw [k]; rfl) (fun w e k => by unfold fromWords; rw [k]; rfl)

theorem cas (f : FmtMO) : Statement (.cas f) := fun _ _ =>
  roundMO (mk := .cas) (fun w k => by unfold extCount; rw [k]; rfl) (fun w e k => by unfold fromWords; rw [k]; rfl)

theorem txb (f : FmtC) : Statement (.txb f) := fun _ _ =>
  roundC (mk := .txb) (fun w k => by unfold extCount; rw [k]; rfl) (fun w k => by unfold fromWords; rw [k]; rfl)

theorem txe (f : FmtC) : Statement (.txe f) := fun _ _ =>
  roundC (mk := .txe) (fun w k => by unfold extCount; rw [k]; rfl) (fun w k => by unfold fromWords; rw [k]; rfl)

theorem txa (f : FmtC) : Statement (.txa f) := fun _ _ =>
  roundC (mk := .txa) (fun w k => by unfold extCount; rw [k]; rfl) (fun w k => by unfold fromWords; rw [k]; rfl)

theorem txst (f : FmtR) : Statement (.txst f) := fun _ _ =>
  roundR (mk := .txst) (fun w k => by unfold extCount; rw [k]; rfl) (fun w k => by unfold fromWords; rw [k]; rfl)

theorem amxadv (f : FmtM) : Statement (.amxadv f) := fun _ _ =>
  roundM (mk := .amxadv) (fun w k => by unfold extCount; rw [k]; rfl) (fun w e k => by unfold fromWords; rw [k]; rfl)

theorem sclget (f : FmtM) : Statement (.sclget f) := fun _ _ =>
  roundM (mk := .sclget) (fun w k => by unfold extCount; rw [k]; rfl) (fun w e k => by unfold fromWords; rw [k]; rfl)

theorem cpa (f : FmtMO) : Statement (.cpa f) := fun _ _ =>
  roundMO (mk := .cpa) (fun w k => by unfold extCount; rw [k]; rfl) (fun w e k => by unfold fromWords; rw [k]; rfl)

theorem cpwait (f : FmtC) : Statement (.cpwait f) := fun _ _ =>
  roundC (mk := .cpwait) (fun w k => by unfold extCount; rw [k]; rfl) (fun w k => by unfold fromWords; rw [k]; rfl)

theorem cpcnt (f : FmtS) : Statement (.cpcnt f) := fun _ _ =>
  roundS (mk := .cpcnt) (fun w k => by unfold extCount; rw [k]; rfl) (fun w k => by unfold fromWords; rw [k]; rfl)

theorem kick (f : FmtS) : Statement (.kick f) := fun _ _ =>
  roundS (mk := .kick) (fun w k => by unfold extCount; rw [k]; rfl) (fun w k => by unfold fromWords; rw [k]; rfl)

theorem binit (f : FmtR) : Statement (.binit f) := fun _ _ =>
  roundR (mk := .binit) (fun w k => by unfold extCount; rw [k]; rfl) (fun w k => by unfold fromWords; rw [k]; rfl)

theorem barr (f : FmtR) : Statement (.barr f) := fun _ _ =>
  roundR (mk := .barr) (fun w k => by unfold extCount; rw [k]; rfl) (fun w k => by unfold fromWords; rw [k]; rfl)

theorem bwait (f : FmtR) : Statement (.bwait f) := fun _ _ =>
  roundR (mk := .bwait) (fun w k => by unfold extCount; rw [k]; rfl) (fun w k => by unfold fromWords; rw [k]; rfl)

theorem btest (f : FmtR) : Statement (.btest f) := fun _ _ =>
  roundR (mk := .btest) (fun w k => by unfold extCount; rw [k]; rfl) (fun w k => by unfold fromWords; rw [k]; rfl)

theorem bar (f : FmtC) : Statement (.bar f) := fun _ _ =>
  roundC (mk := .bar) (fun w k => by unfold extCount; rw [k]; rfl) (fun w k => by unfold fromWords; rw [k]; rfl)

theorem gsync (f : FmtC) : Statement (.gsync f) := fun _ _ =>
  roundC (mk := .gsync) (fun w k => by unfold extCount; rw [k]; rfl) (fun w k => by unfold fromWords; rw [k]; rfl)

theorem monw (f : FmtR) : Statement (.monw f) := fun _ _ =>
  roundR (mk := .monw) (fun w k => by unfold extCount; rw [k]; rfl) (fun w k => by unfold fromWords; rw [k]; rfl)

theorem monx (f : FmtR) : Statement (.monx f) := fun _ _ =>
  roundR (mk := .monx) (fun w k => by unfold extCount; rw [k]; rfl) (fun w k => by unfold fromWords; rw [k]; rfl)

theorem mldb (f : FmtX) : Statement (.mldb f) := fun _ _ =>
  roundX (mk := .mldb) (fun w k => by unfold extCount; rw [k]; rfl) (fun w k => by unfold fromWords; rw [k]; rfl)

theorem mldbs (f : FmtX) : Statement (.mldbs f) := fun _ _ =>
  roundX (mk := .mldbs) (fun w k => by unfold extCount; rw [k]; rfl) (fun w k => by unfold fromWords; rw [k]; rfl)

theorem mldt (f : FmtX) : Statement (.mldt f) := fun _ _ =>
  roundX (mk := .mldt) (fun w k => by unfold extCount; rw [k]; rfl) (fun w k => by unfold fromWords; rw [k]; rfl)

theorem mma (f : FmtX) : Statement (.mma f) := fun _ _ =>
  roundX (mk := .mma) (fun w k => by unfold extCount; rw [k]; rfl) (fun w k => by unfold fromWords; rw [k]; rfl)

theorem mmas (f : FmtX) : Statement (.mmas f) := fun _ _ =>
  roundX (mk := .mmas) (fun w k => by unfold extCount; rw [k]; rfl) (fun w k => by unfold fromWords; rw [k]; rfl)

theorem msig (f : FmtX) : Statement (.msig f) := fun _ _ =>
  roundX (mk := .msig) (fun w k => by unfold extCount; rw [k]; rfl) (fun w k => by unfold fromWords; rw [k]; rfl)

theorem mkset (f : FmtX) : Statement (.mkset f) := fun _ _ =>
  roundX (mk := .mkset) (fun w k => by unfold extCount; rw [k]; rfl) (fun w k => by unfold fromWords; rw [k]; rfl)

theorem mzero (f : FmtX) : Statement (.mzero f) := fun _ _ =>
  roundX (mk := .mzero) (fun w k => by unfold extCount; rw [k]; rfl) (fun w k => by unfold fromWords; rw [k]; rfl)

theorem mst (f : FmtX) : Statement (.mst f) := fun _ _ =>
  roundX (mk := .mst) (fun w k => by unfold extCount; rw [k]; rfl) (fun w k => by unfold fromWords; rw [k]; rfl)

theorem mrd (f : FmtX) : Statement (.mrd f) := fun _ _ =>
  roundX (mk := .mrd) (fun w k => by unfold extCount; rw [k]; rfl) (fun w k => by unfold fromWords; rw [k]; rfl)

theorem mwr (f : FmtX) : Statement (.mwr f) := fun _ _ =>
  roundX (mk := .mwr) (fun w k => by unfold extCount; rw [k]; rfl) (fun w k => by unfold fromWords; rw [k]; rfl)

theorem mscl (f : FmtX) : Statement (.mscl f) := fun _ _ =>
  roundX (mk := .mscl) (fun w k => by unfold extCount; rw [k]; rfl) (fun w k => by unfold fromWords; rw [k]; rfl)

theorem mwait (f : FmtX) : Statement (.mwait f) := fun _ _ =>
  roundX (mk := .mwait) (fun w k => by unfold extCount; rw [k]; rfl) (fun w k => by unfold fromWords; rw [k]; rfl)

theorem mstat (f : FmtX) : Statement (.mstat f) := fun _ _ =>
  roundX (mk := .mstat) (fun w k => by unfold extCount; rw [k]; rfl) (fun w k => by unfold fromWords; rw [k]; rfl)

theorem wset (f : FmtS) : Statement (.wset f) := fun _ _ =>
  roundS (mk := .wset) (fun w k => by unfold extCount; rw [k]; rfl) (fun w k => by unfold fromWords; rw [k]; rfl)

theorem wget (f : FmtS) : Statement (.wget f) := fun _ _ =>
  roundS (mk := .wget) (fun w k => by unfold extCount; rw [k]; rfl) (fun w k => by unfold fromWords; rw [k]; rfl)

theorem trdec (f : FmtR) : Statement (.trdec f) := fun _ _ =>
  roundR (mk := .trdec) (fun w k => by unfold extCount; rw [k]; rfl) (fun w k => by unfold fromWords; rw [k]; rfl)

theorem trdecn (f : FmtS) : Statement (.trdecn f) := fun _ _ =>
  roundS (mk := .trdecn) (fun w k => by unfold extCount; rw [k]; rfl) (fun w k => by unfold fromWords; rw [k]; rfl)

theorem trenc (f : FmtS) : Statement (.trenc f) := fun _ _ =>
  roundS (mk := .trenc) (fun w k => by unfold extCount; rw [k]; rfl) (fun w k => by unfold fromWords; rw [k]; rfl)

theorem trwait (f : FmtC) : Statement (.trwait f) := fun _ _ =>
  roundC (mk := .trwait) (fun w k => by unfold extCount; rw [k]; rfl) (fun w k => by unfold fromWords; rw [k]; rfl)

theorem topen (f : FmtS) : Statement (.topen f) := fun _ _ =>
  roundS (mk := .topen) (fun w k => by unfold extCount; rw [k]; rfl) (fun w k => by unfold fromWords; rw [k]; rfl)

theorem trec (f : FmtS) : Statement (.trec f) := fun _ _ =>
  roundS (mk := .trec) (fun w k => by unfold extCount; rw [k]; rfl) (fun w k => by unfold fromWords; rw [k]; rfl)

theorem tbr (f : FmtS) : Statement (.tbr f) := fun _ _ =>
  roundS (mk := .tbr) (fun w k => by unfold extCount; rw [k]; rfl) (fun w k => by unfold fromWords; rw [k]; rfl)

theorem tmark (f : FmtS) : Statement (.tmark f) := fun _ _ =>
  roundS (mk := .tmark) (fun w k => by unfold extCount; rw [k]; rfl) (fun w k => by unfold fromWords; rw [k]; rfl)

theorem tclose (f : FmtS) : Statement (.tclose f) := fun _ _ =>
  roundS (mk := .tclose) (fun w k => by unfold extCount; rw [k]; rfl) (fun w k => by unfold fromWords; rw [k]; rfl)

theorem trev (f : FmtS) : Statement (.trev f) := fun _ _ =>
  roundS (mk := .trev) (fun w k => by unfold extCount; rw [k]; rfl) (fun w k => by unfold fromWords; rw [k]; rfl)

theorem tget (f : FmtS) : Statement (.tget f) := fun _ _ =>
  roundS (mk := .tget) (fun w k => by unfold extCount; rw [k]; rfl) (fun w k => by unfold fromWords; rw [k]; rfl)

theorem tbrp (f : FmtS) : Statement (.tbrp f) := fun _ _ =>
  roundS (mk := .tbrp) (fun w k => by unfold extCount; rw [k]; rfl) (fun w k => by unfold fromWords; rw [k]; rfl)

theorem tstat (f : FmtS) : Statement (.tstat f) := fun _ _ =>
  roundS (mk := .tstat) (fun w k => by unfold extCount; rw [k]; rfl) (fun w k => by unfold fromWords; rw [k]; rfl)

theorem tgrant (f : FmtS) : Statement (.tgrant f) := fun _ _ =>
  roundS (mk := .tgrant) (fun w k => by unfold extCount; rw [k]; rfl) (fun w k => by unfold fromWords; rw [k]; rfl)

theorem sread (f : FmtS) : Statement (.sread f) := fun _ _ =>
  roundS (mk := .sread) (fun w k => by unfold extCount; rw [k]; rfl) (fun w k => by unfold fromWords; rw [k]; rfl)

theorem swrite (f : FmtS) : Statement (.swrite f) := fun _ _ =>
  roundS (mk := .swrite) (fun w k => by unfold extCount; rw [k]; rfl) (fun w k => by unfold fromWords; rw [k]; rfl)

theorem evmark (f : FmtS) : Statement (.evmark f) := fun _ _ =>
  roundS (mk := .evmark) (fun w k => by unfold extCount; rw [k]; rfl) (fun w k => by unfold fromWords; rw [k]; rfl)

theorem sleep (f : FmtS) : Statement (.sleep f) := fun _ _ =>
  roundS (mk := .sleep) (fun w k => by unfold extCount; rw [k]; rfl) (fun w k => by unfold fromWords; rw [k]; rfl)

theorem caprd (f : FmtS) : Statement (.caprd f) := fun _ _ =>
  roundS (mk := .caprd) (fun w k => by unfold extCount; rw [k]; rfl) (fun w k => by unfold fromWords; rw [k]; rfl)

theorem eret (f : FmtS) : Statement (.eret f) := fun _ _ =>
  roundS (mk := .eret) (fun w k => by unfold extCount; rw [k]; rfl) (fun w k => by unfold fromWords; rw [k]; rfl)

theorem trapr (f : FmtS) : Statement (.trapr f) := fun _ _ =>
  roundS (mk := .trapr) (fun w k => by unfold extCount; rw [k]; rfl) (fun w k => by unfold fromWords; rw [k]; rfl)

theorem energy (f : FmtS) : Statement (.energy f) := fun _ _ =>
  roundS (mk := .energy) (fun w k => by unfold extCount; rw [k]; rfl) (fun w k => by unfold fromWords; rw [k]; rfl)

theorem perfsel (f : FmtS) : Statement (.perfsel f) := fun _ _ =>
  roundS (mk := .perfsel) (fun w k => by unfold extCount; rw [k]; rfl) (fun w k => by unfold fromWords; rw [k]; rfl)

theorem perfrd (f : FmtS) : Statement (.perfrd f) := fun _ _ =>
  roundS (mk := .perfrd) (fun w k => by unfold extCount; rw [k]; rfl) (fun w k => by unfold fromWords; rw [k]; rfl)

theorem unassignedOpcode (w : Dword) : Statement (.unassignedOpcode w) := fun h rest => by
  have k : assigned (opcodeOf w) = false := by simpa [Instr.wellFormed] using h
  exact dec_one (unassigned_words k).1 (unassigned_words k).2

theorem producerComplete : ∀ x0 x1 x2, Statement (.producerComplete x0 x1 x2) :=
  fun x0 x1 x2 h => by cases h

theorem storeQueueDrain : ∀ x0 x1, Statement (.storeQueueDrain x0 x1) :=
  fun x0 x1 h => by cases h

theorem tableWalk : ∀ x0 x1 x2 x3 x4, Statement (.tableWalk x0 x1 x2 x3 x4) :=
  fun x0 x1 x2 x3 x4 h => by cases h

theorem faultEntryRecheck : ∀ x0 x1, Statement (.faultEntryRecheck x0 x1) :=
  fun x0 x1 h => by cases h

theorem faultQueueWaitEnd : ∀ x0, Statement (.faultQueueWaitEnd x0) :=
  fun x0 h => by cases h

theorem faultResolutionLimit : ∀ x0 x1, Statement (.faultResolutionLimit x0 x1) :=
  fun x0 x1 h => by cases h

theorem icacheFill : ∀ x0 x1, Statement (.icacheFill x0 x1) :=
  fun x0 x1 h => by cases h

theorem cpaJobComplete : ∀ x0, Statement (.cpaJobComplete x0) :=
  fun x0 h => by cases h

theorem kickRequestComplete : ∀ x0, Statement (.kickRequestComplete x0) :=
  fun x0 h => by cases h

theorem trellisJobComplete : ∀ x0, Statement (.trellisJobComplete x0) :=
  fun x0 h => by cases h

theorem caprdJobComplete : ∀ x0, Statement (.caprdJobComplete x0) :=
  fun x0 h => by cases h

theorem matrixOpExecute : ∀ x0, Statement (.matrixOpExecute x0) :=
  fun x0 h => by cases h

theorem matrixOpComplete : ∀ x0, Statement (.matrixOpComplete x0) :=
  fun x0 h => by cases h

theorem formatEmulation : ∀ x0 x1 x2, Statement (.formatEmulation x0 x1 x2) :=
  fun x0 x1 x2 h => by cases h

theorem monitorTimeout : ∀ x0 x1, Statement (.monitorTimeout x0 x1) :=
  fun x0 x1 h => by cases h

theorem sleepExpiry : ∀ x0 x1 x2, Statement (.sleepExpiry x0 x1 x2) :=
  fun x0 x1 x2 h => by cases h

theorem barrierDeadlock : ∀ x0, Statement (.barrierDeadlock x0) :=
  fun x0 h => by cases h

theorem gangBarrierDeadlock : ∀ x0, Statement (.gangBarrierDeadlock x0) :=
  fun x0 h => by cases h

theorem rejoinDeadlock : ∀ x0 x1, Statement (.rejoinDeadlock x0 x1) :=
  fun x0 x1 h => by cases h

theorem trapDelivery : ∀ x0 x1, Statement (.trapDelivery x0 x1) :=
  fun x0 x1 h => by cases h

theorem watchdog : ∀ x0, Statement (.watchdog x0) :=
  fun x0 h => by cases h

theorem workGroupPlace : ∀ x0, Statement (.workGroupPlace x0) :=
  fun x0 h => by cases h

theorem gangPlace : ∀ x0, Statement (.gangPlace x0) :=
  fun x0 h => by cases h

theorem headAged : ∀ x0 x1 x2, Statement (.headAged x0 x1 x2) :=
  fun x0 x1 x2 h => by cases h

theorem warpSwap : ∀ x0 x1, Statement (.warpSwap x0 x1) :=
  fun x0 x1 h => by cases h

theorem ageingPromotion : ∀ x0 x1 x2, Statement (.ageingPromotion x0 x1 x2) :=
  fun x0 x1 x2 h => by cases h

theorem workGroupRetire : ∀ x0, Statement (.workGroupRetire x0) :=
  fun x0 h => by cases h

theorem launchComplete : ∀ x0, Statement (.launchComplete x0) :=
  fun x0 h => by cases h

theorem timeSlice : ∀ x0 x1, Statement (.timeSlice x0 x1) :=
  fun x0 x1 h => by cases h

theorem gangSave : ∀ x0, Statement (.gangSave x0) :=
  fun x0 h => by cases h

theorem preemptionComplete : ∀ x0, Statement (.preemptionComplete x0) :=
  fun x0 h => by cases h

theorem preemptionDeadline : ∀ x0, Statement (.preemptionDeadline x0) :=
  fun x0 h => by cases h

theorem translationInvalidateComplete : ∀ x0, Statement (.translationInvalidateComplete x0) :=
  fun x0 h => by cases h

theorem clockStepDown : ∀ x0, Statement (.clockStepDown x0) :=
  fun x0 h => by cases h

theorem clockStepUp : ∀ x0, Statement (.clockStepUp x0) :=
  fun x0 h => by cases h

theorem varveTimeAnchor : ∀ x0, Statement (.varveTimeAnchor x0) :=
  fun x0 h => by cases h

theorem issueSample : ∀ x0 x1, Statement (.issueSample x0 x1) :=
  fun x0 x1 h => by cases h

theorem varveDropRecord : ∀ x0, Statement (.varveDropRecord x0) :=
  fun x0 h => by cases h

theorem freezeArrival : ∀ x0, Statement (.freezeArrival x0) :=
  fun x0 h => by cases h

theorem capsuleSeal : Statement (.capsuleSeal) :=
  fun h => by cases h

theorem createContext : ∀ x0, Statement (.createContext x0) :=
  fun x0 h => by cases h

theorem destroyContext : ∀ x0, Statement (.destroyContext x0) :=
  fun x0 h => by cases h

theorem load : ∀ x0, Statement (.load x0) :=
  fun x0 h => by cases h

theorem unload : ∀ x0, Statement (.unload x0) :=
  fun x0 h => by cases h

theorem hostLaunch : ∀ x0, Statement (.hostLaunch x0) :=
  fun x0 h => by cases h

theorem preEmpt : ∀ x0, Statement (.preEmpt x0) :=
  fun x0 h => by cases h

theorem resume : ∀ x0, Statement (.resume x0) :=
  fun x0 h => by cases h

theorem translationInvalidate : ∀ x0, Statement (.translationInvalidate x0) :=
  fun x0 h => by cases h

theorem instructionCacheInvalidate : ∀ x0, Statement (.instructionCacheInvalidate x0) :=
  fun x0 h => by cases h

theorem forcedReset : ∀ x0, Statement (.forcedReset x0) :=
  fun x0 h => by cases h

theorem quote : ∀ x0, Statement (.quote x0) :=
  fun x0 h => by cases h

theorem capsuleRelease : ∀ x0, Statement (.capsuleRelease x0) :=
  fun x0 h => by cases h

theorem faultReplay : ∀ x0, Statement (.faultReplay x0) :=
  fun x0 h => by cases h

theorem faultFail : ∀ x0, Statement (.faultFail x0) :=
  fun x0 h => by cases h

theorem trapResume : ∀ x0, Statement (.trapResume x0) :=
  fun x0 h => by cases h

theorem trapReset : ∀ x0, Statement (.trapReset x0) :=
  fun x0 h => by cases h

theorem lostLineClear : ∀ x0, Statement (.lostLineClear x0) :=
  fun x0 h => by cases h

theorem writePerformedAtHomeSlice : ∀ x0 x1, Statement (.writePerformedAtHomeSlice x0 x1) :=
  fun x0 x1 h => by cases h

theorem badOpcode : ∀ x0, Statement (.badOpcode x0) :=
  fun x0 h => by cases h

theorem patrolScrub : ∀ x0, Statement (.patrolScrub x0) :=
  fun x0 h => by cases h

theorem powerSample : ∀ x0 x1, Statement (.powerSample x0 x1) :=
  fun x0 x1 h => by cases h

theorem linkCrcRetransmit : ∀ x0 x1, Statement (.linkCrcRetransmit x0 x1) :=
  fun x0 x1 h => by cases h

theorem linkRetrainFailure : ∀ x0, Statement (.linkRetrainFailure x0) :=
  fun x0 h => by cases h

theorem powerGood : ∀ x0, Statement (.powerGood x0) :=
  fun x0 h => by cases h

theorem bringUpTimeout : Statement (.bringUpTimeout) :=
  fun h => by cases h

theorem powerLoss : Statement (.powerLoss) :=
  fun h => by cases h

theorem managementWarmReset : Statement (.managementWarmReset) :=
  fun h => by cases h

theorem managementColdReset : Statement (.managementColdReset) :=
  fun h => by cases h

theorem managementCapsuleRelease : Statement (.managementCapsuleRelease) :=
  fun h => by cases h

theorem managementReadCapsule : ∀ x0, Statement (.managementReadCapsule x0) :=
  fun x0 h => by cases h

theorem managementReadSummary : ∀ x0, Statement (.managementReadSummary x0) :=
  fun x0 h => by cases h

theorem managementReadStatus : Statement (.managementReadStatus) :=
  fun h => by cases h

theorem managementReadKeys : Statement (.managementReadKeys) :=
  fun h => by cases h

theorem managementReadTelemetry : Statement (.managementReadTelemetry) :=
  fun h => by cases h

theorem hostWrite : ∀ x0 x1, Statement (.hostWrite x0 x1) :=
  fun x0 x1 h => by cases h

theorem hostRead : ∀ x0 x1, Statement (.hostRead x0 x1) :=
  fun x0 x1 h => by cases h

theorem peerInboundAccess : ∀ x0 x1 x2 x3, Statement (.peerInboundAccess x0 x1 x2 x3) :=
  fun x0 x1 x2 x3 h => by cases h

theorem sessionAgree : ∀ x0 x1, Statement (.sessionAgree x0 x1) :=
  fun x0 x1 h => by cases h

theorem frameReceive : ∀ x0 x1 x2 x3, Statement (.frameReceive x0 x1 x2 x3) :=
  fun x0 x1 x2 x3 h => by cases h

theorem frameTransmit : ∀ x0 x1, Statement (.frameTransmit x0 x1) :=
  fun x0 x1 h => by cases h

theorem sessionRekey : ∀ x0, Statement (.sessionRekey x0) :=
  fun x0 h => by cases h

theorem oldKeyExpiry : ∀ x0, Statement (.oldKeyExpiry x0) :=
  fun x0 h => by cases h

theorem registerWrite : ∀ x0 x1, Statement (.registerWrite x0 x1) :=
  fun x0 x1 h => by cases h

theorem cplHeadWrite : ∀ x0 x1, Statement (.cplHeadWrite x0 x1) :=
  fun x0 x1 h => by cases h

theorem lrReadWrite : ∀ x0 x1, Statement (.lrReadWrite x0 x1) :=
  fun x0 x1 h => by cases h

theorem peerAcknowledgement : ∀ x0, Statement (.peerAcknowledgement x0) :=
  fun x0 h => by cases h

theorem liveRouteChange : ∀ x0 x1, Statement (.liveRouteChange x0 x1) :=
  fun x0 x1 h => by cases h

theorem doorbell : ∀ x0 x1, Statement (.doorbell x0 x1) :=
  fun x0 x1 h => by cases h

end Sys2Proof.Laws.RoundTrip
end

