-- ==== Sys2Proof/Laws/Values.lean ====
section
/-! SUPPORT. The values the integer tables describe, bit by bit (Tables 10.1 to 10.3, R255). -/

namespace Sys2Proof.Machine

theorem typeBits_pos (t : BitVec 4) : 0 < typeBits t := by
  unfold typeBits; split <;> decide

/-- The type of an element read unsigned. -/
theorem elemOf_lt (x w j : Nat) : elemOf x w j < 2 ^ w := by
  unfold elemOf
  exact Nat.mod_lt _ (Nat.two_pow_pos w)

/-- Reading an element as a type: the number with the top bit's weight negated when the type is signed. -/
theorem asType_natCast (t : BitVec 4) {u : Nat} (h : u < 2 ^ typeBits t) :
    asType t u = if typeSigned t && decide (2 ^ (typeBits t - 1) ≤ u) then (u : Int) - 2 ^ typeBits t else u := by
  have hm : ((u : Int) % 2 ^ typeBits t) = u := by
    rw [Int.emod_eq_of_lt (by positivity)]
    exact_mod_cast h
  unfold asType
  simp only [hm]
  have : (2 ^ (typeBits t - 1) ≤ (u : Int)) ↔ 2 ^ (typeBits t - 1) ≤ u := by
    rw [← Int.ofNat_le]; push_cast; rfl
  simp only [this]

theorem satInt_elem (t : BitVec 4) (x j : Nat) :
    asType t (satInt t (elemInt t x j)) = asType t (
      if typeSigned t then min (elemOf x (typeBits t) j : Int) (2 ^ (typeBits t - 1) - 1)
      else max (BitVec.ofNat (typeBits t) (elemOf x (typeBits t) j)).toInt 0) := by
  have hu := elemOf_lt x (typeBits t) j
  have hp := typeBits_pos t
  unfold satInt elemInt
  simp only
  generalize hU : elemOf x (typeBits t) j = u at *
  cases hs : typeSigned t with
  | true =>
    rw [asType_natCast t hu, hs, Bool.true_and]
    simp only [if_true]
    have hm : ((u : Int) % 2 ^ typeBits t) = u := by
      rw [Int.emod_eq_of_lt (by positivity)]
      exact_mod_cast hu
    have : (if decide (2 ^ (typeBits t - 1) ≤ u) = true then (u : Int) - 2 ^ typeBits t else u) % 2 ^ typeBits t = u := by
      split
      · rw [Int.sub_emod_right, hm]
      · exact hm
    rw [this, min_comm]
  | false =>
    rw [asType_natCast t hu, hs]
    simp only [Bool.false_and, Bool.false_eq_true, if_false]
    congr 1
    have hle : (2 ^ (typeBits t - 1) ≤ (u : Int)) ↔ 2 ^ (typeBits t - 1) ≤ u := by
      rw [← Int.ofNat_le]; push_cast; rfl
    have hpow : 2 ^ typeBits t = 2 * 2 ^ (typeBits t - 1) := by
      rw [← pow_succ']
      congr 1
      omega
    have hc : ((2 ^ typeBits t : Nat) : Int) = 2 ^ typeBits t := by push_cast; rfl
    rw [BitVec.toInt_eq_toNat_cond, BitVec.toNat_ofNat, Nat.mod_eq_of_lt hu]
    simp only [hle]
    split
    · next h =>
      rw [if_neg (by omega)]
      omega
    · next h =>
      rw [if_pos (by omega)]
      omega

theorem rdN_lt (w : Warp) (d : BitVec 8) (l n : Nat) : w.rdN d l n < 2 ^ (32 * n) := by
  induction n generalizing d with
  | zero => simp [Warp.rdN]
  | succ n ih =>
    rw [Warp.rdN]
    have h1 := (w.rd d l).isLt
    have h2 := ih (plusReg d 1)
    rw [show 32 * (n + 1) = 32 + 32 * n by omega, pow_add]
    nlinarith

theorem testBit_ones_sub {m b k : Nat} (h : b < 2 ^ m) : (2 ^ m - 1 - b).testBit k = (decide (k < m) && !b.testBit k) := by
  rw [Nat.sub_sub, Nat.add_comm 1 b]
  exact Nat.testBit_two_pow_sub_succ h k

theorem testBit_mul_mod (n a s k : Nat) (hk : k < n) : (a * 2 ^ s % 2 ^ n).testBit k = (decide (s ≤ k) && a.testBit (k - s)) := by
  rw [Nat.testBit_mod_two_pow, Nat.testBit_mul_two_pow]
  simp [hk]

theorem testBit_shiftElem {n kind a s k : Nat} (hn : 0 < n) (ha : a < 2 ^ n) (hk : k < n) (hkind : kind < 4) :
    (shiftElem n kind a s).testBit k = shiftedBit kind n a s k := by
  have hz : ∀ i, n ≤ i → a.testBit i = false := fun i hi =>
    Nat.testBit_eq_false_of_lt (lt_of_lt_of_le ha (Nat.pow_le_pow_right (by norm_num) hi))
  unfold shiftElem shiftedBit
  rcases kind with _ | _ | _ | _ | kind
  · simp only
    split
    · next h => simp; omega
    · exact testBit_mul_mod n a s k hk
  · simp only
    split
    · next h => simp; omega
    · rw [Nat.testBit_div_two_pow]
      by_cases hks : k + s < n
      · simp [hks]
      · simp [hks, hz (k + s) (by omega)]
  · simp only
    have hdiv (j : Nat) : (a / 2 ^ j).testBit k = a.testBit (k + j) := by rw [Nat.testBit_div_two_pow]
    by_cases ht : 2 ^ (n - 1) ≤ a
    · rw [if_pos ht]
      have htop : a.testBit (n - 1) = true := by
        rw [Nat.testBit_eq_decide_div_mod_eq]
        have : a / 2 ^ (n - 1) = 1 := by
          have hpow : 2 ^ n = 2 * 2 ^ (n - 1) := by
            rw [← pow_succ']
            congr 1
            omega
          rw [Nat.div_eq_iff (Nat.two_pow_pos _)]
          omega
        simp [this]
      generalize hm : min s n = m
      have hlow : a / 2 ^ m < 2 ^ (n - m) := by
        rw [Nat.div_lt_iff_lt_mul (Nat.two_pow_pos m), ← pow_add]
        rwa [show n - m + m = n by omega]
      have hsum : a / 2 ^ m + (2 ^ n - 2 ^ (n - m)) = 2 ^ (n - m) * (2 ^ m - 1) + a / 2 ^ m := by
        rw [Nat.mul_sub, ← pow_add, show n - m + m = n by omega, Nat.mul_one, Nat.add_comm]
      rw [hsum, Nat.testBit_two_pow_mul_add _ hlow]
      split
      · next h =>
        rw [hdiv]
        congr 1
        omega
      · next h =>
        rw [Nat.testBit_two_pow_sub_one, show min (k + s) (n - 1) = n - 1 by omega, htop]
        simp
        omega
    · rw [if_neg ht, Nat.add_zero, hdiv]
      have hz' : ∀ i, n - 1 ≤ i → a.testBit i = false := fun i hi =>
        Nat.testBit_eq_false_of_lt (lt_of_lt_of_le (by omega) (Nat.pow_le_pow_right (by norm_num) hi))
      by_cases h : k + min s n < n - 1
      · congr 1; omega
      · rw [hz' _ (by omega), hz' _ (by omega)]
  · simp only
    have hs : s % n < n := Nat.mod_lt _ hn
    generalize s % n = r at hs
    have hlow : a / 2 ^ (n - r) < 2 ^ r := by
      rw [Nat.div_lt_iff_lt_mul (Nat.two_pow_pos _), ← pow_add]
      rwa [show r + (n - r) = n by omega]
    rw [Nat.testBit_mod_two_pow, Nat.mul_comm a, Nat.testBit_two_pow_mul_add _ hlow]
    simp only [hk, decide_true, Bool.true_and]
    split
    · next h =>
      rw [Nat.testBit_div_two_pow, Nat.mod_eq_of_lt (by omega)]
    · next h =>
      rw [show k + (n - r) = (k - r) + n by omega, Nat.add_mod_right, Nat.mod_eq_of_lt (by omega)]
  · omega

/-- Element j of a packed list computed element by element. -/
theorem elemOf_packElems_map (w m : Nat) (f : Nat → Nat) {j : Nat} (h : j < m) :
    elemOf (packElems w ((List.range m).map f)) w j = f j % 2 ^ w := by
  rw [elemOf_packElems, List.getD_eq_getElem?_getD, List.getElem?_map, List.getElem?_range h]
  rfl

theorem countP_popCount (n a : Nat) : popCount n a = (List.range n).countP fun k => a.testBit k := by
  unfold popCount
  rw [List.countP_eq_length_filter]

theorem leadZeros_spec {n a : Nat} (ha : a < 2 ^ n) : leadZeros n a ≤ n ∧
    (∀ k, n - leadZeros n a ≤ k → k < n → a.testBit k = false) ∧
    (leadZeros n a < n → a.testBit (n - 1 - leadZeros n a) = true) := by
  unfold leadZeros
  split
  · next h => subst h; exact ⟨le_refl _, fun k _ _ => Nat.zero_testBit k, fun h => absurd h (lt_irrefl _)⟩
  · next h =>
    have hl : Nat.log2 a < n := (Nat.log2_lt h).2 ha
    refine ⟨by omega, fun k h1 h2 => ?_, fun _ => ?_⟩
    · apply Nat.testBit_eq_false_of_lt
      rw [← Nat.log2_lt h]
      omega
    · rw [show n - 1 - (n - 1 - Nat.log2 a) = Nat.log2 a by omega, Nat.testBit_log2 h]

theorem trailZeros_spec (n a : Nat) : trailZeros n a ≤ n ∧ (∀ k, k < trailZeros n a → a.testBit k = false) ∧
    (trailZeros n a < n → a.testBit (trailZeros n a) = true) := by
  unfold trailZeros
  rcases hf : (List.range n).find? fun i => a.testBit i with _ | x
  · rw [List.find?_eq_none] at hf
    refine ⟨le_refl _, fun k hk => ?_, fun h => absurd h (lt_irrefl _)⟩
    simpa using hf k (List.mem_range.2 hk)
  · rw [List.find?_range_eq_some] at hf
    obtain ⟨h1, h2, h3⟩ := hf
    rw [List.mem_range] at h2
    exact ⟨h2.le, fun k hk => by simpa using h3 k hk, fun _ => h1⟩

theorem testBit_reverseBits {n a k : Nat} (hk : k < n) : (reverseBits n a).testBit k = a.testBit (n - 1 - k) := by
  unfold reverseBits
  suffices h : ∀ m ≤ n, ((List.range m).foldl (fun acc i => if a.testBit i then acc + 2 ^ (n - 1 - i) else acc) 0) % 2 ^ (n - m) = 0 ∧
      ∀ k, k < n → n - 1 - k < m → ((List.range m).foldl (fun acc i => if a.testBit i then acc + 2 ^ (n - 1 - i) else acc) 0).testBit k =
        a.testBit (n - 1 - k) from (h n (le_refl n)).2 k hk (by omega)
  intro m hm
  induction m with
  | zero => exact ⟨by simp, fun k _ h => absurd h (Nat.not_lt_zero _)⟩
  | succ m ih =>
    obtain ⟨i1, i2⟩ := ih (by omega)
    rw [List.range_succ, List.foldl_append]
    simp only [List.foldl_cons, List.foldl_nil]
    generalize (List.range m).foldl (fun acc i => if a.testBit i then acc + 2 ^ (n - 1 - i) else acc) 0 = x at *
    have hp : n - m = (n - 1 - m) + 1 := by omega
    obtain ⟨y, rfl⟩ : ∃ y, x = 2 ^ (n - m) * y := ⟨x / 2 ^ (n - m), by
      rw [Nat.mul_div_cancel' (Nat.dvd_of_mod_eq_zero i1)]⟩
    have hsum : 2 ^ (n - m) * y + 2 ^ (n - 1 - m) = 2 ^ (n - 1 - m) * (2 * y + 1) := by
      rw [hp, pow_succ]; ring
    have hd : 2 ^ (n - m) * y = 2 ^ (n - 1 - m) * (2 * y) := by rw [hp, pow_succ]; ring
    refine ⟨?_, fun k hk hkm => ?_⟩
    · rw [show n - (m + 1) = n - 1 - m by omega]
      split
      · rw [hsum]; exact Nat.mul_mod_right _ _
      · rw [hd]; exact Nat.mul_mod_right _ _
    · by_cases he : n - 1 - k = m
      · have hk' : k = n - 1 - m := by omega
        subst hk'
        rw [he]
        split
        · next hb => rw [hb, hsum, Nat.testBit_two_pow_mul]; simp
        · next hb => 
          rw [hd, Nat.testBit_two_pow_mul]
          simp at hb
          simp [hb]
      · have := i2 k hk (by omega)
        split
        · rw [hsum, ← this, hd, Nat.testBit_two_pow_mul, Nat.testBit_two_pow_mul]
          by_cases hge : n - 1 - m ≤ k
          · obtain ⟨z, hz⟩ : ∃ z, k - (n - 1 - m) = z + 1 := ⟨k - (n - 1 - m) - 1, by omega⟩
            rw [hz, Nat.testBit_succ, Nat.testBit_succ]
            congr 2
            omega
          · simp [hge]
        · exact this

theorem testBit_extractField {t : BitVec 4} {a p q k : Nat} (hk : k < typeBits t) :
    let n := min q (typeBits t - p)
    (extractField t a p q).testBit k =
      if k < n then a.testBit (p + k) else typeSigned t && decide (0 < n) && a.testBit (p + n - 1) := by
  have hc : cutField (typeBits t) p q = min q (typeBits t - p) := by
    unfold cutField
    split
    · omega
    · rfl
  intro n
  have hnle : n ≤ typeBits t := by omega
  have hc : cutField (typeBits t) p q = n := hc
  clear_value n
  unfold extractField
  simp only [hc]
  change Nat.testBit (if (typeSigned t && n != 0 && decide (2 ^ (n - 1) ≤ a / 2 ^ p % 2 ^ n)) = true then _ else _) k = _
  have hx : a / 2 ^ p % 2 ^ n < 2 ^ n := Nat.mod_lt _ (Nat.two_pow_pos n)
  have hbit (i : Nat) : (a / 2 ^ p % 2 ^ n).testBit i = (decide (i < n) && a.testBit (p + i)) := by
    rw [Nat.testBit_mod_two_pow, Nat.testBit_div_two_pow, Nat.add_comm]
  by_cases hn0 : n = 0
  · simp only [hn0, Nat.pow_zero, Nat.mod_one, Nat.not_lt_zero, if_false, bne_self_eq_false, Bool.and_false,
      Bool.false_and, Bool.false_eq_true, decide_false, Nat.zero_testBit]
  have hpow : 2 ^ n = 2 * 2 ^ (n - 1) := by
    rw [← pow_succ']
    congr 1
    omega
  have htop : decide (2 ^ (n - 1) ≤ a / 2 ^ p % 2 ^ n) = a.testBit (p + n - 1) := by
    have := hbit (n - 1)
    rw [show p + (n - 1) = p + n - 1 by omega] at this
    rw [Nat.testBit_eq_decide_div_mod_eq] at this
    have hd : decide (n - 1 < n) = true := by simp; omega
    rw [hd, Bool.true_and] at this
    rw [← this, decide_eq_decide]
    rw [Nat.mod_eq_of_lt (b := 2) (by rw [Nat.div_lt_iff_lt_mul (Nat.two_pow_pos _)]; omega)]
    rw [Nat.div_eq_iff (Nat.two_pow_pos _)]
    omega
  rw [htop]
  have hn0' : (n != 0) = true := by simpa using hn0
  have hn0'' : decide (0 < n) = true := by simp; omega
  rw [hn0', hn0'']
  split
  · next h =>
    have hsum : a / 2 ^ p % 2 ^ n + (2 ^ typeBits t - 2 ^ n) = 2 ^ n * (2 ^ (typeBits t - n) - 1) + a / 2 ^ p % 2 ^ n := by
      rw [Nat.mul_sub, ← pow_add, show n + (typeBits t - n) = typeBits t by omega, Nat.mul_one, Nat.add_comm]
    rw [hsum, Nat.testBit_two_pow_mul_add _ hx, hbit]
    split
    · next h2 => simp [h2]
    · rw [h, Nat.testBit_two_pow_sub_one]
      simp
      omega
  · next h =>
    rw [hbit]
    split
    · next h2 => simp [h2]
    · next h2 => 
      simp only [Bool.not_eq_true] at h
      rw [h]
      simp [h2]

theorem testBit_insertField {n d a p q k : Nat} :
    (insertField n d a p q).testBit k =
      if p ≤ k ∧ k < p + min q (n - p) then a.testBit (k - p) else d.testBit k := by
  have hc : cutField n p q = min q (n - p) := by
    unfold cutField
    split
    · omega
    · rfl
  unfold insertField
  simp only [hc]
  generalize min q (n - p) = m
  split
  · next h => subst h; rw [if_neg (by omega)]
  · have hlow : d % 2 ^ p < 2 ^ p := Nat.mod_lt _ (Nat.two_pow_pos p)
    have hmid : a % 2 ^ m < 2 ^ m := Nat.mod_lt _ (Nat.two_pow_pos m)
    have hd : d = 2 ^ p * (2 ^ m * (d / 2 ^ (p + m)) + d / 2 ^ p % 2 ^ m) + d % 2 ^ p := by
      rw [pow_add, ← Nat.div_div_eq_div_mul, Nat.div_add_mod, Nat.div_add_mod]
    have hs : d - d / 2 ^ p % 2 ^ m * 2 ^ p + a % 2 ^ m * 2 ^ p =
        2 ^ p * (2 ^ m * (d / 2 ^ (p + m)) + a % 2 ^ m) + d % 2 ^ p := by
      have : d - d / 2 ^ p % 2 ^ m * 2 ^ p = 2 ^ p * (2 ^ m * (d / 2 ^ (p + m))) + d % 2 ^ p := by
        conv_lhs => rw [hd]
        rw [← hd]
        have h2 : d / 2 ^ p % 2 ^ m * 2 ^ p = 2 ^ p * (d / 2 ^ p % 2 ^ m) := Nat.mul_comm _ _
        have h3 : d = 2 ^ p * (2 ^ m * (d / 2 ^ (p + m))) + 2 ^ p * (d / 2 ^ p % 2 ^ m) + d % 2 ^ p := by
          rw [← Nat.mul_add]; exact hd
        omega
      rw [this, Nat.mul_add]
      ring
    rw [hs, Nat.testBit_two_pow_mul_add _ hlow]
    by_cases hk : k < p
    · rw [if_pos hk, if_neg (by omega), Nat.testBit_mod_two_pow]
      simp [hk]
    · rw [if_neg hk, Nat.testBit_two_pow_mul_add _ hmid]
      by_cases hk2 : k - p < m
      · rw [if_pos hk2, if_pos (by omega), Nat.testBit_mod_two_pow]
        simp [hk2]
      · rw [if_neg hk2, if_neg (by omega), Nat.testBit_div_two_pow]
        congr 1
        omega

end Sys2Proof.Machine
end

