-- ==== Sys2Proof/Tests/Slice0.lean ====
section
/-! SUPPORT. Small tests: ill-formed terms are refused, words of the manual decode to their instructions, single steps
give the manual's results, and every premise of a statement is met somewhere. -/

set_option Elab.async false

namespace Sys2Proof.Tests

open Sys2Proof Sys2Proof.Machine

/-! ### Words -/

def all : Guard := ⟨false, false, 0⟩
def r3 : FmtR := ⟨all, 8, 4, 12, 16, 0, 0, 0, 0, 0⟩
def r2 : FmtR := { r3 with c := 0 }
def r1 : FmtR := { r2 with b := 0 }
def r0 : FmtR := { r1 with a := 0 }
def i1 : FmtI := ⟨all, 8, 4, 0, false, false, false, 0, 0, none⟩
def i0 : FmtI := { i1 with a := 0 }
def m0 : FmtM := ⟨all, 8, 4, 0, false, 0, 0, 4, 0, 0, 0, 0, false, 0, none⟩
def c0 : FmtC := ⟨all, 0, 0, 0, 0⟩
def x0 : FmtX := ⟨all, 0, 0, 0, 0, 0, false, 0, false, 0, 0⟩
def s0 : FmtS := ⟨all, 0, 0, 0, 0, 0, 0⟩

/-! R226, R240: what no words hold is not well formed. -/

theorem test_switch_without_its_case_word : (Instr.switch ⟨{ c0 with site := 3 }, [0]⟩).wellFormed = false := by decide
theorem test_assigned_opcode_is_no_unassigned_one : (Instr.unassignedOpcode 0x0100000000000000).wellFormed = false := by
  decide
theorem test_device_step_has_no_words : (Instr.storeQueueDrain 0 0).wellFormed = false := by decide

/-! Words that the manual writes out, or that follow Tables 9.3 to 9.11 bit by bit. -/

def reads (ws : List Dword) (i : Instr) : Bool :=
  match decodeWords ws with
  | .ok (k, []) => k == i && encode i == ws
  | _ => false

theorem test_decode_integer : reads [0x1C0004080C000000] (.iadds { r2 with d := 1, a := 2, b := 3 }) = true := by decide
theorem test_decode_exchange : reads [0x6F00206384000000] (.bfly { r2 with a := 24, b := 0xE1 }) = true := by decide
theorem test_decode_random : reads [0x6103B393A0000000] (.rand { r2 with d := 0xEC, a := 0xE4, b := 0xE8 }) = true := by
  decide
theorem test_decode_float : reads [0x4000382C30024000] (.fadd { r2 with d := 14, a := 11, b := 12, f := 9 }) = true := by
  decide
theorem test_decode_scaled_float :
    reads [0x40000C0408004807] (.fadd { r2 with d := 3, a := 1, b := 2, f := 1, mod := 8, sc := 7 }) = true := by decide
theorem test_decode_convert : reads [0x5500201C00024000] (.fcvt { r1 with a := 7, f := 9 }) = true := by decide
theorem test_decode_slot : reads [0x5E0003B000024000] (.fmtset { r0 with d := 0, a := 0xEC, f := 9 }) = true := by decide
theorem test_decode_branch : reads [0x0288000000140000] (.bra { c0 with guard := ⟨true, false, 2⟩, offset := 5 }) = true := by
  decide
theorem test_decode_rejoin : reads [0x0800000000004000] (.rwait { c0 with mask := 1 }) = true := by decide
theorem test_decode_exit : reads [0x0B00000000000002] (.exit { c0 with low := 2 }) = true := by decide
theorem test_decode_trap : reads [0x0E00000000000005] (.trap { c0 with low := 5 }) = true := by decide
theorem test_decode_fence : reads [0x8600000000000680]
    (.fence { m0 with data := 0, base := 0, size := 0, order := 3, scope := 1 }) = true := by decide
theorem test_decode_store : reads [0x8103B3E000040008, 0x1000]
    (.st { m0 with data := 0xEC, base := 0xF8, ext := some 0x1000 }) = true := by decide
theorem test_decode_copy : reads [0x90000B900E000000, 0x01400706]
    (.cpa ⟨{ m0 with data := 2, base := 0xE4, index := 3, indexEnable := true, scale := 0, size := 0 }, 0x01400706⟩) =
      true := by decide
theorem test_decode_copy_wait : reads [0x9100000000001400] (.cpwait { c0 with site := 5 }) = true := by decide
theorem test_decode_count_set : reads [0xA600000000A04000] (.mkset { x0 with useK := true, k := 2, low := 0x4000 }) = true := by
  decide
theorem test_decode_tile_store :
    reads [0xA8004EA0C0076603] (.mst { x0 with z := 4, base := 0xEA, f := 3, low := 0x76603 }) = true := by decide
theorem test_decode_matrix_wait : reads [0xAC00000000000400] (.mwait { x0 with low := 0x400 }) = true := by decide
theorem test_decode_trellis : reads [0xB20008180004C000] (.trdec { r0 with d := 2, a := 6, c := 1, f := 3 }) = true := by
  decide
theorem test_decode_tape_open :
    reads [0xC00003A00003ABB1] (.topen { s0 with a := 0xE8, b := 0xEA, c := 0xEC, o := 1 }) = true := by decide
theorem test_decode_tape_record : reads [0xC1000020000C0001] (.trec { s0 with a := 8, sel := 3, o := 1 }) = true := by decide
theorem test_decode_tape_get : reads [0xC6002000000C0001] (.tget { s0 with d := 8, sel := 3, o := 1 }) = true := by decide
theorem test_decode_special_read : reads [0xD003880000040000] (.sread { s0 with d := 0xE2, sel := 1 }) = true := by decide
theorem test_decode_mark : reads [0xD200000C01080000] (.evmark { s0 with a := 3, sel := 0x42 }) = true := by decide
theorem test_decode_capsule_read :
    reads [0xD40393A00003ABAC] (.caprd { s0 with d := 0xE4, a := 0xE8, b := 0xEA, c := 0xEB }) = true := by decide
theorem test_decode_return : reads [0xD500000000000000] (.eret s0) = true := by decide
theorem test_decode_energy : reads [0xD700000000080000] (.energy { s0 with sel := 2 }) = true := by decide

theorem test_table_word : decodeTableWord 64 0x0B00000000000002 = some (.exit { c0 with low := 2 }) := by decide

/-! ### A small module -/

/-- The page at 131,072: readable, writable, with A and D set. -/
def dataPage : TlbEntry := ⟨63, 2, 1, 131072, 0x6D, 0, [2], [2]⟩

/-- One warp of 32 lanes of a privileged context on core 0, with 512 KiB of scratchpad, whose split executes. -/
def base : State :=
  let s := State.reset.withFetchWord 64 0
  let s := { s with agenda := [], powered := true, ready := true, cur := some ⟨0, 0, 0, none⟩ }
  let s := s.modCore 0 fun k => { k with tlb := dataPage :: k.tlb }
  s.modWg 0 fun g => { g with desc := { g.desc with pool := 0x2002 } }

/-- The module with registers of the warp set; register n of the scalar file is 32768 + n (R229). -/
def withRegs (s : State) (xs : List (RegKey × Word)) : State :=
  s.modWarp 0 0 fun w => { w with regs := w.regs.setMany (0 : Word) xs }

/-- The module with s4 and s5 at the data page. -/
def near : State := withRegs base [(32772, 131072)]

/-- The state after an instruction, or a step of the device. -/
def run (i : Instr) (s : State) : State :=
  match exec i s with
  | .next t => t
  | _ => s

def runAll (is : List Instr) (s : State) : State := is.foldl (fun s i => run i s) s

def warp (s : State) : Option Warp := s.warp? 0 0

/-- Register n of lane l, or scalar register n with `d` 224 + n. -/
def reg (s : State) (d : BitVec 8) (l : Nat) : Option Word := (warp s).map fun w => w.rd d l

def issuesB (i : Instr) (s : State) : Bool :=
  match ctxOf s with
  | none => false
  | some c =>
    causeOf c.env i == none &&
    (!disallowed i || (lanesOf (c.execs i)).all fun l => (c.w.txns.look l).isNone) &&
    ((c.operands i).all fun o => o.late || emptyLanes c.w c.sp.lanes o == 0) &&
    (!drains i || !anyEmpty c.w c.sp.lanes) &&
    badSlot c.slots (slotsOf i) == none && (!wide c.slots i || c.emul.isSome) && c.damaged i == []

theorem issues_of {i : Instr} {s : State} {c : Ctx} (hc : ctxOf s = some c) (h : issuesB i s = true) : Issues i s c := by
  unfold issuesB at h
  simp only [hc, Bool.and_eq_true, Bool.or_eq_true, Bool.not_eq_true', beq_iff_eq, List.all_eq_true] at h
  obtain ⟨⟨⟨⟨⟨⟨h1, h2⟩, h3⟩, h4⟩, h5⟩, h6⟩, h7⟩ := h
  refine ⟨hc, h1, fun hd l hl => ?_, fun o ho hl => ?_, fun hd => ?_, h5, fun hw => ?_, h7⟩
  · rcases h2 with h2 | h2
    · rw [hd] at h2; cases h2
    · exact Option.isNone_iff_eq_none.1 (h2 l hl)
  · rcases h3 o ho with h | h
    · rw [hl] at h; cases h
    · exact h
  · rcases h4 with h | h
    · rw [hd] at h; cases h
    · exact h
  · rcases h6 with h | h
    · rw [hw] at h; cases h
    · exact h

/-- An instruction that issues, with a further condition on its context. -/
theorem meets {i : Instr} {s : State} {P : Ctx → Prop} [DecidablePred P]
    (h : (issuesB i s && (ctxOf s).any fun c => decide (P c)) = true) : ∃ c, Issues i s c ∧ P c := by
  rw [Bool.and_eq_true] at h
  cases hc : ctxOf s with
  | none => rw [hc] at h; exact absurd h.2 (by simp)
  | some c =>
    rw [hc] at h
    exact ⟨c, issues_of hc h.1, by simpa using h.2⟩

/-- Something that is there, with a condition. -/
theorem there {α : Type} {o : Option α} {P : α → Prop} [DecidablePred P] (h : (o.any fun x => decide (P x)) = true) :
    ∃ x, o = some x ∧ P x := by
  cases o with
  | none => exact absurd h (by simp)
  | some x => exact ⟨x, rfl, by simpa using h⟩

/-- Nothing holds an access to targets up, and no line of them is damaged. -/
def unclaimed (c : Ctx) (ts : List Target) : Bool :=
  !c.s.claimed c.uid c.wi c.s.order (c.sp.arrived.map (·.1)) (targetLocs ts) &&
    ts.all fun t => t.addrs.all fun a => !c.s.badAddr a

theorem unclaimed_of {c : Ctx} {ts : List Target} (h : unclaimed c ts = true) : c.Unclaimed ts := by
  simpa [unclaimed, Ctx.Unclaimed] using h

/-- Instructions of every family (R241). -/
def samples1 : List Instr :=
  [ .iadd { r2 with f := 4 }, .isub { r2 with f := 4 }, .imul { r2 with f := 4 }, .imulh { r2 with f := 4 },
    .idiv { r2 with f := 4 }, .irem { r2 with f := 4 }, .imin { r2 with f := 4 }, .imax { r2 with f := 4 },
    .iadds { r2 with f := 4 }, .isubs { r2 with f := 4 }, .and { r2 with f := 4 }, .or { r2 with f := 4 },
    .xor { r2 with f := 4 }, .andn { r2 with f := 4 }, .shl { r2 with f := 4 }, .shr { r2 with f := 4 },
    .sar { r2 with f := 4 }, .rol { r2 with f := 4 }, .imad { r3 with f := 4 }, .iabs { r1 with f := 4 },
    .ineg { r1 with f := 4 }, .isat { r1 with f := 4 }, .not { r1 with f := 4 }, .popc { r1 with f := 4 },
    .clz { r1 with f := 4 }, .ctz { r1 with f := 4 }, .brev { r1 with f := 4 }, .mov { r1 with f := 4 },
    .icmp { r2 with f := 4, d := 0x31 }, .qadd r2, .bfx { r3 with f := 4 }, .bfi { r3 with f := 4 },
    .lea { r2 with f := 4 }, .iaddi { i1 with f := 4, imm := 5 }, .imuli { i1 with f := 4, imm := 5 },
    .andi { i1 with f := 4, imm := 5 }, .ori { i1 with f := 4, imm := 5 }, .xori { i1 with f := 4, imm := 5 },
    .shli { i1 with f := 4, imm := 5 }, .shri { i1 with f := 4, imm := 5 }, .sari { i1 with f := 4, imm := 5 },
    .imadi { i1 with f := 4, imm := 5 }, .icmpi { i1 with f := 4, d := 0x21, imm := 5 }, .movi { i0 with imm := 7 },
    .movw { i0 with imm := 7 }, .sel { r2 with c := 1 } ]

/-- Instructions of every family (R241). -/
def samples2 : List Instr :=
  [ .movs { r2 with a := 0xE8 }, .prmt { r3 with f := 8 }, .fadd r2, .fsub r2, .fmul r2, .fmin r2, .fmax r2,
    .fminn r2, .fmaxn r2, .fdiv r2, .fscale r2, .ffma r3, .fcmp { r2 with d := 0x71 }, .fclass r1, .fsqrt r1,
    .frcp r1, .frsq r1, .fexp2 r1, .flog2 r1, .fsin r1, .fcos r1, .ftanh r1, .frnd r1, .fcvt { r1 with c := 3 },
    .ftoi { r1 with c := 4 }, .itof { r1 with c := 4 }, .faddi { i1 with imm := 0x3F8000 },
    .fmuli { i1 with imm := 0x3F8000 }, .ffmai { i1 with imm := 0x3F8000 }, .exte r2, .inse r2,
    .srseed { r1 with d := 0, a := 0xE4 }, .fmtset { r1 with d := 0, a := 0xE4, f := 9 },
    .fmtget { r0 with d := 0xE4, f := 9 }, .fmtchk r1, .rand r2, .wrng r0, .mand { r2 with d := 1, a := 2, b := 3 },
    .mor { r2 with d := 1, a := 2, b := 3 }, .mxor { r2 with d := 1, a := 2, b := 3 },
    .mnot { r1 with d := 1, a := 2 }, .mpopc { r1 with a := 2 }, .mfirst { r1 with a := 2 },
    .ballot { r1 with d := 1 }, .mtos { r1 with a := 2 }, .stom { r1 with d := 1, a := 0xE4 } ]

/-- Instructions of every family (R241). -/
def samples3 : List Instr :=
  [ .vote { r1 with d := 1, c := 1 }, .shfl r2, .shflb r3, .bfly r2, .qswp r2, .qbcst r2, .wred { r1 with f := 4 },
    .wscan { r1 with f := 4, c := 16 }, .nop c0, .bra { c0 with offset := 5 },
    .brx { c0 with offset := 5, low := 8 }, .call { c0 with offset := 5, low := 8 }, .ret { c0 with low := 8 },
    .switch ⟨{ c0 with offset := 3, site := 1, low := 8 }, [0x1007]⟩, .rset { c0 with mask := 3 },
    .rwait { c0 with mask := 3 }, .rleave { c0 with mask := 3 }, .yield c0, .exit { c0 with low := 2 }, .region c0,
    .launch { s0 with d := 8, a := 4, sel := 5 }, .trap { c0 with low := 5 }, .bkpt { c0 with low := 5 }, .ld m0,
    .st m0, .ldf { m0 with size := 7, f := 3, count := 2 }, .stf { m0 with size := 7, f := 3, count := 2 },
    .pref { m0 with data := 0 }, .ipref { m0 with data := 0 },
    .fence { m0 with data := 0, base := 0, size := 0, order := 3, scope := 1 }, .atom ⟨{ m0 with f := 4 }, 12⟩,
    .red ⟨{ m0 with f := 4, data := 0 }, 12⟩, .cas ⟨{ m0 with f := 4 }, 0x0D0C⟩, .txb { c0 with offset := 5 },
    .txe c0, .txa { c0 with low := 3 }, .txst r0, .amxadv { m0 with data := 0 }, .sclget m0,
    .cpa ⟨{ m0 with size := 0 }, 0x80000C⟩, .cpwait { c0 with site := 1, low := 2 },
    .cpcnt { s0 with d := 8, sel := 1 }, .kick { s0 with d := 0xE4, a := 0xE8, b := 0xE9, c := 0xEA, o := 1 },
    .binit { r2 with d := 0 }, .barr r3, .bwait { r2 with d := 0 } ]

/-- Instructions of every family (R241). -/
def samples4 : List Instr :=
  [ .btest r2, .bar c0, .gsync c0, .monw { r3 with a := 0xE4, b := 0xE6, c := 0xE7 },
    .monx { r2 with a := 0xE4, b := 0xE6 }, .mldb { x0 with base := 0xE4, low := 0x72800, f := 3 },
    .mldbs { x0 with base := 0xE4, low := 0x72800, f := 3, sparse := true }, .mldt { x0 with low := 0xE500, f := 3 },
    .mma { x0 with base := 0xE4, z := 1, f := 3 }, .mmas { x0 with base := 0xE4, z := 1, f := 3, sparse := true },
    .msig { x0 with bank := 1 }, .mkset { x0 with useK := true, k := 2, low := 0x80 <<< 7 },
    .mzero { x0 with z := 1 }, .mst { x0 with z := 1, base := 0xE4, f := 3 },
    .mrd { x0 with z := 1, low := (8 <<< 11) + (4 <<< 3) }, .mwr { x0 with z := 1, low := (8 <<< 11) + (4 <<< 3) },
    .mscl { x0 with base := 0xE4 }, .mwait { x0 with low := 1 <<< 10 }, .mstat { x0 with low := 8 <<< 11 },
    .wset { s0 with a := 0xE4, sel := 1 }, .wget { s0 with d := 8, sel := 1 }, .trdec { r1 with c := 1, f := 3 },
    .trdecn { s0 with a := 0xE4, b := 0xE5, c := 0xE6, sel := 0x19 },
    .trenc { s0 with a := 0xE4, b := 0xE6, c := 0xE7, sel := 1 }, .trwait c0,
    .topen { s0 with a := 0xE4, b := 0xE6, c := 0xE8 }, .trec { s0 with a := 8, sel := 3, o := 1 },
    .tbr { s0 with a := 8, sel := 3 }, .tmark { s0 with a := 0xE4, sel := 3 }, .tclose s0, .trev s0,
    .tget { s0 with d := 8, sel := 3, o := 1 }, .tbrp { s0 with d := 8, sel := 3 },
    .tstat { s0 with d := 8, sel := 2 }, .tgrant { s0 with a := 0xE4, b := 0xE6 },
    .sread { s0 with d := 8, sel := 0 }, .swrite { s0 with a := 8, sel := 0x302 },
    .evmark { s0 with a := 8, sel := 0x42 }, .sleep { s0 with a := 8 },
    .caprd { s0 with d := 0xE4, a := 0xE6, b := 0xE8, c := 0xE9 }, .trapr { s0 with d := 8, sel := 2 },
    .energy { s0 with sel := 2 }, .perfsel { s0 with a := 8, sel := 1 }, .perfrd { s0 with d := 8, sel := 1 } ]


theorem test_samples1_issue : ∀ i ∈ samples1, issuesB i base = true := by decide +kernel
theorem test_samples2_issue : ∀ i ∈ samples2, issuesB i base = true := by decide +kernel
theorem test_samples3_issue : ∀ i ∈ samples3, issuesB i base = true := by decide +kernel
theorem test_samples4_issue : ∀ i ∈ samples4, issuesB i base = true := by decide +kernel

/-! ### Results the manual writes out -/

/-- File 10, Packed example. -/
def packedRegs : State := withRegs base [(2, 0x7F8001FE), (3, 0x0180FF03)]
theorem test_iadds_packed : reg (run (.iadds { r2 with d := 1, a := 2, b := 3 }) packedRegs) 1 0 = some 0x7F800001 := by
  decide +kernel
theorem test_iadd_packed : reg (run (.iadd { r2 with d := 1, a := 2, b := 3 }) packedRegs) 1 0 = some 0x80000001 := by
  decide +kernel
/-- R251's example. -/
theorem test_idiv_packed :
    reg (runAll [.idiv { r2 with d := 1, a := 2, b := 3, f := 1 }, .producerComplete 0 0 0]
      (withRegs base [(2, 0x0A00FF07), (3, 0x03000002)])) 1 0 = some 0x03FFFF03 := by decide +kernel
/-- R251: −7 by 2. -/
theorem test_irem_sign :
    reg (runAll [.irem { r2 with d := 1, a := 2, b := 3, f := 4 }, .producerComplete 0 0 0]
      (withRegs base [(2, 0xFFFFFFF9), (3, 2)])) 1 0 = some 0xFFFFFFFF := by decide +kernel
/-- R258's example of `movs`. -/
theorem test_movs : reg (run (.movs { r2 with d := 4, a := 0xE8, b := 2 })
    (withRegs base [(768 + 2, 5), (32768 + 13, 77)])) 4 3 = some 77 := by decide +kernel
/-- Table 10.9, first row, lanes 0 and 1. -/
def exchanged : State := run (.bfly { r2 with d := 0, a := 1, b := 0xE1 })
  (withRegs base [(1, 1), (256, 10), (257, 11), (32769, 1)])
theorem test_bfly : (reg exchanged 0 0, reg exchanged 1 0, reg exchanged 0 1, reg exchanged 1 1) =
    (some 0, some 10, some 1, some 11) := by decide +kernel
/-- R283's examples. -/
theorem test_fcvt : reg (run (.fcvt { r1 with d := 5, a := 4, f := 3 }) (withRegs base [(4, 0x40490FDB)])) 5 0 =
    some 0x45 := by decide +kernel
theorem test_itof : reg (run (.itof { r1 with d := 6, a := 7, f := 3, c := 0 }) (withRegs base [(7, 0x80FF7F03)])) 6 0 =
    some 0xF0B87044 := by decide +kernel
/-- File 03, Worked formats. -/
theorem test_encode_ties : let r : Dword := 0x00010000080030C2
    (encodeVal r (.fin ⟨22, 1⟩) 0, encodeVal r (.fin ⟨26, 1⟩) 0, encodeVal r (.fin ⟨27, 1⟩) 0,
      encodeVal r (.fin ⟨-1, 2⟩) 0, encodeVal r (.fin ⟨1, 25⟩) 0, encodeVal r (.fin ⟨3, 100⟩) 0) =
        (0x1E, 0x1E, 0x1F, 0x1F, 1, 0) := by decide +kernel
theorem test_encode_overflow : let r : Dword := 0x000100000500F545
    (encodeVal r (.fin ⟨70000, 1⟩) 0, encodeVal r (.fin ⟨1, 131072⟩) 0, encodeVal r (.fin ⟨-25, 8⟩) 0) =
      (0x3E0, 4, 0x612) := by decide +kernel
/-- File 03: a stochastic rounding of 0.1 under preset f3 goes up below 204. -/
theorem test_encode_stochastic : let r : Dword := 0x0001000148007503
    (encodeVal r (.fin ⟨1, 10⟩) 203, encodeVal r (.fin ⟨1, 10⟩) 204) = (0x1D, 0x1C) := by decide +kernel
/-- Table 4.3. -/
theorem test_computed_values : (computedValue 53, computedValue 22) = (-143, 8) := by decide
/-- Table 4.8. -/
theorem test_record_bytes : recordBytes 0 2 0 false (bytesOfNat 4 0xF ++ packBytes (bytesOfNat 4 0x3F800000 ++
    bytesOfNat 4 0x40000000 ++ bytesOfNat 4 0x3F800000 ++ bytesOfNat 4 0)) =
      [0x14, 0, 0x20, 0, 0xF, 0, 0, 0, 0x8C, 0x80, 0x3F, 0x40, 0x0C, 0x80, 0x3F, 0, 0x14, 0, 0x20, 0] := by decide +kernel
/-- R336's example: a clamp at the first block, and the wrap of f7. -/
def product (record : Dword) : Nat × Bool :=
  (⟨record, 0, false, false, none, 1, 0⟩ : Mul).int (516128 :: List.replicate 31 0 ++ [-516128]) [[(0, 1)], [(0, 1)]]
    2147000000
theorem test_integer_product_clamps : product 0x0001000400000407 = (2146967519, true) := by decide +kernel
theorem test_integer_product_wraps : product 0x000100000000041F = (2147000000, false) := by decide +kernel

/-- Table 1.5: the walk of a store, which sets D. -/
def walked : Except Miss Phys × State :=
  let s := { base with mem := ((base.mem.setValue 0x4000000018 8 0x0000004000010003).setValue 0x4000010850 8
    0x0000004000020003).setValue 0x40000202A8 8 0x000001200035002D }
  (s.modCtx 63 fun k => { k with root := 0x4000000000 }).translate 0 63 0x0C2140557ABC .write false
theorem test_walk_address : (match walked.1 with | .ok p => p.pa | .error _ => 0) = 0x012000357ABC := by decide +kernel
theorem test_walk_sets_dirty : walked.2.mem.value 0x40000202A8 8 = 0x000001200035006D := by decide +kernel
theorem test_walk_home : homeDie 0x012000357ABC = 9 := by decide

/-- R301, R126: a store of the highest lane stands, and a load of the warp reads it back from its queue. -/
theorem test_store_then_load :
    reg (runAll [.st { m0 with base := 0xE4 }, .ld { m0 with data := 9, base := 0xE4 }, .producerComplete 0 0 0]
      (withRegs near [(8, 1), (31 * 256 + 8, 42)])) 9 31 = some 42 := by decide +kernel
/-- R392, R398, R399: a software trap without a handler leaves the warp held by firmware. -/
theorem test_trap_held : (warp (run (.trap { c0 with low := 5 }) base)).map (fun w => (w.fw.isSome, w.trapSeq)) =
    some (true, 1) := by decide +kernel
/-- R241, Table 19.3: an unassigned opcode takes a trap of kind 2 with cause 0. -/
theorem test_unassigned_trap : ((warp (run (.unassignedOpcode 0) base)).bind (·.fw)).map
    (fun h => let x := (h.record.getD 0 0).toNat; (x % 32, x / 256 % 256)) = some (2, 0) := by decide +kernel
/-- R264: `exit` ends every lane and names the successor. -/
theorem test_exit : let t := run (.exit { c0 with low := 2 }) base
    ((warp t).map (·.live), (t.wgs.look 0).map (·.succ)) = (some 0, some 2) := by decide +kernel


/-! ### Premises that are met: the samples above issue; these meet the further premises of each statement -/

theorem test_premises_moves : ∃ c, Issues (.movs { r2 with a := 0xE8 }) base c ∧
    ∀ l ∈ unitsOf 8 (c.execs (.movs { r2 with a := 0xE8 })),
      c.w.isEmpty (32768 + ((0xE8 : BitVec 8).toNat - 0xE0 + (c.w.rd 12 l).toNat) % 32) = false ∧
      c.w.isDamaged (32768 + ((0xE8 : BitVec 8).toNat - 0xE0 + (c.w.rd 12 l).toNat) % 32) = false :=
  meets (by decide +kernel)

theorem test_premises_exchanges : ∃ c, Issues (.shflb r3) base c ∧
    ∀ l ∈ unitsOf 8 (c.execs (.shflb r3)), c.w.isEmpty (keyOf 4 l) = false ∧ c.w.isDamaged (keyOf 4 l) = false :=
  meets (by decide +kernel)
theorem test_premises_bfly : ∃ c, Issues (.bfly r2) base c ∧
    (∀ l ∈ unitsOf 8 (c.execs (.bfly r2)), c.w.isEmpty (keyOf 8 l) = false ∧ c.w.isEmpty (keyOf 4 l) = false) ∧
    c.w.damaged = [] ∧
    emptyLanes c.w c.sp.lanes (dstOp 8 1) = 0 ∧ emptyLanes c.w c.sp.lanes (dstOp 4 1) = 0 := meets (by decide +kernel)

theorem test_premises_reductions : ∃ c, Issues (.wred { r1 with f := 4, c := 5 }) base c ∧ c.width ∈ [32, 64, 128] ∧
    ∀ l ∈ lanesOf c.sp.lanes, l < c.width := meets (by decide +kernel)
theorem test_premises_scan : ∃ c, Issues (.wscan { r1 with f := 4, c := 16 }) base c ∧ c.width ∈ [32, 64, 128] ∧
    ∀ l ∈ lanesOf c.sp.lanes, l < c.width := meets (by decide +kernel)
theorem test_premises_float_reduction : ∃ c, Issues (.wred { r1 with c := 6 }) base c ∧ Rec.round (c.record 0) ≠ 5 :=
  meets (by decide +kernel)
theorem test_premises_float_scan : ∃ c, Issues (.wscan { r1 with c := 24 }) base c ∧ Rec.round (c.record 0) ≠ 5 :=
  meets (by decide +kernel)

/-- The record f3 in the pair s4, s5. -/
def recorded : State := withRegs base [(32772, 0x08007503), (32773, 0x00010000)]
theorem test_premises_fmtset : ∃ c, Issues (.fmtset { r0 with d := 0, a := 0xE4, f := 9 }) recorded c ∧
    Rec.check (BitVec.ofNat 64 (c.w.rd64 0xE4 0)) = 0 := meets (by decide +kernel)
theorem test_premises_fmtset_malformed : ∃ c, Issues (.fmtset { r0 with d := 0, a := 0xE4, f := 9 }) base c ∧
    Rec.check (BitVec.ofNat 64 (c.w.rd64 0xE4 0)) ≠ 0 := meets (by decide +kernel)

theorem test_premises_brx : ∃ c, Issues (.brx { c0 with offset := 5, low := 8 }) base c ∧ c.sp.pc % 8 = 0 :=
  meets (by decide +kernel)
/-- Targets at the last multiple of 8 below 2^57, and just past it. -/
theorem test_premises_ret : ∃ c, Issues (.ret { c0 with low := 4 }) (withRegs base ((List.range 32).flatMap fun l =>
      [(l * 256 + 4, 0xFFFFFFF8), (l * 256 + 5, 0x01FFFFFF)])) c ∧
    ∀ l ∈ lanesOf (c.execs (.ret { c0 with low := 4 })), c.w.rd64 4 l % 8 = 0 ∧ c.w.rd64 4 l < 2 ^ 57 :=
  meets (by decide +kernel)
theorem test_premises_ret_bad : ∃ c, Issues (.ret { c0 with low := 4 })
    (withRegs base [(31 * 256 + 5, 0x02000000)]) c ∧ ∃ l ∈ lanesOf (c.execs (.ret { c0 with low := 4 })),
      c.w.rd64 4 l % 8 ≠ 0 ∨ 2 ^ 57 ≤ c.w.rd64 4 l := meets (by decide +kernel)
/-- `switch` with eight cases and an odd count. -/
theorem test_premises_switch : ∃ c, Issues (.switch ⟨{ c0 with offset := 3, site := 7, low := 8 },
      [0x0000000400000801, 0x0000000500000902, 0x0000000600000A03, 0x0B07]⟩) base c ∧
    (Instr.switch ⟨{ c0 with offset := 3, site := 7, low := 8 },
      [0x0000000400000801, 0x0000000500000902, 0x0000000600000A03, 0x0B07]⟩).wellFormed = true := meets (by decide +kernel)
theorem test_premises_exit_none : ∃ c, Issues (.exit { c0 with guard := ⟨true, false, 2⟩ }) base c ∧
    c.execs (.exit { c0 with guard := ⟨true, false, 2⟩ }) = 0 := meets (by decide +kernel)
theorem test_premises_exit : ∃ c, Issues (.exit c0) base c ∧ c.execs (.exit c0) ≠ 0 := meets (by decide +kernel)

theorem test_premises_rwait_outside : ∃ c, Issues (.rwait { c0 with mask := 3 }) base c ∧
    c.sp.lanes &&& c.w.mask 3 = 0 := meets (by decide +kernel)
def maskSet : State := base.modWarp 0 0 fun w => { w with masks := w.masks.set 0 3 0x0000FFFF }
theorem test_premises_rwait_inside : ∃ c, Issues (.rwait { c0 with mask := 3 }) maskSet c ∧
    c.sp.lanes &&& c.w.mask 3 ≠ 0 ∧ c.sp.lanes &&& ~~~(c.sp.lanes &&& c.w.mask 3) ≠ 0 := meets (by decide +kernel)
/-- Every live lane of mask 3 waits at one `rwait`. -/
def allWaiting : State := base.modWarp 0 0 fun w =>
  { w with masks := w.masks.set 0 3 w.live, splits := w.splits.map fun sp => { sp with wait := some (.rwait 3) } }
theorem test_premises_merge : ∃ w, warp allWaiting = some w ∧ w.handler = none ∧
    (∀ sp ∈ w.splits, sp.wait = some (.rwait 3) → sp.lanes &&& ~~~(w.mask 3) = 0 ∧ sp.pc = 65536) ∧
    w.mask 3 &&& w.live ≠ 0 ∧ ∀ l ∈ lanesOf (w.mask 3 &&& w.live), ∃ sp ∈ w.splits, sp.lanes.getLsbD l = true ∧
      sp.wait = some (.rwait 3) := there (by decide +kernel)


/-- Guarded by mask 2, which no lane is in. -/
def none2 : Guard := ⟨true, false, 2⟩
/-- Guarded by the complement of mask 2. -/
def some2 : Guard := ⟨true, true, 2⟩

theorem test_premises_illegal : isInstruction (.iadd { r2 with f := 9 }) = true ∧ ∃ c, ctxOf base = some c ∧
    causeOf c.env (.iadd { r2 with f := 9 }) = some 1 := ⟨by decide, there (by decide +kernel)⟩
theorem test_premises_privilege : ∃ c, ctxOf base = some c ∧ { c.env with priv := false }.priv = false ∧
    causeOf { { c.env with priv := false } with priv := true } (.caprd { s0 with d := 0xE4, a := 0xE6, b := 0xE8, c := 0xE9 }) =
      none := there (by decide +kernel)
theorem test_premises_feature : ∃ c, ctxOf base = some c ∧ useOf { c.env with feat1 := 0x3E } (.mmas x0) ≠ none ∧
    featureOf (.mmas x0) = some 0 ∧ (0x3E : Word).getLsbD 0 = false := there (by decide +kernel)

/-- Register v4 of lane 31 is empty. -/
def emptied : State := base.modWarp 0 0 fun w => { w with empty := [(31 * 256 + 4, true)] }
theorem test_premises_operand_wait : ∃ c, ctxOf emptied = some c ∧ causeOf c.env (.iadd { r2 with f := 4 }) = none ∧
    (∃ o ∈ c.operands (.iadd { r2 with f := 4 }), o.late = false ∧ emptyLanes c.w c.sp.lanes o ≠ 0) ∧
    ∀ p ∈ c.operands (.iadd { r2 with f := 4 }), p.reads = true → p.ea = true → p.late = false →
      emptyLanes c.w c.sp.lanes p = 0 := there (by decide +kernel)
theorem test_premises_operand_trap : ∃ c, ctxOf emptied = some c ∧ causeOf c.env (.iadd { r2 with f := 4, ea := 1 }) = none ∧
    ∃ o ∈ c.operands (.iadd { r2 with f := 4, ea := 1 }), o.reads = true ∧ o.ea = true ∧ o.late = false ∧
      emptyLanes c.w c.sp.lanes o ≠ 0 := there (by decide +kernel)
theorem test_premises_malformed_slot : ∃ c, ctxOf base = some c ∧ causeOf c.env (.fadd { r2 with f := 9 }) = none ∧
    (∀ o ∈ c.operands (.fadd { r2 with f := 9 }), emptyLanes c.w c.sp.lanes o = 0) ∧
    badSlot c.slots (slotsOf (.fadd { r2 with f := 9 })) = some (9, 1) := there (by decide +kernel)
/-- Slot 9 holds binary64. -/
def wideSlot : State := base.modWarp 0 0 fun w => { w with slots := w.slots.set 9 0x00010000053FF6F4 }
def emulated : State := run (.fadd { r2 with f := 9 }) wideSlot
theorem test_premises_wide : ∃ c, ctxOf wideSlot = some c ∧ causeOf c.env (.fadd { r2 with f := 9 }) = none ∧
    (∀ o ∈ c.operands (.fadd { r2 with f := 9 }), emptyLanes c.w c.sp.lanes o = 0) ∧
    badSlot c.slots (slotsOf (.fadd { r2 with f := 9 })) = none ∧ wide c.slots (.fadd { r2 with f := 9 }) = true ∧
    c.emul = none ∧ c.w.txLanes = [] ∧ c.sp.lanes &&& c.s.unfinished c.uid c.wi = 0 := there (by decide +kernel)
theorem test_premises_emulation : (∃ sp, (warp emulated).bind (·.split? 0) = some sp ∧
      ∃ slots lanes, sp.wait = some (.emul (.fadd { r2 with f := 9 }) slots lanes)) ∧
    ∃ c, Issues (.fadd { r2 with f := 9 }) { (emulated.modWarp 0 0 fun w => w.modSplit 0 fun sp => { sp with wait := none })
        with cur := some ⟨0, 0, 0, some (presetSlots.set 9 0x00010000053FF6F4, 0xFFFFFFFF)⟩ } c ∧
      wide c.slots (.fadd { r2 with f := 9 }) = true := by
  refine ⟨?_, meets (by decide +kernel)⟩
  obtain ⟨sp, h, e⟩ := there (o := (warp emulated).bind (·.split? 0))
    (P := fun sp => sp.wait = some (.emul (.fadd { r2 with f := 9 }) (presetSlots.set 9 0x00010000053FF6F4) 0xFFFFFFFF))
    (by decide +kernel)
  exact ⟨sp, h, _, _, e⟩

theorem test_premises_trap : ∃ c, Issues (.trap { c0 with guard := some2, low := 5 }) base c ∧
    c.execs (.trap { c0 with guard := some2, low := 5 }) ≠ 0 := meets (by decide +kernel)
theorem test_premises_trap_none : ∃ c, Issues (.bkpt { c0 with guard := none2 }) base c ∧
    c.execs (.bkpt { c0 with guard := none2 }) = 0 := meets (by decide +kernel)
/-- A program handler at the page of the code takes kinds 0 and 1. -/
def handling : State := base.modWarp 0 0 fun w => { w with hmask := 3, hndLo := 65536, hndLoSet := true, hndHiSet := true }
def softTrap : Trap := ⟨0, 0, 5, 1, 65536, 65536, 0, 0, 0, 0, 0, [(0, some 65544)], 0⟩
theorem test_premises_delivery : (∃ g, handling.wgs.look 0 = some g ∧ ∃ w, g.warps[0]? = some w ∧ w.txLanes = [] ∧
      w.waitsFor (handling.unfinished 0 0) softTrap = false ∧ handlerTakes handling g w 0 = true ∧ softTrap.lanes &&& w.live ≠ 0) ∧
    ∃ g, base.wgs.look 0 = some g ∧ ∃ w, g.warps[0]? = some w ∧ w.txLanes = [] ∧ w.waitsFor (base.unfinished 0 0) softTrap = false ∧
      handlerTakes base g w 0 = false := by
  obtain ⟨g, hg, w, hw, h⟩ : ∃ g, handling.wgs.look 0 = some g ∧ (g.warps[0]?.any fun w => decide (w.txLanes = [] ∧
      w.waitsFor (handling.unfinished 0 0) softTrap = false ∧ handlerTakes handling g w 0 = true ∧ softTrap.lanes &&& w.live ≠ 0)) = true ∧ True :=
    there (by decide +kernel)
  obtain ⟨k, hk, v, hv⟩ : ∃ g, base.wgs.look 0 = some g ∧ (g.warps[0]?.any fun w => decide (w.txLanes = [] ∧
      w.waitsFor (base.unfinished 0 0) softTrap = false ∧ handlerTakes base g w 0 = false)) = true ∧ True := there (by decide +kernel)
  exact ⟨⟨g, hg, there w⟩, ⟨k, hk, there v⟩⟩
def inHandler : State := { (handling.takeTrap 0 0 softTrap) with cur := some ⟨0, 0, 1, none⟩ }
theorem test_premises_eret_outside : ∃ c, ctxOf base = some c ∧ c.w.handler = none := there (by decide +kernel)
theorem test_premises_eret_last : ∃ c, Issues (.eret s0) inHandler c ∧ c.w.handler.isSome = true ∧
    (∀ sp ∈ c.w.splits, sp.id = c.sp.id) ∧ c.w.txLanes = [] ∧ ∃ h, c.w.handler = some h ∧
      ∃ sp ∈ h.splits, sp.lanes &&& c.w.live ≠ 0 ∧ (∀ sq ∈ h.splits, sq.id = sp.id → sq = sp) ∧
        ∃ r ∈ h.resumes, r.1 = sp.id := by
  obtain ⟨c, h, a, b, x, d⟩ := meets (i := .eret s0) (s := inHandler) (P := fun c => c.w.handler.isSome = true ∧
    (∀ sp ∈ c.w.splits, sp.id = c.sp.id) ∧ c.w.txLanes = [] ∧ (c.w.handler.any fun h => decide (∃ sp ∈ h.splits,
      sp.lanes &&& c.w.live ≠ 0 ∧ (∀ sq ∈ h.splits, sq.id = sp.id → sq = sp) ∧ ∃ r ∈ h.resumes, r.1 = sp.id)) = true)
    (by decide +kernel)
  exact ⟨c, h, a, b, x, there d⟩
theorem test_premises_eret_before : ∃ c, Issues (.eret s0) (inHandler.modWarp 0 0 fun w =>
      { w with splits := w.splits ++ w.splits.map fun sp => { sp with id := 9 } }) c ∧ c.w.handler.isSome = true ∧
    ∃ sp ∈ c.w.splits, sp.id ≠ c.sp.id := meets (by decide +kernel)

/-- A context whose walk is Table 1.5's, with nothing cached. -/
def cold : State :=
  let s := { base with mem := ((base.mem.setValue 0x4000000018 8 0x0000004000010003).setValue 0x4000010850 8
    0x0000004000020003).setValue 0x40000202A8 8 0x000001200035002D }
  (s.modCtx 63 fun k => { k with root := 0x4000000000 }).modCore 0 fun k => { k with tlb := [] }
theorem test_premises_walk : let va := 0x0C2140557ABC
    let e (a : Nat) : Dword := BitVec.ofNat 64 (cold.mem.value a 8)
    let e1 := e ((cold.ctx 63).root + 8 * (va / 2 ^ 42))
    let e2 := e (eAddr e1 + 8 * (va / 2 ^ 29 % 8192))
    let e3 := e (eAddr e2 + 8 * (va / 2 ^ 16 % 8192))
    (cold.core 0).tlb = [] ∧ (cold.die 0).tlb = [] ∧ (cold.die 0).walks = [] ∧ va < 2 ^ 57 ∧
    inReserve ((cold.ctx 63).root + 8 * (va / 2 ^ 42)) = false ∧ inReserve (eAddr e1 + 8 * (va / 2 ^ 29 % 8192)) = false ∧
    inReserve (eAddr e2 + 8 * (va / 2 ^ 16 % 8192)) = false ∧
    e1 &&& 0xF000000000FFFF = 3 ∧ eAddr e1 < hbmTop ∧ e2 &&& 0xF000000000FFFF = 3 ∧ eAddr e2 < hbmTop ∧
    e3.getLsbD 0 = true ∧ e3.getLsbD 1 = false ∧ e3.getLsbD 7 = false ∧ malformed 3 e3 = false ∧
    reservedPa (eAddr e3) = false ∧ permits e3 .write false = true := by decide +kernel
theorem test_premises_walk_undamaged : ∀ a, cold.badByte a = false := fun _ => rfl
theorem test_premises_walk_not_present : (BitVec.ofNat 64 (cold.mem.value ((cold.ctx 63).root + 8 * (0 / 2 ^ 42)) 8) :
    Dword).getLsbD 0 = false := by decide +kernel

def near0 : FmtM := { m0 with base := 0xE4 }
theorem test_premises_load : ∃ c, Issues (.ld near0) near c ∧ c.w.txns = [] ∧ c.execs (.ld near0) ≠ 0 ∧
    c.failing (c.how .read) 0 (c.spans (.ld near0) near0 4 4) = none := meets (by decide +kernel)
theorem test_premises_load_none : ∃ c, Issues (.ld { near0 with guard := none2 }) near c ∧ c.w.txns = [] ∧
    c.execs (.ld { near0 with guard := none2 }) = 0 ∧
    c.failing (c.how .read) 0 (c.spans (.ld { near0 with guard := none2 }) { near0 with guard := none2 } 4 4) = none :=
  meets (by decide +kernel)
def packed : FmtM := { near0 with size := 7, f := 3, count := 2 }
theorem test_premises_packed_load : ∃ c, Issues (.ldf packed) near c ∧ c.w.txns = [] ∧ c.execs (.ldf packed) ≠ 0 ∧
    c.failing (c.how .read) 0 (c.packedSpans (.ldf packed) packed (c.record 3)) = none := meets (by decide +kernel)
theorem test_premises_store : ∃ c, Issues (.st near0) near c ∧ c.w.txns = [] ∧
    c.failing (c.how .write) 0 (c.storeSpans (c.spans (.st near0) near0 4 4)) = none := meets (by decide +kernel)
theorem test_premises_packed_store : ∃ c, Issues (.stf packed) near c ∧ c.w.txns = [] ∧
    c.failing (c.how .write) 0 (c.storeSpans (c.packedSpans (.stf packed) packed (c.record 3))) = none :=
  meets (by decide +kernel)

/-- s4 one byte past the data page's start, and at the last word below 2^57 and past it. -/
def misaligned : State := withRegs base [(32772, 131073)]
theorem test_premises_access_fault : ∃ c, Issues (.ld near0) misaligned c ∧ c.w.txns = [] ∧
    ∃ lanes, c.failing (c.how .read) 0 (c.spans (.ld near0) near0 4 4) = some (0, .access 2 131073, lanes) := by
  obtain ⟨c, h, a, b⟩ := meets (i := .ld near0) (s := misaligned) (P := fun c => c.w.txns = [] ∧
    c.failing (c.how .read) 0 (c.spans (.ld near0) near0 4 4) = some (0, .access 2 131073, 0xFFFFFFFF)) (by decide +kernel)
  exact ⟨c, h, a, _, b⟩
theorem test_premises_access_fault_stores : ∃ c, Issues (.st near0) misaligned c ∧ c.w.txns = [] ∧
    (c.failing (c.how .write) 0 (c.storeSpans (c.spans (.st near0) near0 4 4)) = some (0, .access 2 131073, 0xFFFFFFFF)) :=
  meets (by decide +kernel)
/-- The spans where the clauses meet: the last word of 2^57 and one past it; the end of the scratchpad. -/
theorem test_spans_at_the_edges : ∃ c, ctxOf base = some c ∧
    c.badSpan ⟨.read, .read, 0⟩ 0 ⟨0, 2 ^ 57 - 2, 4, 2⟩ = some (.access 3 (2 ^ 57 - 2)) ∧
    c.badSpan ⟨.read, .read, 0⟩ 0 ⟨0, 2 ^ 57 - 1, 4, 2⟩ = some (.access 2 (2 ^ 57 - 1)) ∧
    c.badSpan ⟨.read, .read, 0⟩ 1 ⟨0, 524284, 4, 4⟩ = none ∧
    c.badSpan ⟨.read, .read, 0⟩ 1 ⟨0, 524286, 4, 4⟩ = some (.access 0 524286) ∧
    c.badSpan ⟨.read, .read, 0⟩ 1 ⟨0, 524282, 4, 4⟩ = some (.access 2 524282) := there (by decide +kernel)
theorem test_packed_access_fault : ∃ c, Issues (.ldf { packed with space := 1 }) (withRegs base [(32772, 524284)]) c ∧
    c.w.txns = [] ∧ (c.failing (c.how .read) 1 (c.packedSpans (.ldf { packed with space := 1 })
      { packed with space := 1 } (c.record 3)) = some (0, .access 0 524284, 0xFFFFFFFF)) := meets (by decide +kernel)


/-! Store queues, producers, fences. -/

def stored : State := run (.st near0) near
def own : FmtM := { m0 with base := 0xE6, space := 1 }
def storedOwn : State := run (.st own) base
def outgoing : State := run (.storeQueueDrain 0 0) stored

/-- What a drain needs of a state whose one warp has a queue. -/
def drainable (s : State) (p : StoreEntry → Bool) : Bool :=
  (warp s).any fun w => match w.storeQ with
    | [] => false
    | e :: _ => (w.producers.all fun q => !q.memory || e.order ≤ q.order) && s.releases 0 0 0 e.order e.release w && p e

theorem test_premises_drain : drainable stored (fun e => e.op != .fence && !e.op.own 0) = true := by decide +kernel
theorem test_premises_drain_own : drainable storedOwn (fun e => e.op.own 0 &&
    !storedOwn.claimed 0 0 e.order e.arrived ((e.op.addrs.map locOf).eraseDups) && (storedOwn.refusedAt e.op).isNone) = true := by decide +kernel
theorem test_premises_drain_fence : drainable (run (.fence { m0 with data := 0, base := 0, size := 0, order := 2, scope := 1 })
    base) (fun e => e.op == .fence) = true := by decide +kernel
theorem test_premises_performed : ∃ o, (outgoing.core 0).outbound[0]? = some o ∧ (∃ bs, o.op = .bytes bs) ∧
    heldBack ((outgoing.core 0).outbound.take 0) o = false ∧
    outgoing.claimed o.wg o.warp o.order o.arrived ((o.op.addrs.map locOf).eraseDups) = false ∧
    outgoing.refusesWrite o = false := by
  obtain ⟨o, h, a, b⟩ := there (o := (outgoing.core 0).outbound[0]?) (P := fun o => (match o.op with
    | .bytes _ => true | _ => false) = true ∧ heldBack ((outgoing.core 0).outbound.take 0) o = false ∧
    outgoing.claimed o.wg o.warp o.order o.arrived ((o.op.addrs.map locOf).eraseDups) = false ∧
    outgoing.refusesWrite o = false) (by decide +kernel)
  refine ⟨o, h, ?_, b⟩
  cases e : o.op <;> rw [e] at a <;> simp_all

def dividing : State := run (.idiv { r2 with f := 4 }) base
theorem test_premises_values : ∃ w, warp dividing = some w ∧ ∃ p ∈ w.producers, ∃ ws, p.work = .values ws := by
  obtain ⟨w, h, p⟩ := there (o := warp dividing) (P := fun w => (w.producers.any fun p => match p.work with
    | .values _ => true | _ => false) = true) (by decide +kernel)
  obtain ⟨q, hq, e⟩ := List.any_eq_true.1 p
  refine ⟨w, h, q, hq, ?_⟩
  cases k : q.work <;> rw [k] at e <;> simp_all
def loading : State := run (.ld near0) stored
def loadReady (s : State) : Bool :=
  (warp s).any fun w => (s.core 0).outbound.isEmpty && s.jobs.isEmpty && s.hostEarly.isEmpty && w.producers.any fun p =>
    match p.work with
    | .load lanes _ _ _ _ => w.firstMemory p && (w.storeQ.all fun e => !e.strict || p.order ≤ e.order) &&
      lanes.all fun l => !waitsForRed w.storeQ p.order l && l.addrs.all fun a => !s.badAddr a && !s.lockedLoc (locOf a)
    | _ => false
theorem test_premises_load_completes : loadReady loading = true := by decide +kernel
theorem test_premises_prefetch : ∃ c, Issues (.pref { near0 with data := 0 }) near c ∧
    ∀ l ∈ lanesOf (c.execs (.pref { near0 with data := 0 })), c.badSpan ⟨.read, .read, 0⟩ 0
      ⟨l, c.ea { near0 with data := 0 } l, 1, 1⟩ = none := meets (by decide +kernel)
theorem test_premises_code_prefetch : ∃ c, Issues (.ipref { near0 with data := 0 }) (withRegs base [(32772, 65536)]) c ∧
    ∀ l ∈ lanesOf (c.execs (.ipref { near0 with data := 0 })), c.badSpan ⟨.execute, .execute, 0⟩ 0
      ⟨l, c.ea { near0 with data := 0 } l, 1, 1⟩ = none := meets (by decide +kernel)
def fence (order : BitVec 3) (g : Guard) : FmtM := { m0 with guard := g, data := 0, base := 0, size := 0, order := order, scope := 1 }
theorem test_premises_acquire : ∃ c, Issues (.fence (fence 1 all)) base c ∧ c.execs (.fence (fence 1 all)) ≠ 0 ∧
    c.w.reading = false := meets (by decide +kernel)
theorem test_premises_release : ∃ c, Issues (.fence (fence 2 all)) stored c ∧ c.execs (.fence (fence 2 all)) ≠ 0 :=
  meets (by decide +kernel)
theorem test_premises_acq_rel : ∃ c, Issues (.fence (fence 3 all)) base c ∧ c.execs (.fence (fence 3 all)) ≠ 0 ∧
    c.s.performedAt c.g.core c.uid c.wi c.s.order 1 c.w = true := meets (by decide +kernel)
theorem test_premises_fence_none : ∃ c, Issues (.fence (fence 3 none2)) stored c ∧ c.execs (.fence (fence 3 none2)) = 0 :=
  meets (by decide +kernel)

/-! Atomics. -/

def atom0 : FmtMO := ⟨{ near0 with f := 4 }, 12⟩
def red0 : FmtMO := ⟨{ near0 with f := 4, data := 0 }, 12⟩
theorem test_premises_atom : ∃ c, Issues (.atom atom0) near c ∧ c.participants (.atom atom0) 8 ≠ [] ∧
    (c.atomKind atom0 false).record = none ∧
    c.failing atomHow 0 (c.atomSpans atom0 (c.atomKind atom0 false) (c.participants (.atom atom0) 8)) = none :=
  meets (by decide +kernel)
theorem test_premises_atom_none : ∃ c, Issues (.atom ⟨{ near0 with f := 4, guard := none2 }, 12⟩) near c ∧
    c.participants (.atom ⟨{ near0 with f := 4, guard := none2 }, 12⟩) 8 = [] := meets (by decide +kernel)
theorem test_premises_cas : ∃ c, Issues (.cas ⟨{ near0 with f := 4 }, 0x0D0C⟩) near c ∧
    c.participants (.cas ⟨{ near0 with f := 4 }, 0x0D0C⟩) 8 ≠ [] ∧
    c.failing atomHow 0 (c.atomSpans ⟨{ near0 with f := 4 }, 0x0D0C⟩ (c.atomKind ⟨{ near0 with f := 4 }, 0x0D0C⟩ true)
      (c.participants (.cas ⟨{ near0 with f := 4 }, 0x0D0C⟩) 8)) = none := meets (by decide +kernel)
theorem test_premises_red : ∃ c, Issues (.red red0) near c ∧ c.stages red0 = false ∧
    c.failing atomHow 0 (c.atomSpans red0 (c.atomKind red0 false) (lanesOf (c.execs (.red red0) &&& ~~~c.w.helpers))) = none :=
  meets (by decide +kernel)
/-- A floating addition of a deterministic launch to global memory under f0. -/
def redStaged : FmtMO := ⟨{ near0 with data := 0 }, 0x20000C⟩
def deterministic : State := near.modCtx 63 fun k => { k with deterministic := true }
theorem test_premises_red_staged : ∃ c, Issues (.red redStaged) deterministic c ∧ c.stages redStaged = true ∧
    c.failing atomHow 0 (c.atomSpans redStaged (c.atomKind redStaged false)
      (lanesOf (c.execs (.red redStaged) &&& ~~~c.w.helpers))) = none ∧
    Rec.w (c.record 0) ≤ 32 := meets (by decide +kernel)
def atomic : State := run (.atom atom0) near
def atomicReady (s : State) : Bool :=
  (warp s).any fun w => w.storeQ.isEmpty && (s.cores.all fun k => k.2.outbound.isEmpty) && s.peerPending.isEmpty &&
    s.jobs.isEmpty && s.hostEarly.isEmpty && (s.launches.look 0).isNone && (s.wgs.all fun g => g.2.warps.all fun w =>
      w.txns.isEmpty) && (s.dies.all fun d => d.2.monitors.isEmpty) && w.producers.any fun p => match p.work with
    | .atomic [x] _ _ _ release _ => w.firstMemory p && release == 0 &&
      ((List.range 4).all fun j => !s.badAddr (x.addr.plus j)) &&
      (match x.addr with | .phys _ => true | _ => false)
    | _ => false
theorem test_premises_atomic_effect : atomicReady atomic = true := by decide +kernel
/-- With no open transaction no line is locked, and with no launch no promise to an invariant load is broken. -/
theorem no_locks {s : State} (h : (s.wgs.all fun g => g.2.warps.all fun w => w.txns.isEmpty) = true) (y : Loc) :
    s.lockedLoc y = false := by
  cases y with
  | block => rfl
  | line n =>
    simp only [List.all_eq_true, List.isEmpty_iff] at h
    simp only [State.lockedLoc, State.lockHolder, Option.isSome_eq_false_iff, Option.isNone_iff_eq_none, List.head?_eq_none_iff,
      List.flatMap_eq_nil_iff]
    intro g hg w hw
    rw [h g hg w.1 (List.fst_mem_of_mem_zipIdx hw)]
    rfl
theorem no_promises {s : State} {n : Nat} (h : s.launches.look n = none) (a : Nat) : s.heldValues n a = none := by
  simp [State.heldValues, h]

/-! Delayed scaling. -/

theorem test_premises_advance : ∃ c, Issues (.amxadv { near0 with data := 0 }) near c ∧ c.quiet = true ∧
    (let xs := (lanesOf (c.execs (.amxadv { near0 with data := 0 }) &&& ~~~c.w.helpers)).map fun l =>
        (⟨l, c.ea { near0 with data := 0 } l, 64, 64⟩ : Span)
     let r := c.reached atomHow 0 xs
     c.failing atomHow 0 xs = none ∧ unclaimed c r.1 = true ∧
       (r.2.s.advances c.g.core c.slots (entryGroups r.1)).1 = []) := meets (by decide +kernel)
theorem test_premises_scale_read : ∃ c, Issues (.sclget near0) near c ∧ c.w.reading = false ∧
    (let xs := (lanesOf (c.execs (.sclget near0))).map fun l => (⟨l, c.ea near0 l, 64, 64⟩ : Span)
     let r := c.reached readHow 0 (xs.filter fun x => (unitsOf 8 (c.execs (.sclget near0))).contains x.lane)
     c.failing readHow 0 xs = none ∧ c.storesTo r.1 = false ∧
       unclaimed c r.1 = true) := meets (by decide +kernel)

/-! Transactions. -/

theorem test_premises_txb : ∃ c, Issues (.txb { c0 with offset := 5 }) base c ∧
    (∀ l ∈ lanesOf (c.execs (.txb { c0 with offset := 5 })), c.inTx l = false) ∧ c.w.txLoads = false ∧
    c.execs (.txb { c0 with offset := 5 }) &&& ~~~c.w.helpers ≠ 0 := meets (by decide +kernel)
theorem test_premises_txb_none : ∃ c, Issues (.txb { c0 with guard := none2, offset := 5 }) base c ∧ c.w.txLoads = false ∧
    c.execs (.txb { c0 with guard := none2, offset := 5 }) = 0 := meets (by decide +kernel)
/-- Lane 0 is in a transaction that has read a byte, which memory still holds or does not. -/
def inTx (b : Byte) : State := base.modWarp 0 0 fun w =>
  { w with txns := [(0, ⟨65576, [(131072, b)], [1024], [], [], [], none, none⟩)], masks := [(2, 1)] }
def lane0 : FmtC := { c0 with guard := ⟨true, false, 2⟩ }
theorem test_premises_commit : ∃ c, Issues (.txe lane0) (inTx 0) c ∧ lanesOf (c.execs (.txe lane0)) = [0] ∧
    c.quiet = true ∧ ∃ x, c.w.txns.look 0 = some x ∧ x.verdict = none ∧ c.Unclaimed (txTargets [(0, x)]) ∧
      c.s.meetsLock [(0, x)] = false ∧ x.valid (inTx 0).mem = true := by
  obtain ⟨c, h, a, b, d⟩ := meets (i := .txe lane0) (s := inTx 0) (P := fun c => lanesOf (c.execs (.txe lane0)) = [0] ∧
    c.quiet = true ∧ ((c.w.txns.look 0).any fun x => decide (x.verdict = none ∧ unclaimed c (txTargets [(0, x)]) = true ∧
      c.s.meetsLock [(0, x)] = false ∧ x.valid (inTx 0).mem = true)) = true) (by decide +kernel)
  obtain ⟨x, hx, v, u, r⟩ := there d
  exact ⟨c, h, a, b, x, hx, v, unclaimed_of u, r⟩
theorem test_premises_abort : ∃ c, Issues (.txe lane0) (inTx 1) c ∧ lanesOf (c.execs (.txe lane0)) = [0] ∧
    c.quiet = true ∧ (c.w.txns.look 0).map (·.valid (inTx 1).mem) = some false := meets (by decide +kernel)
theorem test_premises_txe_outside : ∃ c, Issues (.txe c0) base c ∧ ∀ l ∈ lanesOf (c.execs (.txe c0)), c.w.txns.look l = none :=
  meets (by decide +kernel)
theorem test_premises_txa : ∃ c, Issues (.txa { lane0 with low := 3 }) (inTx 0) c ∧
    (c.execs (.txa { lane0 with low := 3 })).getLsbD 0 = true ∧ (c.w.txns.look 0).isSome = true := meets (by decide +kernel)

/-! Copies. -/

def cpa0 : FmtMO := ⟨{ near0 with data := 14, size := 0 }, 0x80000C⟩
/-- Each lane copies 16 bytes to its own 32 bytes of scratchpad. -/
def copyRegs : State := withRegs near ((List.range 32).flatMap fun l => [(l * 256 + 14, BitVec.ofNat 32 (32 * l)), (l * 256 + 12, 16)])
theorem test_premises_cpa : ∃ c, Issues (.cpa cpa0) copyRegs c ∧ lanesOf (c.execs (.cpa cpa0) &&& ~~~c.w.helpers) ≠ [] ∧
    (∀ l ∈ lanesOf (c.execs (.cpa cpa0) &&& ~~~c.w.helpers), (c.copyLane cpa0 l).bad c.g.scratchSize = none) ∧
    Sparse.get 0 c.w.tags (Oper.tag cpa0) < 1023 ∧ c.quiet = true := meets (by decide +kernel)
theorem test_premises_cpa_none : ∃ c, Issues (.cpa { cpa0 with m := { cpa0.m with guard := none2 } }) copyRegs c ∧
    lanesOf (c.execs (.cpa { cpa0 with m := { cpa0.m with guard := none2 } }) &&& ~~~c.w.helpers) = [] :=
  meets (by decide +kernel)
def copying : State := run (.cpa cpa0) copyRegs
theorem test_premises_cpwait : ∃ c, Issues (.cpwait { c0 with site := 1 }) copying c ∧
    (∀ p ∈ copying.jobs, p.2.failed = none) ∧ c.execs (.cpwait { c0 with site := 1 }) ≠ 0 ∧
    Sparse.get 0 c.w.tags 1 = 1 := meets (by decide +kernel)
theorem test_premises_cpwait_oldest : ∃ c, Issues (.cpwait { c0 with site := 4 }) copying c ∧
    c.execs (.cpwait { c0 with site := 4 }) ≠ 0 ∧ c.sp.wait = none ∧
    ∀ p ∈ copying.jobs, p.2.onTag c.uid c.wi 0 = true → p.2.done = true := meets (by decide +kernel)
def kick0 : FmtS := { s0 with d := 0xE4, a := 0xE8, b := 0xE9, c := 0xEA }
def kicked (regs : List (RegKey × Word)) (p : Ctx → Bool) : Bool :=
  let s := withRegs near regs
  issuesB (.kick kick0) s && (ctxOf s).any fun c => c.execs (.kick kick0) &&& ~~~c.w.helpers != 0 && c.quiet && p c
def kickRequests (c : Ctx) : List Request := (List.range (c.w.rd 0xE9 0).toNat).map fun k =>
  requestOf (c.s.valueAt (.scratch c.uid ((c.w.rd 0xE8 0).toNat + 32 * k)) 32)
/-- No request, one too many, a list at the end of the scratchpad and past it. -/
theorem test_premises_kick_counts : kicked [] (fun c => (c.w.rd 0xE9 0).toNat == 0) = true ∧
    kicked [(32777, 257)] (fun c => decide (256 < (c.w.rd 0xE9 0).toNat)) = true ∧
    kicked [(32776, 524288), (32777, 1)] (fun c => decide (c.g.scratchSize < (c.w.rd 0xE8 0).toNat + 32)) = true := by
  decide +kernel
theorem test_premises_kick_bad : kicked [(32776, 524256), (32777, 1)] (fun c =>
    (firstBad c.g.scratchSize none (kickRequests c)).isSome && decide ((c.w.rd 0xE8 0).toNat + 32 ≤ c.g.scratchSize)) = true := by
  decide +kernel


/-- One request: 64 bytes of the data page to offset 1,024 of the scratchpad. -/
def requested : State := (withRegs near [(32777, 1)]).modWg 0 fun g =>
  { g with scratch := Memory.setValue g.scratch 0 32 (131072 + 1024 * 2 ^ 64 + 64 * 2 ^ 128 + 2 ^ 161) }
theorem test_premises_kick : ∃ c, Issues (.kick kick0) requested c ∧ c.execs (.kick kick0) &&& ~~~c.w.helpers ≠ 0 ∧
    c.quiet = true ∧ firstBad c.g.scratchSize none (kickRequests c) = none ∧ (kickRequests c).length = 1 ∧
    (∀ r ∈ kickRequests c, r.src.nonCanonical r.len = none ∧ r.dst.nonCanonical r.len = none) ∧
    (c.kickDests (kickRequests c) c.s).1.isOk = true := meets (by decide +kernel)
theorem test_premises_kick_none : ∃ c, Issues (.kick { kick0 with guard := none2 }) base c ∧
    c.execs (.kick { kick0 with guard := none2 }) &&& ~~~c.w.helpers = 0 := meets (by decide +kernel)
def kickedJob : State := run (.kick kick0) requested

/-! Barriers. -/

/-- Every lane names the object at offset 0: v4 = 0, count v12 = 32. -/
def counts : State := withRegs base ((List.range 32).map fun l => (l * 256 + 12, 32))
def objReady (c : Ctx) (lanes : List Nat) : Bool :=
  c.failing readHow 1 (c.objSpans 4 lanes) == none &&
    unclaimed c (c.objTargets (c.objSpans 4 lanes))
def lanesOn (c : Ctx) (i : Instr) : List Nat := lanesOf (c.execs i &&& ~~~c.w.helpers)
theorem test_premises_binit : ∃ c, Issues (.binit { r2 with d := 0 }) counts c ∧
    objReady c (lanesOn c (.binit { r2 with d := 0 })) = true ∧ c.w.settled = true ∧
    ∀ l ∈ lanesOn c (.binit { r2 with d := 0 }), badCount (c.w.rd 12 l) = false := meets (by decide +kernel)
/-- An object that waits for 33 arrivals of weight 1. -/
def armed : State := withRegs (run (.binit { r2 with d := 0, guard := ⟨true, false, 2⟩ })
    ((withRegs base [(12, 33)]).modWarp 0 0 fun w => { w with masks := [(2, 1)] }))
  ((List.range 32).map fun l => (l * 256 + 12, 1))
theorem test_premises_barr : ∃ c, Issues (.barr r3) armed c ∧ objReady c (c.participants (.barr r3) 8) = true ∧
    c.w.settled = true ∧ (∀ l ∈ c.participants (.barr r3) 8, badCount (c.w.rd 12 l) = false ∧
      (c.w.rd 16 l).toNat ≤ 2 ^ 31 - 1) ∧
    ∀ l ∈ c.participants (.barr r3) 8, (c.s.barObj c.uid (c.objAt 4 l)).malformed = false := meets (by decide +kernel)
/-- Waits on tokens of the phase at hand, and of the phase before, with all 32 bits. -/
def bwait0 : FmtR := { r2 with d := 0, b := 9 }
def waits (token : Word) : State := withRegs armed ((List.range 32).map fun l => (l * 256 + 9, token))
def waitsOk (token : Word) (finished : Bool) : Bool :=
  issuesB (.bwait bwait0) (waits token) && (ctxOf (waits token)).any fun c =>
    let lanes := lanesOn c (.bwait bwait0)
    objReady c lanes && !c.w.reading && (waits token).jobs.isEmpty && (lanes.all fun l => c.tokenDone bwait0 l == finished) &&
      !c.storesTo (c.objTargets (c.objSpans 4 lanes)) && lanes.all fun l =>
        let o := c.s.barObj c.uid (c.objAt 4 l)
        !o.malformed && !o.errArr && !o.errBytes
theorem test_premises_bwait : waitsOk 0 false = true ∧ waitsOk 0x7FFFFFFF true = true := by decide +kernel
/-- Table 6.2 where its rows meet. -/
theorem test_token_edges : let o : BarObj := ⟨1, 1, 0, 2 ^ 30, false, false, false⟩
    (o.complete 0, o.complete 1, o.complete 0x3FFFFFFF, o.complete 0x40000000, o.complete 0x40000001) =
      (false, true, true, false, false) := by decide
/-- An object at the bounds of its fields. -/
theorem test_object_bounds : let o : BarObj := ⟨65535, 65535, -(2 ^ 31), 2 ^ 31 - 1, true, true, false⟩
    BarObj.ofBits o.bits = o := by decide +kernel
theorem test_premises_bar : ∃ c, Issues (.bar c0) base c ∧ c.w.settled = true := meets (by decide +kernel)
theorem test_premises_gsync : ∃ c, Issues (.gsync c0) base c ∧
    c.s.performedAt c.g.core c.uid c.wi c.s.order 1 c.w = true := meets (by decide +kernel)
/-- Two work-groups of a gang, one of them arrived. -/
def ganged : State := { base with gangs := [(5, ⟨63, 0, 0, 0, [0], false, 0⟩)] }
theorem test_premises_gang : ∃ x, ganged.gangs.look 5 = some x ∧ (ganged.wgs.look 0).isSome = true ∧ x.members = [0] :=
  there (by decide +kernel)

/-! Monitors: s4, s5 the word's address, s6 the expected value, s7 the timeout. -/

def monw0 : FmtR := { r3 with a := 0xE4, b := 0xE6, c := 0xE7 }
def monReady (s : State) (p : Word → Ctx → Bool) : Bool :=
  issuesB (.monw monw0) s && (ctxOf s).any fun c =>
    let r := c.reached armHow 0 ((c.wordSpans (.monw monw0) 0xE4).take 1)
    c.failing armHow 0 (c.wordSpans (.monw monw0) 0xE4) == none && !c.w.reading && !c.storesTo r.1 && unclaimed c r.1 &&
    match r.1.head?.bind (·.addrs.head?) with
    | some (.phys pa) => p (BitVec.ofNat 32 (r.2.s.mem.value pa 4)) c
    | _ => false
theorem test_premises_monw_differs : monReady (withRegs near [(32774, 1)]) (fun v c => v != c.w.rd 0xE6 0) = true := by
  decide +kernel
theorem test_premises_monw_at_once : monReady near (fun v c => v == c.w.rd 0xE6 0 && c.w.rd 0xE7 0 == 0) = true := by
  decide +kernel
theorem test_premises_monw_waits : monReady (withRegs near [(32775, 1)]) (fun v c => v == c.w.rd 0xE6 0 &&
    c.w.rd 0xE7 0 != 0 && (near.die 0).monitors.length < monitorEntries) = true := by decide +kernel
theorem test_premises_monx : ∃ c, Issues (.monx { r2 with a := 0xE4, b := 0xE6 }) near c ∧ c.quiet = true ∧
    c.failing exchangeHow 0 (c.wordSpans (.monx { r2 with a := 0xE4, b := 0xE6 }) 0xE4) = none ∧
    c.execs (.monx { r2 with a := 0xE4, b := 0xE6 }) &&& ~~~c.w.helpers ≠ 0 := meets (by decide +kernel)
theorem test_premises_monx_none : ∃ c, Issues (.monx { r2 with guard := none2, a := 0xE4, b := 0xE6 }) near c ∧
    c.failing exchangeHow 0 (c.wordSpans (.monx { r2 with guard := none2, a := 0xE4, b := 0xE6 }) 0xE4) = none ∧
    c.execs (.monx { r2 with guard := none2, a := 0xE4, b := 0xE6 }) &&& ~~~c.w.helpers = 0 := meets (by decide +kernel)
/-- Every entry of a die's monitors is taken. -/
theorem test_premises_monw_full : ∃ n, n = monitorEntries ∧
    monitorEntries ≤ (List.replicate n ((0 : Nat), (⟨0, 0, 0, 0, 0, 0, 0, 0, none⟩ : Monitor))).length :=
  ⟨monitorEntries, rfl, by simp⟩

/-! The matrix engine. -/

def matrixB (i : Instr) (s : State) (p : Ctx → Bool) : Bool :=
  issuesB i s && (ctxOf s).any fun c => c.w.matFaults.isEmpty && c.g.desc.matrix && c.quiet &&
    c.execs i &&& ~~~c.w.helpers != 0 && p c
def bank0 : FmtX := { x0 with base := 0xE4, low := 0x72800, f := 3 }
def prod0 : FmtX := { x0 with base := 0xE4, z := 1, f := 3 }
theorem test_premises_mldb : matrixB (.mldb bank0) base (fun c => c.scalar 0xE4 % 4 == 0 && c.scalar 0xE5 % 4 == 0 &&
    decide (c.scalar 0xE4 + 255 * c.scalar 0xE5 + 128 ≤ c.g.scratchSize)) = true := by decide +kernel
theorem test_premises_mldbs : matrixB (.mldbs bank0) base (fun c => decide
    (c.scalar 0xE4 + 255 * c.scalar 0xE5 + 128 ≤ c.g.scratchSize)) = true := by decide +kernel
theorem test_premises_mma : matrixB (.mma prod0) base (fun c => !c.badTile 1 &&
    decide (c.scalar 0xE4 + (mulOf prod0 false (c.record 3) (c.scalar 0xE4)).bytesA ≤ c.g.scratchSize) &&
    serialOf (c.record 3) 0 ≤ 16 && c.g.widthAhead 0 ≤ 16 && !(mulOf prod0 false (c.record 3) 0).nested) = true := by decide +kernel
theorem test_premises_mmas : matrixB (.mmas { prod0 with sparse := true }) base (fun c => !c.badTile 1 &&
    decide (c.scalar 0xE4 + (mulOf { prod0 with sparse := true } true (c.record 3) (c.scalar 0xE4)).bytesA ≤
      c.g.scratchSize)) = true := by decide +kernel
theorem test_premises_msig : matrixB (.msig { x0 with bank := 1 }) base (fun _ => true) = true := by decide +kernel
theorem test_premises_mzero : matrixB (.mzero { x0 with z := 1 }) base (fun c => !c.badTile 1) = true := by decide +kernel
theorem test_premises_mst : matrixB (.mst prod0) base (fun c => !c.badTile 1 && mstEntry prod0 == false &&
    decide (c.scalar 0xE4 + 512 * Rec.w (c.record 3) ≤ c.g.scratchSize) && (c.s.ownersFull (c.claimsOf
      ⟨[], [], none, [blockClaim c.uid (c.scalar 0xE4) (512 * Rec.w (c.record 3))], none, false⟩).1).isNone) = true := by
  decide +kernel
theorem test_premises_mscl : matrixB (.mscl { x0 with base := 0xE4 }) base (fun c =>
    decide (c.scalar 0xE4 + 1 ≤ c.g.scratchSize)) = true := by decide +kernel
theorem test_premises_matrix_none : issuesB (.mma { prod0 with guard := none2 }) base = true ∧
    (ctxOf base).any (fun c => c.execs (.mma { prod0 with guard := none2 }) == 0) = true := by decide +kernel
/-- A computed window of groups of 64 one-bit weights, scaled under f1, at the data page (file 04, Worked decode). -/
def streamWindow : Window := ⟨BitVec.ofNat 256 (131072 + 139264 * 2 ^ 64 + 6 * 2 ^ 132 + 2 ^ 137 + 2 ^ 142), 131072⟩
def windowed : State := near.modWg 0 fun g => { g with windows := [(1, streamWindow)] }
theorem test_premises_mldt : matrixB (.mldt { x0 with low := 0x1E500, f := 3 }) windowed (fun c =>
    (c.g.windows.look (mldtWindow { x0 with low := 0x1E500, f := 3 })).any fun x => !x.badSlots c.slots &&
      decide (Rec.w (c.record 3) ≤ 8) && !x.badTable c.slots c.g.scratchSize) = true := by decide +kernel

/-- Signatures of 32 threads against counts of 32 and 33. -/
def signing (n : BitVec 19) : State := run (.mkset { x0 with useK := true, k := 2, low := n <<< 7 }) base
def signs : FmtX := { x0 with bank := 1, useK := true, k := 2 }
theorem test_premises_round : matrixB (.msig signs) (signing 32) (fun c => (c.g.convReg 2).n == 32 &&
    (c.g.convReg 2).abandoned == none && (c.g.convReg 2).signed.isEmpty && (c.g.convReg 2).first == none) = true := by
  decide +kernel
theorem test_premises_mkset : matrixB (.mkset { x0 with useK := true, k := 2, low := 32 <<< 7 }) base (fun _ => true) = true := by
  decide +kernel

def mrd0 : FmtX := { x0 with z := 1, low := (8 <<< 11) + (4 <<< 3) }
theorem test_premises_mrd : matrixB (.mrd mrd0) base (fun c => !c.badTile 1 &&
    c.badIndex (.mrd mrd0) mrd0 (unitsOf 8 (c.execs (.mrd mrd0))) == 0) = true := by decide +kernel
theorem test_premises_mwr : matrixB (.mwr mrd0) base (fun c => !c.badTile 1 &&
    c.badIndex (.mwr mrd0) mrd0 (lanesOn c (.mwr mrd0)) == 0) = true := by decide +kernel
def zeroing : State := run (.mzero { x0 with z := 1 }) base
def mwaitAll : FmtX := { x0 with low := 1 <<< 10 }
def mwaitOne : FmtX := { x0 with low := 0xE6 <<< 11 }
theorem test_premises_mwait_all : matrixB (.mwait mwaitAll) zeroing (fun c => c.g.opsBefore c.waitNumber &&
    zeroing.jobs.all fun p => p.2.failed == none) = true ∧ matrixB (.mwait mwaitAll) base (fun c =>
      !c.g.opsBefore c.waitNumber && c.g.fifoA.isEmpty && c.g.fifoB.isEmpty) = true := by decide +kernel
theorem test_premises_mwait_token : matrixB (.mwait mwaitOne) (withRegs zeroing [(32774, 1)]) (fun c =>
    (c.g.ops.any fun o => o.tokens.contains (c.wi, c.w.rd 0xE6 0)) && (c.w.tokens - c.w.rd 0xE6 0).toNat == 0 &&
      c.w.badTokens.look 1 == none) = true := by decide +kernel
theorem test_premises_mstat : matrixB (.mstat { x0 with low := (8 <<< 11) + (3 <<< 7) }) base (fun c =>
    !c.g.opsBefore c.waitNumber) = true := by decide +kernel

def workB (s : State) (p : WorkGroup → MatOp → Bool) : Bool :=
  (s.wgs.look 0).any fun g => (g.ops.find? fun o => !o.executed).any fun op =>
    (s.jobs.look op.job).isSome && s.opReady 0 op && p g op
theorem test_premises_work : workB zeroing (fun _ op => op.instr == .mzero { x0 with z := 1 }) = true ∧
    workB (run (.msig { x0 with bank := 1 }) base) (fun g _ => !g.pairedBank 1) = true := by decide +kernel
/-- `mwr` of one lane, whose element is the tile's last. -/
def writing : State := run (.mwr { mrd0 with guard := ⟨true, false, 2⟩ })
  (withRegs (base.modWarp 0 0 fun w => { w with masks := [(2, 1)] }) [(4, 4095), (8, 7)])
theorem test_premises_element : workB writing (fun _ op => op.elems == [(0, 4095, 7)]) = true := by decide +kernel
def reading : State := run (.mrd mrd0) base
theorem test_premises_tile_read : workB reading (fun g op => (g.warps[op.warp]?).any fun w =>
    g.damaged == [] && w.producers.any fun p => p.work == .queued op.number) = true := by decide +kernel
def executed : State := run (.matrixOpExecute 0) zeroing
theorem test_premises_complete : ((executed.wgs.look 0).any fun g => match g.ops with
    | op :: rest => op.executed && rest.all fun o => o.number != op.number
    | [] => false) = true := by decide +kernel


/-! Trellis streams. -/

def wset0 : FmtS := { s0 with a := 0xE4, sel := 1 }
/-- The descriptor of `streamWindow` at the data page, or one whose bit 146 is set. -/
def described (extra : Nat) : State := { near with mem := near.mem.setValue 131072 32 (streamWindow.desc.toNat + extra) }
def wsetB (s : State) (cause : Option Nat) : Bool :=
  issuesB (.wset wset0) s && (ctxOf s).any fun c =>
    let xs := (lanesOf (c.execs (.wset wset0))).map fun l => (⟨l, c.w.rd64 0xE4 0, 32, 32⟩ : Span)
    let r := c.reached readHow 0 (xs.take 1)
    let d := c.loadTargets r.2.s r.1
    c.execs (.wset wset0) != 0 && c.failing readHow 0 xs == none && !c.w.reading && !c.storesTo r.1 && unclaimed c r.1 &&
      (⟨BitVec.ofNat 256 ((d.1.head?.map (·.2)).getD 0), 131072⟩ : Window).cause c.slots c.g.scratchSize == cause
theorem test_premises_wset : wsetB (described 0) none = true ∧ wsetB (described (2 ^ 146)) (some 2) = true ∧
    wsetB near (some 2) = true := by decide +kernel
theorem test_premises_wset_none : ∃ c, Issues (.wset { wset0 with guard := none2 }) near c ∧
    c.execs (.wset { wset0 with guard := none2 }) = 0 := meets (by decide +kernel)
theorem test_wset_installs : ((run (.wset wset0) (described 0)).wgs.look 0).bind (·.windows.look 1) = some streamWindow := by
  decide +kernel

def usableB (c : Ctx) (n : Nat) : Bool :=
  (c.g.windows.look n).any fun x => !x.badSlots c.slots && !x.badTable c.slots c.g.scratchSize
def trdec0 : FmtR := { r1 with c := 1, f := 3 }
theorem test_premises_trdec : (issuesB (.trdec trdec0) windowed && (ctxOf windowed).any fun c =>
    usableB c 1 && (c.g.windows.look 1).any fun x =>
      let xs := (lanesOf (c.execs (.trdec trdec0))).flatMap fun l => x.spans c.slots l (c.w.rd 4 l).toNat
      let r := c.reached readHow 0 (xs.filter fun t => (unitsOf 8 (c.execs (.trdec trdec0))).contains t.lane)
      c.failing readHow 0 xs == none && !c.w.reading && !c.storesTo r.1 && x.computed && unclaimed c r.1) = true := by decide +kernel
def trdecn0 : FmtS := { s0 with a := 0xE7, b := 0xE8, c := 0xE9, sel := 0x19 }
/-- A count of 0, and of 8 records of 32 bits that end at the scratchpad's end. -/
theorem test_premises_trdecn : (issuesB (.trdecn trdecn0) windowed && (ctxOf windowed).any fun c => usableB c 1 &&
      (c.w.rd 0xE9 0) == 0 && decide (Rec.w (c.record 3) ≤ 32)) = true ∧
    (let s := withRegs windowed [(32775, 524256), (32777, 8)]
     issuesB (.trdecn trdecn0) s && (ctxOf s).any fun c => usableB c 1 && c.quiet && (c.w.rd 0xE9 0) == 8 &&
       decide ((c.w.rd 0xE7 0).toNat + (8 * Rec.w (c.record 3) + 7) / 8 ≤ c.g.scratchSize)) = true := by decide +kernel
def trenc0 : FmtS := { s0 with a := 0xE6, b := 0xE8, c := 0xE9, sel := 1 }
/-- One group of targets at offset 4,096 of the data page. -/
def targets : State := withRegs windowed [(32774, 135168), (32777, 1)]
theorem test_premises_trenc : (issuesB (.trenc trenc0) targets && (ctxOf targets).any fun c => c.quiet &&
    (c.g.windows.look 1).any fun x =>
      let va := x.groupAddr (c.w.rd 0xE8 0).toNat
      let len := (c.w.rd 0xE9 0).toNat * x.groupBytes
      let r := c.s.claimPages c.g.core c.g.ctx c.privileged va len
      usableB c 1 && decide (c.w.rd64 0xE6 0 % 4 = 0) && (c.w.rd 0xE9 0) == 1 &&
      decide (c.w.rd64 0xE6 0 + 4 * x.groupSize ≤ 2 ^ 57 ∧ va + len ≤ 2 ^ 57) && match r.1 with
        | .ok pages => (pages.all fun m => !inReserve m.pa) &&
            c.s.ownersFull (pages.map fun m => lineClaim m va len) == none
        | .error _ => false) = true := by decide +kernel
def encoding : State := run (.trenc trenc0) targets
def decoding : State := run (.trdecn trdecn0) (withRegs windowed [(32775, 524256), (32777, 8)])
theorem test_premises_trwait : (issuesB (.trwait c0) base && (ctxOf base).any fun c => c.execs (.trwait c0) != 0) = true ∧
    (issuesB (.trwait c0) encoding && (ctxOf encoding).any fun c => c.execs (.trwait c0) != 0 && c.sp.wait == none &&
      encoding.jobs.any fun p => p.2.isTrellis 0 0 && !p.2.done && decide (p.2.order < encoding.order) &&
        p.2.failed == none) = true := by decide +kernel
/-- File 04: a window at the stream's start, and at its end around it. -/
theorem test_window_wraps : (streamWindow.groupSize, streamWindow.step, streamWindow.length) = (64, 1, 6) ∧
    streamWindow.window 0x8000000000000001 63 % 4 = 3 := by decide +kernel

/-! Tapes: the control block at 131,072, a chunk of 8 KiB at 163,968. -/

def opening : State := withRegs near [(32774, 163968), (32776, 8192)]
def topen0 : FmtS := { s0 with a := 0xE4, b := 0xE6, c := 0xE8 }
theorem test_premises_topen : ∃ c, Issues (.topen topen0) opening c ∧ c.execs (.topen topen0) ≠ 0 ∧ c.quiet = true ∧
    c.w.tape = none ∧ c.w.rd64 0xE4 0 % 128 = 0 ∧ badChunk (c.w.rd64 0xE6 0) (c.w.rd 0xE8 0).toNat = false ∧
    (c.oxbow.open_ c.s (c.w.rd64 0xE4 0) (c.w.rd64 0xE6 0) (c.w.rd 0xE8 0).toNat (widthCode c.width) false).isOk = true :=
  meets (by decide +kernel)
/-- R111 at its bounds. -/
theorem test_chunk_bounds : (badChunk 128 4096, badChunk 128 3968, badChunk 128 (2 ^ 24), badChunk 128 (2 ^ 24 + 128),
    badChunk 64 4096) = (false, true, false, true, true) := by decide
def opened : State := run (.topen topen0) opening
def taped (s : State) : Option Bound := (warp s).bind (·.tape)
theorem test_opened : (taped opened).map (fun b => (b.state, b.off, b.cur)) = some (0, 32, 163968) := by decide +kernel
def boundB (i : Instr) (s : State) (p : Ctx → Bound → Bool) : Bool :=
  issuesB i s && (ctxOf s).any fun c => c.execs i != 0 && c.quiet && c.w.tape.any fun b => p c b
def tgrant0 : FmtS := { s0 with a := 0xE6, b := 0xE8 }
theorem test_premises_tgrant : boundB (.tgrant tgrant0) (withRegs opened [(32774, 172160), (32776, 4096)]) (fun c b =>
    b.state == 0 && !badChunk (c.w.rd64 0xE6 0) (c.w.rd 0xE8 0).toNat &&
      (c.oxbow.grant c.s b (c.w.rd64 0xE6 0) (c.w.rd 0xE8 0).toNat).isOk) = true := by decide +kernel
def inState (n : Nat) (s : State) : State :=
  s.modWarp 0 0 fun w => { w with tape := w.tape.map fun b => { b with state := n } }
theorem test_premises_tclose : boundB (.tclose s0) (inState 1 opened) (fun c b => b.state == 1 && (c.oxbow.close c.s b).isOk) =
    true ∧ boundB (.tclose s0) (inState 2 opened) (fun _ b => b.state == 2) = true := by decide +kernel
def tbr0 : FmtS := { s0 with a := 8, sel := 3 }
def tmark0 : FmtS := { s0 with a := 0xE4, sel := 3 }
theorem test_premises_tmark : boundB (.tmark tmark0) opened (fun c b => b.state == 0 && c.recorded (.tmark tmark0) != 0 &&
    match c.oxbow.emit (recordBytes 2 3 0 false (bytesOfNat 4 (c.w.rd 0xE4 0).toNat)) chainFuel [] c.s b with
      | .done _ _ => true
      | _ => false) = true := by decide +kernel
theorem test_premises_tbr : boundB (.tbr tbr0) opened (fun _ b => b.state == 0) = true ∧
    boundB (.tbr tbr0) (inState 1 opened) (fun c b => b.state == 1 && c.recorded (.tbr tbr0) != 0) = true := by
  decide +kernel
theorem test_premises_trec : boundB (.trec { s0 with a := 8, sel := 3, o := 1 }) opened (fun _ b => b.state == 0) = true := by
  decide +kernel
def lane (n : Nat) (s : State) : State := s.modWarp 0 0 fun w => { w with masks := [(2, BitVec.ofNat 128 (2 ^ n))] }
def trec0 : FmtS := { s0 with guard := ⟨true, false, 2⟩, a := 8, sel := 3, o := 1 }
/-- A mark and, behind it, a branch record and a value record of lane 0; reverse play of each. -/
def marked : State := inState 3 (run (.tmark tmark0) opened)
def branched : State := inState 3 (run (.tbr tbr0) opened)
def valued : State := inState 3 (run (.trec trec0) (lane 0 (withRegs opened [(8, 5), (9, 6)])))
def peeks (i : Instr) (s : State) (p : Ctx → TapeRec → Bool) : Bool :=
  boundB i s fun c b => b.state == 3 && match c.oxbow.peek c.s b with
    | .ok (some r, t) => p c r && (match c.oxbow.cross chainFuel [] t { b with off := b.off - r.len } with
        | .ok (some _, _) => true
        | _ => false)
    | _ => false
theorem test_premises_tmark_back : peeks (.tmark tmark0) marked (fun c r => r.type == 2 && r.site == 3 &&
    natOfBytes (r.body.take 4) == (c.w.rd 0xE4 0).toNat) = true := by decide +kernel
def tbrp0 : FmtS := { s0 with d := 8, sel := 3 }
theorem test_premises_tbrp : peeks (.tbrp tbrp0) branched (fun c r => r.type == 1 && r.site == 3 && !r.multi &&
    r.mask == c.recorded (.tbrp tbrp0)) = true := by decide +kernel
def tget0 : FmtS := { s0 with d := 8, sel := 3, o := 1 }
theorem test_premises_tget : peeks (.tget tget0) valued (fun _ r => r.type == 0 && r.site == 3 && r.words == 1 &&
    r.mask == 1 && r.deltas == [5, 6]) = true := by decide +kernel
/-- Nothing is claimed, locked or damaged. -/
def sound (s : State) : Bool :=
  s.jobs.isEmpty && s.hbmBad.isEmpty && (s.dies.all fun d => d.2.lost.isEmpty && d.2.l2.all fun l => l.2.bad.isEmpty) &&
    s.wgs.all fun g => g.2.warps.all fun w => w.txns.all fun t => t.2.locks.isNone

theorem sound_badByte {s : State} (h : sound s = true) (pa : Nat) : s.badByte pa = false := by
  simp only [sound, Bool.and_eq_true, List.isEmpty_iff, List.all_eq_true] at h
  obtain ⟨⟨⟨-, hb⟩, hd⟩, -⟩ := h
  have hdie : ∀ n, (s.die n).lost = [] ∧ ∀ l ∈ (s.die n).l2, l.2.bad = [] := fun n => by
    simp only [State.die, Sparse.get]
    cases hf : s.dies.look n with
    | none => exact ⟨rfl, fun l hl => absurd hl (List.not_mem_nil)⟩
    | some d => exact hd _ (Sparse.mem_of_look hf)
  unfold State.badByte State.lostLine State.l2Line
  cases hf : (s.die (homeDie (pa / 128 * 128))).l2.find? fun p => p.1 == pa / 128 with
  | none => simp [(hdie _).1, hb]
  | some p => simp [(hdie _).2 p (List.mem_of_find?_eq_some hf)]

theorem sound_lockedLoc {s : State} (h : sound s = true) (x : Loc) : s.lockedLoc x = false := by
  simp only [sound, Bool.and_eq_true, List.isEmpty_iff, List.all_eq_true] at h
  cases x with
  | block u n => rfl
  | line n =>
    simp only [State.lockedLoc, State.lockHolder]
    rw [Option.isSome_eq_false_iff, Option.isNone_iff_eq_none, List.head?_eq_none_iff]
    simp only [List.flatMap_eq_nil_iff, List.filterMap_eq_nil_iff]
    intro g hg w hw t ht
    rw [Option.isNone_iff_eq_none.mp (h.2 g hg w.1 (List.fst_mem_of_mem_zipIdx hw) t ht)]

theorem sound_claimed {s : State} (h : sound s = true) (u i n : Nat) (a : Option Nat) (locs : List Loc) :
    s.claimed u i n a locs = false := by
  have hj : s.jobs = [] := by
    simp only [sound, Bool.and_eq_true, List.isEmpty_iff] at h
    exact h.1.1.1
  simp [State.claimed, hj, sound_lockedLoc h]

/-- A run that an engine may read: its pages translate to HBM and nothing about them is claimed, locked or damaged. -/
def readable (o : Oxbow) (s : State) (va len : Nat) : Bool :=
  let pages (s : State) := s.enginePages o.core o.ctx o.priv .engineRead (pagesOf va len)
  canonicalRun va len && match pages s with
    | (.ok _, s₁) => sound s₁ && (match pages s₁ with
      | (.ok ps, s₂) => sound s₂ && ps.all fun p => p.2.pa / 65536 * 65536 + 65536 ≤ 2 ^ 50
      | _ => false)
    | _ => false

theorem read_readable {o : Oxbow} {s : State} {va len : Nat} (h : readable o s va len = true) :
    ∃ bs t, o.read s va len = .ok (bs, t) := by
  simp only [readable, Bool.and_eq_true] at h
  obtain ⟨hc, h⟩ := h
  split at h
  · rename_i ps s₁ h₁
    simp only [Bool.and_eq_true] at h
    obtain ⟨hs₁, h⟩ := h
    split at h
    · rename_i qs s₂ h₂
      simp only [Bool.and_eq_true, List.all_eq_true, decide_eq_true_eq] at h
      have hfind : (physBytes qs va len).find? s₂.badAddr = none := by
        rw [List.find?_eq_none]
        intro a ha
        simp only [physBytes, List.mem_filterMap, Option.map_eq_some_iff] at ha
        obtain ⟨i, -, p, hp, rfl⟩ := ha
        have := h.2 p (List.mem_of_find?_eq_some hp)
        have hpeer : isPeer (p.2.pa / 65536 * 65536 + (va + i) % 65536) = false := by
          simp only [isPeer, Bool.and_eq_false_iff, decide_eq_false_iff_not]
          omega
        simp [State.badAddr, hpeer, sound_badByte h.1]
      have hlock : ((physBytes qs va len).map locOf).any s₂.lockedLoc = false := by
        simp [sound_lockedLoc h.1]
      simp only [Oxbow.read, hc, State.engineAddrs, h₁, Oxbow.waitsAt, sound_claimed hs₁, State.engineRead, h₂, hfind, hlock,
        Bool.not_true, Bool.false_eq_true, if_false]
      exact ⟨_, _, rfl⟩
    · cases h
  · cases h

/-- What `trev` reads: the control block, the chunk's end, the references; and a record stands in the chunk, or it is
the first one. -/
def turns (c : Ctx) (b : Bound) : Bool :=
  match c.oxbow.read c.s b.block 64 with
  | .ok (bs, s₀) =>
    let found := Bound.ofBits b.block (natOfBytes bs) b.privileged
    (match c.oxbow.end_ s₀ found.cur with
    | .ok (off, s₁) => (off != 32 || found.cur == found.first) && readable c.oxbow s₁ (b.block + 64) 32768
    | _ => false)
  | _ => false

theorem test_premises_trev : boundB (.trev s0) (inState 2 marked) (fun c b => b.state == 2 && turns c b) = true := by
  decide +kernel

theorem test_premises_trev_back {o : Oxbow} {s : State} {b : Bound} (hb : b.off ≠ 32 ∨ b.cur = b.first)
    (h : readable o s (b.block + 64) 32768 = true) :
    ∃ b₂ s₂ b', o.loadRefs s b = .ok (b₂, s₂) ∧ o.cross chainFuel [] s₂ b₂ = .ok (some b', s₂) := by
  obtain ⟨bs, t, hr⟩ := read_readable h
  obtain ⟨n, hn⟩ : ∃ n, chainFuel = n + 1 := ⟨chainFuel - 1, by unfold chainFuel; omega⟩
  have hl : ∃ refs, o.loadRefs s b = .ok ({ b with refs := refs }, t) := by
    unfold Oxbow.loadRefs
    rw [hr]
    exact ⟨_, rfl⟩
  obtain ⟨refs, hl⟩ := hl
  rw [hl, hn]
  by_cases h32 : b.off = 32
  · exact ⟨_, t, { b with refs := refs, state := 4 }, rfl,
      by simp [Oxbow.cross, h32, hb.resolve_left (not_not_intro h32)]⟩
  · exact ⟨_, t, { b with refs := refs }, rfl, by simp [Oxbow.cross, h32]⟩

theorem test_premises_tape_none : issuesB (.tclose { s0 with guard := none2 }) base = true ∧
    (ctxOf base).any (fun c => c.execs (.tclose { s0 with guard := none2 }) == 0) = true := by decide +kernel
theorem test_premises_tstat : boundB (.tstat { s0 with d := 8, sel := 7 }) opened (fun _ b => b.state != 3) = true ∧
    boundB (.tstat { s0 with d := 8, sel := 6 }) marked (fun _ b => b.state == 3) = true := by decide +kernel
/-- File 04, Worked record: delta words 0, 0x80 and 0x10000. -/
theorem test_pack : packBytes [0, 0, 0, 0, 0x80, 0, 0, 0, 0, 0, 1, 0] = [0x10, 0x80, 0x04, 1] := by decide

/-! System instructions. -/

def sread0 (n : BitVec 16) : FmtS := { s0 with d := 8, sel := n }
theorem test_premises_sread : (ctxOf base).any (fun c => (List.range 1024).any fun n => (c.wide64 n).isSome &&
    c.wide64 (n + 1) == none && issuesB (.sread (sread0 (BitVec.ofNat 16 n))) base &&
      issuesB (.sread (sread0 (BitVec.ofNat 16 (n + 1)))) base &&
      let t := run (.sread (sread0 (BitVec.ofNat 16 n))) base
      issuesB (.sread (sread0 (BitVec.ofNat 16 (n + 1)))) t &&
        (warp t).any fun w => (w.latches.look n).isSome) = true := by decide +kernel
theorem test_premises_sread_single : issuesB (.sread (sread0 0)) base = true ∧
    (ctxOf base).any (fun c => c.wide64 0 == none && c.execs (.sread (sread0 0)) != 0) = true := by decide +kernel
theorem test_premises_swrite : ([0x300, 0x301, 0x302, 0x380, 0x381] : List (BitVec 16)).all (fun n =>
    issuesB (.swrite { s0 with a := 8, sel := n }) base && (ctxOf base).any fun c =>
      (lowest (c.execs (.swrite { s0 with a := 8, sel := n }))) == some 0) = true := by decide +kernel
def pendingHandler : State := run (.swrite { s0 with a := 8, sel := 0x300 }) base
theorem test_premises_handler : issuesB (.swrite { s0 with a := 8, sel := 0x301 }) pendingHandler = true ∧
    (warp pendingHandler).any (fun w => w.hndPending == some 0) = true ∧
    (warp base).any (fun w => w.hndPending == none) = true := by decide +kernel
theorem test_premises_sleep : issuesB (.sleep { s0 with a := 8 }) base = true ∧
    issuesB (.sleep { s0 with a := 8 }) (withRegs base [(8, 0xFFFFFFFF)]) = true := by decide +kernel
def perfsel0 : FmtS := { s0 with a := 8, sel := 1 }
theorem test_premises_perfsel : issuesB (.perfsel perfsel0) (withRegs base [(8, 10)]) = true ∧
    issuesB (.perfsel perfsel0) (withRegs base [(8, 11)]) = true ∧
    (ctxOf base).any (fun c => lowest (c.execs (.perfsel perfsel0)) == some 0) = true := by decide +kernel
def caprd0 : FmtS := { s0 with d := 0xE6, a := 0xE4, b := 0xE8, c := 0xE9 }
/-- No capsule is being sealed, and a slice has entries for the line: the area's last 128 bytes; a range past it, an address between lines, a sealing. -/
theorem test_premises_caprd : (let s := withRegs near [(32776, 134217600), (32777, 128)]
    issuesB (.caprd caprd0) s && (ctxOf s).any fun c => c.execs (.caprd caprd0) != 0 && c.quiet &&
      caprdStatus (s.frozen && s.capsule.isNone) 134217600 128 131072 == 0 &&
      match (c.s.claimPages c.g.core c.g.ctx c.privileged 131072 128).1 with
      | .ok pages => (pages.all fun m => !inReserve m.pa) &&
          c.s.ownersFull (pages.map fun m => lineClaim m 131072 128) == none
      | .error _ => false) = true ∧
    caprdStatus false 134217600 256 131072 = 1 ∧ caprdStatus false 0 128 131136 = 2 ∧ caprdStatus true 0 128 131072 = 3 := by
  decide +kernel

/-! Launches, jobs, fault entries. -/

def launch0 : FmtS := { s0 with d := 8, a := 0xE4, sel := 5 }
theorem test_premises_launch : ∃ c, Issues (.launch launch0) near c ∧ lanesOf (c.execs (.launch launch0) &&& ~~~c.w.helpers) ≠ [] ∧
    c.quiet = true ∧ near.frozen = false ∧ near.claimed c.uid c.wi near.order (c.sp.arrived.map (·.1))
      (c.launchLocs launch0 (lanesOf (c.execs (.launch launch0) &&& ~~~c.w.helpers))) = false := meets (by decide +kernel)
theorem test_premises_launch_none : ∃ c, Issues (.launch { launch0 with guard := none2 }) near c ∧
    lanesOf (c.execs (.launch { launch0 with guard := none2 }) &&& ~~~c.w.helpers) = [] := meets (by decide +kernel)

/-- A job of a kind that nothing holds off. -/
def jobB (s : State) (p : Nat → WorkGroup → Job → Bool) : Bool :=
  s.jobs.any fun x => s.jobReady x.2 && (s.wgs.look x.2.wg).any fun g => p x.1 g x.2
theorem test_premises_cpa_job : jobB copying (fun n g j => match j.kind with
    | .cpa lanes _ _ => (copying.copyRuns g n j.runs).1 == .ok && lanes.all fun x => x.object == none
    | _ => false) = true := by decide +kernel
theorem test_premises_request : jobB kickedJob (fun n g j => j.object == none && match j.kind with
    | .copy _ _ _ _ _ => (kickedJob.copyRuns g n j.runs).1 == .ok
    | _ => false) = true := by decide +kernel
/-- The copy of one lane, of `n` bytes. -/
def copyingOne (n : Word) : State := run (.cpa { cpa0 with m := { cpa0.m with guard := ⟨true, false, 2⟩ } })
  (withRegs (copyRegs.modWarp 0 0 fun w => { w with masks := [(2, 1)] }) [(12, n)])
def oneLane (s : State) (p : Nat → WorkGroup → Job → CopyLane → Bool) : Bool := jobB s fun n g j =>
  match j.kind with
  | .cpa lanes next _ => match lanes.drop next with
    | [x] => j.buf == [] && ((List.range 32).all fun k => !s.badAddr (.scratch j.wg (x.dest + k))) && p n g j x
    | _ => false
  | _ => false
theorem test_premises_copy_lane : oneLane (copyingOne 0) (fun _ _ _ x => x.valid == 0) = true ∧
    oneLane (copyingOne 16) (fun n g _ x => x.valid == 16 &&
      ((copyingOne 16).readSource g n (.global x.source) 0 x.valid).1.isOk) = true := by decide +kernel
/-- A copy of 32 bytes within a scratchpad. -/
def scratchCopy : State := { kickedJob with jobs := kickedJob.jobs.map fun p =>
  (p.1, { p.2 with kind := .copy (.scratch 0) (.scratch 524256) [] 32 0 }) }
theorem test_premises_scratch_copy : jobB scratchCopy (fun _ _ j => j.buf == [] && (List.range 32).all fun k =>
    !scratchCopy.badAddr (.scratch j.wg k) && !scratchCopy.badAddr (.scratch j.wg (524256 + k))) = true := by decide +kernel
theorem test_premises_decode_job : jobB decoding (fun n g j => match j.kind with
    | .trdec x next =>
      let r := decoding.decodeRun j.wg g n j.privileged ⟨x.desc, 0⟩ x ((List.range x.count).drop next) none
      r.1 == .ok && r.2.2.merges (streamBytes j.wg x.off (Rec.w x.record) next r.2.1) == none
    | _ => false) = true := by decide +kernel
theorem test_premises_encode_job : jobB encoding (fun _ g j => (match j.kind with
    | .trenc _ _ => true
    | _ => false) && (encoding.die 0).viterbi.length == 1 &&
      (encoding.die (g.core / 64)).viterbi.head? == (encoding.jobs.find? fun p => p.2 == j).map (·.1)) = true := by
  decide +kernel
def capturing : State := run (.caprd caprd0) (withRegs near [(32776, 134217600), (32777, 128)])
theorem test_premises_caprd_job : (jobB capturing (fun _ g j => (g.warps[j.warp]?).any fun w => (w.split? j.split).isSome &&
    match j.kind with
    | .caprd _ len va pages _ _ => ((End.global va).addrs j.wg pages 0 len).length == 128
    | _ => false) && (capturing.die 0).monitors.isEmpty) = true := by decide +kernel


/-! Waits, deadlocks. -/

/-- Cycles pass on die 0. -/
def later (n : Nat) (s : State) : State := s.modDie 0 fun d => { d with cycles := d.cycles + n }
def monitored : State := later 1 (run (.monw monw0) (withRegs near [(32775, 1)]))
theorem test_premises_monitor_timeout : ((monitored.die 0).monitors.head?.any fun p =>
    p.2.woken == none && decide (p.2.until_ ≤ (monitored.die 0).cycles) && decide (if isScalar p.2.d then p.2.d.toNat + 2 ≤ 256 else p.2.d.toNat + 2 ≤ 224) &&
      (monitored.warp? p.2.wg p.2.warp).any fun w => (w.split? p.2.split).isSome) = true := by decide +kernel
def split0 (s : State) : Option Split := (warp s).bind (·.split? 0)
def sleeping : State := later 5 (run (.sleep { s0 with a := 8 }) (withRegs base [(8, 5)]))
theorem test_premises_sleep_over : (split0 sleeping).any (fun sp => sp.wait == some (.sleep 5)) = true ∧
    sleeping.now 0 = 5 := by decide +kernel
theorem test_premises_aged : (split0 (later 4096 base)).any (fun sp => sp.wait == none && !sp.aged &&
    decide (sp.readyAt + ((later 4096 base).ctx 63).ageing ≤ (later 4096 base).now 0)) = true := by decide +kernel
def holding : State := base.modWarp 0 0 fun w => { w with held := [softTrap] }
theorem test_premises_held_delivery : (warp holding).any (fun w => w.nextHeld (holding.unfinished 0 0) == some softTrap &&
    w.txLanes == []) = true := by decide +kernel
def launch9 : Launch := { newLaunch base 63 5 7 probeDesc none 0
  ⟨true, 0, 0, 0, 0, 0, false, [], none, 23, 0, 0, [], [], none⟩ with started := some 0 }
def watched : State := { base.modCtx 63 fun k => { k with watchdog := 1 } with launches := [(0, launch9)], time := 1000000 }
theorem test_premises_watchdog : (watched.launches.look 0).any (fun l => l.started.isSome && !l.watched &&
    (watched.ctx l.ctx).watchdog == 1 && decide (1000000 ≤ watched.running l)) = true ∧
    (warp watched).any (fun w => !w.ended) = true := by decide +kernel
def pending : State := base.modWarp 0 0 fun w => { w with active := false }
/-- Eight active warps that wait, and a ready one. -/
def crowded : State := pending.modWg 0 fun g => { g with warps := g.warps ++ (List.range 8).flatMap fun _ =>
  (g.warps.map fun w => { w with active := true, splits := (w.splits.map fun sp => { sp with wait := some .bar }) }) }
theorem test_premises_swap : (pending.pendingNext (pending.now 0) (pending.warpsOn 0 0)).map (·.2.1) = some 0 ∧
    ((pending.warpsOn 0 0).filter fun p => p.2.2.active).length = 0 ∧
    (crowded.pendingNext (crowded.now 0) (crowded.warpsOn 0 0)).any (fun p =>
      let active := (crowded.warpsOn 0 0).filter fun p => p.2.2.active
      active.length == 8 && !(leavers crowded active p.1 p.2.1 p.2.2).isEmpty) = true := by decide +kernel

def waiting (x : Wait) : State := base.modWarp 0 0 fun w => { w with splits := w.splits.map fun sp => { sp with wait := some x } }
/-- The rest of the object's arrivals never comes. -/
def barred : State := run (.bwait bwait0) (waits 0)
theorem test_premises_deadlock : (barred.wgs.look 0).any (fun g => barred.groupStuck 0 g && g.gang == none && barred.unfinished 0 0 == 0 &&
    g.warps.any fun w => !w.ended && w.splits.any Split.inBarOrBwait && w.txLanes == [] &&
      w.splits.any fun sp => sp.lanes &&& w.live != 0) = true := by decide +kernel
def gangWaits : State := { waiting .gsync with gangs := ganged.gangs }
theorem test_premises_gang_deadlock : (gangWaits.gangs.look 5).any (fun x => gangWaits.gangStuck x && x.members == [0]) =
    true ∧ (warp gangWaits).any (fun w => w.waitsBarrier && w.txLanes == [] && gangWaits.unfinished 0 0 == 0 &&
      w.splits.any fun sp => sp.lanes &&& w.live != 0) = true := by decide +kernel
/-- Half of the lanes in `rwait` on mask 1 and half on mask 2, each mask all lanes. -/
def torn : State := base.modWarp 0 0 fun w => { w with
  masks := [(1, 0xFFFFFFFF), (2, 0xFFFFFFFF)]
  splits := w.splits.flatMap fun sp => [{ sp with lanes := 0xFFFF, wait := some (.rwait 1) },
    { sp with id := 1, lanes := 0xFFFF0000, wait := some (.rwait 2) }] }
theorem test_premises_rejoin_deadlock : (warp torn).any (fun w => w.handler == none && w.fw == none && w.held == [] &&
    !w.splits.isEmpty && w.splits.all Split.waitsRejoin && !w.rejoins (torn.now 0) && w.txLanes == [] && torn.unfinished 0 0 == 0) = true := by
  decide +kernel

/-! Placement, retirement, pre-emption. -/

def queue5 : Queue := ⟨true, 0, 0, 0, 0, 0, false, [9], some 9, 23, 1, 0, [], [], none⟩
/-- A launch of the given descriptor at the head of queue 5, and a partition. -/
def queued (d : Desc) (cores : List Nat) (q : Queue) : State :=
  { base.modCtx 63 fun k => { k with queues := [(5, q)], partition := cores } with
    wgs := [], launches := [(9, { launch9 with desc := d, started := none })], nextUid := 10 }
def single : State := queued probeDesc [0] queue5
theorem test_premises_place : single.unsettled = [] ∧ (single.chosen 0).any (fun h => h.desc.members == 1 && h.launch == 9 &&
    single.singleCore h 0 == some (0, 0) && !single.holdsBack (single.awaiting (.launch 9)) (single.traceLocs h)) = true := by decide +kernel
/-- A queue bound to a trace that holds no entry. -/
def unsettledQueue : State := queued probeDesc [0] { queue5 with trace := 2, bound := true }
theorem test_premises_unsettled : unsettledQueue.unsettled = [(63, 5)] := by decide +kernel
def pair : Desc := { probeDesc with gangW := 2, gridX := 1 }
theorem test_premises_gang_place : (let s := queued pair [0, 1] queue5
    s.restoreOn 0 == none && (s.chosen 0).any fun h => h.desc.members == 2 && !s.noRectangle h &&
      s.gangSpot h == some (0, 0, 0) && (s.ctx h.ctx).physicalDie (((s.ctx h.ctx).rectangle 0 0 0 h.desc).headD 0) == 0 &&
        !s.holdsBack (s.awaiting (.launch h.launch)) (s.traceLocs h)) = true ∧
    (let s := queued pair [0] queue5
     s.restoreOn 0 == none && (s.chosen 0).any fun h => s.noRectangle h && h.desc.members == 2 && h.launch == 9) = true := by
  decide +kernel
def away : State := base.modWg 0 fun g => { g with resident := false }
theorem test_premises_restore : (away.restoreOn 0).isSome = true := by decide +kernel
theorem test_premises_head_aged : (let s := queued pair [0] { queue5 with passed := [(0, 16)] }
    ((s.ctx 63).queues.look 5).any fun q => (s.headOf 63 5 q).isSome && decide (16 ≤ Sparse.get 0 q.passed 0) &&
      !q.aged.contains 0) = true := by decide +kernel
/-- Lanes at the ends of a warp of 30 threads: 28 to 31 are there, 30 and 31 help (R177). -/
theorem test_helpers : let w := newWarp { probeDesc with threads := 30 } 0 0 0 0 0 true
    (w.live, w.helpers) = (0xFFFFFFFF, 0xC0000000) := by decide +kernel
def ended0 : State := run (.exit c0) { base with launches := [(0, launch9)] }
theorem test_premises_retire : ended0.wgs.head?.any (fun p => ended0.spent 0 p.2 && p.2.succ == 0 && p.2.gang == none &&
    p.2.warps.all fun w => w.tape == none) = true ∧ (ended0.launches.look 0).isSome = true := by decide +kernel
/-- The work-group's own descriptor is entry 1 of its successor table. -/
def inherits : State :=
  let s := { cold with mem := cold.mem.setValue 0x012000350000 128 (65536 + 0x2002 * 2 ^ 224 + 31 * 2 ^ 256 +
    224 * 2 ^ 269 + 2 ^ 286) }
  (run (.exit c0) { s with launches := [(0, launch9)] }).modWg 0 fun g =>
    { g with succ := 1, desc := { g.desc with succTab := 0x0C2140550000 } }
theorem test_premises_successor : (inherits.wgs.look 0).any (fun g => inherits.spent 0 g && g.succ == 1 &&
    !inherits.holdsBack (inherits.awaiting (.group 0)) (inherits.succLocs g) &&
    ((inherits.arrives (.group 0)).successor g).1.any fun d => d.warps == 1 && (List.range 4).all fun k =>
      decide (((inherits.others 0 g.core).map fun x => slotsOn x.warps.length x.base k).sum + slotsOn d.warps g.base k ≤ 32)) =
    true := by decide +kernel
def retired : State := { base with launches := [(0, { launch9 with retired := 1 })] }
theorem test_premises_launch_complete : (retired.launches.look 0).any (fun l => l.retired == l.desc.grid &&
    !retired.holdsBack (retired.awaiting (.record 0)) (retired.completionLocs 0 l)) = true := by decide +kernel

def preempting (d : Preempt) (persist saving : Bool) : State :=
  (base.modCtx 63 fun k => { k with preempt := some d }).modWg 0 fun g =>
    { g with desc := { g.desc with persist := persist }, saving := saving }
theorem test_premises_save : (let s := preempting ⟨0, 2000, false, 0⟩ true true
    s.gangMembers 0 == [0] && s.allSavable [0] && (s.wgs.look 0).any fun g => g.desc.persist && g.resident &&
      g.warps.all fun w => w.tape == none) = true := by decide +kernel
theorem test_premises_preempted : (let s := { preempting ⟨0, 2000, false, 0⟩ false false with wgs := [] }
    s.residentOf 63 == [] && (s.ctx 63).preempt == some ⟨0, 2000, false, 0⟩) = true ∧
    (let s := { preempting ⟨0, 2000, false, 0⟩ false false with time := 2000000 }
     (s.ctx 63).preempt.any fun p => !p.done && decide (p.since + p.deadline * 1000 ≤ s.time)) = true := by decide +kernel
/-- Two logical cores of a deterministic context on one physical core: one resident, one saved. -/
def sliced (saving : Bool) : State :=
  let s := base.modCtx 63 fun k => { k with deterministic := true, shape := 1 }
  match s.wgs with
  | [(u, g)] =>
    let g := { g with desc := { g.desc with pool := 0xC000 } }
    { s with wgs := [(u, { g with saving := saving }), (u + 1, { g with resident := false, lcore := 1 })] }
  | _ => s
theorem test_premises_slice : ∀ b : Bool, ((sliced b).slice 63 0 == some (1, [0], [1]) && (sliced true).allSavable [0] &&
    ((sliced b).ctx 63).deterministic && ((sliced b).ctx 63).preempt == none &&
    ((sliced b).wgs.look 1).any fun g => g.image == .intact) = true := by decide +kernel
/-- An image altered while its work-group is saved: the resume refuses it. -/
def altered : State :=
  match (sliced true).alterImage 1 with
  | .next s => s
  | _ => .reset
theorem test_premises_altered : ((sliced true).wgs.look 1).any (fun g => !g.resident) = true ∧
    (altered.wgs.look 1).any (fun g => g.image != .intact) = true ∧
    (altered.restoreOne 1 0).refusedContexts = [63] := by decide +kernel
/-- R410, R411: the forced reset that follows leaves nothing of the context. -/
theorem test_failed_restore : (altered.restoreOne 1 0).failRestores.wgs = [] := by decide +kernel

/-! Commands. -/

/-- Page 63 with one entry in its ring, whose context is 63. -/
def command (s : State) (bits : Nat) : State :=
  { s.setPage 63 { Page.reset with cmdTail := 1 } with mem := s.mem.setValue hostBase 64 (63 * 2 ^ 16 + bits) }
def entry (s : State) : Option Cmd := s.nextCommand 63
theorem test_premises_checks : (let s := command base 0x02
    (entry s).any fun c => c.opcode == 2 && s.ready && s.mayName c && !c.reserved []) = true ∧
    (entry { command base 0x02 with ready := false }).isSome = true ∧
    (let s := { command base 0x02 with contexts := [] }
     (entry s).any fun c => s.mayName c && (s.contexts.look c.ctx).isNone) = true ∧
    (let s := (command base (0x02 + 2 ^ 16 * (2 ^ 6 - 2))).modCtx 63 fun k => { k with privileged := false }
     (entry s).any fun c => !s.mayName c) = true ∧
    (let s := command base (0x02 + 2 ^ 128)
     (entry s).any fun c => s.mayName c && c.reserved []) = true := by decide +kernel
theorem test_premises_bad_opcode : (entry (command base 0)).any (fun c => c.opcode == 0) = true ∧
    (entry (command base 0x12)).any (fun c => c.opcode == 0x12) = true := by decide +kernel
theorem test_premises_completion : Page.reset.hasRoom = true ∧ Page.reset.held = [] ∧
    ({ Page.reset with cplTail := 4096 }).hasRoom = false ∧ ({ Page.reset with cplTail := 4095 }).hasRoom = true := by
  decide +kernel

def accepted (s : State) (opcode : Nat) (operands : List (Nat × Nat)) (p : Cmd → Bool) : Bool :=
  (entry s).any fun c => c.opcode == opcode && s.ready && s.mayName c && !c.reserved operands && p c
/-- The creation block of context 5 at 4,096, its table at 8,192, its bitmap at 12,288 and one key at 16,384. -/
def creating : State :=
  let x := 0x40000 + 2 ^ 64 + 2 ^ 101 + 6 * 2 ^ 384 + 8192 * 2 ^ 512 + 12288 * 2 ^ 576 + 16384 * 2 ^ 640 + 2 ^ 704
  let s := { base with mem := base.mem.setValue (hostBase + 4096) 256 x }
  { s.setPage 63 { Page.reset with cmdTail := 1 } with mem := s.mem.setValue hostBase 64 (1 + 5 * 2 ^ 16 + 4096 * 2 ^ 128) }
theorem test_premises_create : accepted creating 0x01 [(128, 64)] (fun c => (creating.contexts.look c.ctx).isNone) = true ∧
    (entry creating).any (fun c => (creating.hostRead (c.operand 128 64) 256).any fun block =>
      let x := natOfBytes block
      !blockReserved x && (creating.hostRead (entryBits x 576 64) 192).any fun b => !badCreation x (partitionOf b)) = true := by
  decide +kernel
theorem test_premises_create_queues : (entry creating).any (fun c => (creating.hostRead (c.operand 128 64) 256).any fun block =>
    let x := natOfBytes block
    entryBits x 81 1 == 0 && entryBits x 512 64 == 8192) = true ∧
    (creating.hostRead 8192 1024).any (fun b => (queuesOf b false).isSome) = true := by decide +kernel
theorem test_premises_create_keys : (entry creating).any (fun c => (creating.hostRead (c.operand 128 64) 256).any fun block =>
    let x := natOfBytes block
    (creating.hostRead (entryBits x 640 64) (32 * entryBits x 704 5)).isSome) = true := by decide +kernel
/-- An image of zeros is refused; whether one is accepted rests on its signature, which no constant says (log 14). -/
theorem test_premises_load_refused : (let s := command cold (0x03 + 0x0C2140550000 * 2 ^ 128)
    accepted s 0x03 [(128, 64), (192, 64)] fun c => !s.holdsBack (s.awaiting (.page 63))
        (s.loadLocs c.ctx (c.operand 128 64) (c.operand 192 64)) &&
      match ((s.arrives (.page 63)).consume 63).load c.ctx (c.operand 128 64) (c.operand 192 64) with
      | (some (.error _), _) => true
      | _ => false) = true := by decide +kernel
theorem test_premises_unload : (let s := (command base (0x04 + 3 * 2 ^ 128)).modCtx 63 fun k => { k with loads := [(3, ⟨[]⟩)] }
    accepted s 0x04 [(128, 32)] fun c => ((s.ctx 63).loads.look (c.operand 128 32)).isSome) = true := by decide +kernel
theorem test_premises_host_launch : (let s := command single (0x05 + 131072 * 2 ^ 128 + 5 * 2 ^ 192)
    accepted s 0x05 [(128, 64), (192, 6)] fun c => !s.frozen && !s.holdsBack (s.awaiting (.page 63))
      (s.cpLocs c.ctx (c.operand 128 64) 128 ++ s.cpLocs c.ctx (s.recordAddr c.ctx) 128)) = true := by
  decide +kernel
theorem test_premises_pre_empt : (let s := command base 0x06
    accepted s 0x06 [] fun _ => (s.ctx 63).preempt == none) = true := by decide +kernel
theorem test_premises_resume : (let s := command (preempting ⟨0, 2000, true, 5⟩ false false) 0x07
    accepted s 0x07 [(128, 64)] fun c => (s.ctx 63).preempt.any (·.done) && c.operand 128 64 == 0) = true := by decide +kernel
def invalidating : State := command base (0x08 + 65536 * 2 ^ 128 + 2 ^ 192)
theorem test_premises_invalidate : accepted invalidating 0x08 [(128, 64), (192, 32)] (fun c => c.operand 128 64 == 65536 &&
    c.operand 192 32 == 1) = true ∧ ((run (.translationInvalidate 63) invalidating).invals.head?).any (fun p =>
      (run (.translationInvalidate 63) invalidating).settledBefore p.2.ctx p.2.order) = true := by decide +kernel
theorem test_premises_plain_commands : accepted (command base 0x09) 0x09 [] (fun _ => true) = true ∧
    ((run (.instructionCacheInvalidate 63) (command base 0x09)).invals.head?).any (fun p => p.2.code &&
      (run (.instructionCacheInvalidate 63) (command base 0x09)).fetchedBefore p.2.ctx p.2.order) = true ∧
    accepted (command base 0x0A) 0x0A [] (fun _ => true) = true ∧
    accepted (command base (0x0B + (2 ^ 51 - 4096) * 2 ^ 384)) 0x0B [(128, 256), (384, 64)] (fun c =>
      decide (c.operand 384 64 + 4096 ≤ 2 ^ 51)) = true ∧
    accepted (command base 0x0C) 0x0C [] (fun _ => !base.reading && !base.sealing && (base.ctx 63).privileged) = true := by
  decide +kernel
def noted : State := base.modDie 3 fun d => { d with
  faultQ := [(7, ⟨0, 1, 63, 0, 9, 1, 1, 0, 0, 0, false, 0, 0, true⟩)], lost := [(4, 6, List.replicate 128 9)] }
theorem test_premises_resolve : (let s := command noted (0x0D + 3 * 2 ^ 128 + 7 * 2 ^ 133)
    accepted s 0x0D [(128, 17)] fun c => ((s.die (c.operand 128 5)).faultQ.look (c.operand 133 12)).any fun f =>
      f.ctx == c.ctx) = true ∧ (let s := command noted (0x0E + 3 * 2 ^ 128 + 7 * 2 ^ 133)
    accepted s 0x0E [(128, 17)] fun c => ((s.die (c.operand 128 5)).faultQ.look (c.operand 133 12)).isSome) = true := by
  decide +kernel
def heldByFirmware : State := base.modWarp 0 0 fun w => { w with fw := some ⟨[], [], []⟩ }
theorem test_premises_held_warp : (let s := command heldByFirmware 0x0F
    accepted s 0x0F [(128, 18)] fun c => (s.heldWarp c).map (fun x => (x.1, x.2.1)) == some (0, 0)) = true ∧
    (let s := command heldByFirmware 0x10
     accepted s 0x10 [(128, 18)] fun c => (s.heldWarp c).isSome) = true := by decide +kernel
theorem test_premises_lost_line : (let s := command noted (0x11 + 3 * 2 ^ 128 + 4 * 2 ^ 133 + 6 * 2 ^ 139)
    accepted s 0x11 [(128, 56)] fun c => ((s.die (c.operand 128 5)).lost.find? fun p => p.1 == c.operand 133 6 &&
      p.2.1 == c.operand 139 45).any fun p => p.2.2.length == 128) = true := by
  decide +kernel

/-! Fault entries. -/

def fetching : State := base.modCore 0 fun k => k.setSub 0 { (k.sub 0) with frozen := some ⟨63, 512, 0, 0, 0, 65536, 0⟩ }
theorem test_premises_icache : ((fetching.core 0).sub 0).frozen.isSome = true ∧ fetching.holdsBack none [.line 512] = false ∧
    fetching.badAddr (.phys (512 * 128)) = false := by decide +kernel
theorem test_premises_table_walk : (ctxOf { base with cur := some ⟨0, 0, 0, none⟩ }).any (fun c => c.sp.wait == none &&
    c.w.txns == [] && (match (base.translate c.g.core c.g.ctx 131072 .read c.privileged).1 with
      | .ok _ => true
      | .error _ => false) && match (base.translate c.g.core c.g.ctx 0 .read c.privileged).1 with
      | .ok _ => false
      | .error _ => true) = true := by decide +kernel
def missed : State := run (.ld near0) base
theorem test_premises_fault_entry : ((missed.die 0).faultQ.head?.any fun p => !p.2.forwarded && !missed.walkAgain 0 p.1 p.2) = true ∧
    ((missed.die 0).faultQ.head?.any fun p => decide (p.2.time + (missed.ctx p.2.ctx).faultLimit * 1000000 ≤
      { missed with time := 1000000000 }.time)) = true := by decide +kernel
/-- The page has come. -/
def mended : State :=
  let s := missed.modCore 0 fun k => { k with tlb := [] }
  let mem := ((s.mem.setValue 0x4000000000 8 0x0000004000010003).setValue 0x4000010000 8 0x0000004000020003).setValue
    0x4000020000 8 0x000001200035002D
  { s.modCtx 63 fun k => { k with root := 0x4000000000 } with mem := mem }
theorem test_premises_recheck : (mended.die 0).faultQ.head?.any (fun p => mended.walkAgain 0 p.1 p.2) = true := by
  decide +kernel
/-- A park that found no entry. -/
def unnoted : State := (missed.modWarp 0 0 fun w => { w with splits := w.splits.map fun sp =>
    match sp.wait with
    | some (.parked d _ m a ls) => { sp with wait := some (.parked d none m a ls) }
    | _ => sp }).modDie 0 fun d => { d with faultQ := [] }
theorem test_premises_entry_wait : ((unnoted.parkedSplits 0).head?.any fun p => p.entry == none &&
    (freeEntry (unnoted.die 0).faultQ).isSome && (unnoted.wgs.look p.wg).any fun g => (unnoted.warp? p.wg p.warp).isSome &&
      match (unnoted.translate g.core g.ctx p.miss.va p.access true).1 with
      | .ok _ => false
      | .error m => m.type != 5 && unnoted.entryFor 0 g.ctx m) = true := by decide +kernel
/-- Its page has come meanwhile. -/
def unnotedMended : State := { unnoted.modCtx 63 fun k => { k with root := 0x4000000000 } with mem := mended.mem }
theorem test_premises_entry_wait_over : ((unnotedMended.parkedSplits 0).head?.any fun p => p.entry == none &&
    (unnotedMended.wgs.look p.wg).any fun g =>
      match (unnotedMended.translate g.core g.ctx p.miss.va p.access true).1 with
      | .ok _ => true
      | .error _ => false) = true := by decide +kernel
/-- A job that found no entry, at an address whose page is there and at one whose is not. -/
def unnotedJob (va : Nat) : State := { kickedJob with jobs := kickedJob.jobs.map fun p =>
  (p.1, { p.2 with parked := some (0, none, ⟨0, 1, 0, va, 0⟩, .read) }) }
theorem test_premises_job_wait : (unnotedJob 131072).parkedSplits 0 = [] ∧ (((unnotedJob 131072).parkedJobs 0).head?.any
    fun p => p.2.2.1 == none && ((unnotedJob 131072).translate 0 63 131072 .read true).1.isOk) = true ∧
    (((unnotedJob 0).parkedJobs 0).head?.any fun p => p.2.2.1 == none &&
      match ((unnotedJob 0).translate 0 63 0 .read true).1 with
      | .ok _ => false
      | .error m => m.type != 5 && (unnotedJob 0).entryFor 0 63 m) = true := by decide +kernel

/-! Power, the recorder, the host, sessions. -/

theorem test_headroom : [headroomAt 45, headroomAt 95, headroomAt 104, headroomAt 105, headroomAt 112] = [256, 256, 25, 0, 0] ∧
    [budgetAt 256, budgetAt 32, budgetAt 33, budgetAt 0] = [4800, 600, 618, 600] := by decide +kernel
theorem test_premises_clock : (let s := { base with time := 1000000, moduleOver := true }
    decide (700 < (s.die 0).clockMHz) && decide ((s.die 0).stepAt + 1000000 ≤ s.time)) = true ∧
    (let s := { (base.modDie 0 fun d => { d with clockMHz := 1300 }) with time := 10000000 }
     decide ((s.die 0).clockMHz < 1400) && !s.moduleOver && !(s.die 0).limited) = true := by decide +kernel
theorem test_premises_patrol : isHbm 0 = true ∧ dieDistance 0 1 = 1 ∧ dieDistance 0 6 = 1 := by
  decide +kernel
def startingUp : State := { State.reset with powered := true, step_ := 3, time := 30000000000 }
theorem test_premises_bring_up : State.reset.powered = false ∧ startingUp.ready = false ∧ startingUp.error = 0 ∧
    startingUp.resetAt + 30000000000 ≤ startingUp.time ∧ base.powered = true ∧ base.sealing = false := by decide +kernel
theorem test_premises_anchor : (let s := base.modCore 0 fun k => { k with varve := { k.varve with sinceAnchor := 4096, dropped := 1 } }
    (s.core 0).varve.frozen == none && decide (4096 ≤ (s.core 0).varve.sinceAnchor) && (s.core 0).varve.dropped == 1 &&
      (s.core 0).varve.inCycle == 0) = true := by decide +kernel
theorem test_premises_sample : (let s := base.modCore 0 fun k => k.setSub 1 { (k.sub 1) with sample := some ⟨0, 0, 0, 0⟩ }
    ((s.core 0).sub 1).sample.isSome) = true := by decide +kernel
def freezing : State := base.fatal 0 2
theorem test_premises_freeze : base.frozen = false ∧ (base.core 0).varve.frozen = none ∧ (freezing.isFrozen 1) = false ∧
    (nearestOrigin freezing.origins 1).any (fun o => freezing.freezeReaches 1 o) = true := by decide +kernel
/-- Every core frozen, no context left, the origin at core 0. -/
def frozenModule : State := { freezing with contexts := [], cores := (List.range moduleCores).map fun k =>
  (k, { Core.reset with varve := { Varve.reset with frozen := some 0 } }) }
theorem test_premises_seal : frozenModule.frozen = true ∧ frozenModule.capsule = none ∧ frozenModule.origins = [⟨0, 2, 0⟩] := by
  decide +kernel
theorem test_premises_seal_cores : frozenModule.cores.all (fun p => p.2.varve.frozen.isSome) = true ∧
    frozenModule.cores.length = moduleCores := by decide +kernel

theorem test_premises_window : base.barAddr (2 ^ 36 - 64) 64 = some (2 ^ 36 - 64) ∧ base.barAddr (2 ^ 36 - 63) 64 = none ∧
    base.inbound = [] ∧ base.holdsBack (some base.order) (runLocs 131072 4) = false ∧
    (physRun 131072 4).any base.badAddr = false ∧ base.ready = true := by decide +kernel
/-- A write of the host waits in its place, and what comes after it: all but a write with Relaxed Ordering. -/
theorem test_premises_inbound : (let x : Inbound := ⟨none, 131072, some [1], 1, 3, false⟩
    let s := { base with inbound := [x] }
    s.inboundHeld { x with addr := 135168, write := none, order := 4 } && s.inboundHeld { x with order := 5 } &&
      !s.inboundHeld x && !s.inboundHeld { x with addr := 135168, order := 4, relaxed := true }) = true := by decide +kernel
theorem test_premises_peer : (let s := { base with routes := [2] }
    s.routes.contains 2 && !inReserve 131072 && decide (131072 + 4 ≤ hbmTop)) = true ∧
    (let s := { base with peerPending := [(2, 0, 0, 1), (3, 0, 0, 2)] }
     (s.peerPending.find? fun p => p.1 == 2) == some (2, 0, 0, 1)) = true ∧ hbmTop < hbmTop - 3 + 4 := by decide +kernel
theorem test_doorbell_bounds : ((4096 : Word) - 0).toNat ≤ 4096 ∧ 4096 < ((0 : Word) - 1).toNat ∧
    4096 < ((4097 : Word) - 0).toNat := by decide
def session (sent counter : Nat) : Session :=
  ⟨0, 0, 0, some (1, 1000000), counter, 5, [5], sent, 0, [], []⟩
/-- A frame whose tag holds and whose counter is new; one seen; a session at its last counter, and one due for keys. -/
theorem test_premises_frames : (let s := { base with sessions := [(1, session 0 0), (2, session 0 (2 ^ 64 - 1)), (3, session (2 ^ 32) 7)] }
    (s.sessions.look 1).any (fun x => x.sent < 2 ^ 32 && x.txCounter < 2 ^ 64 - 1 && decide (x.rxHigh < 6 + 1024) &&
      !x.rxSeen.contains 6 && x.rxSeen.contains 5) && (s.sessions.look 2).any (fun x => decide (2 ^ 64 - 1 ≤ x.txCounter)) &&
      (s.sessions.look 3).any fun x => decide (2 ^ 32 ≤ x.sent)) = true ∧
    (∀ (x : Session) body, ∃ tag, Config.gcmTag x.rxKey (nonceOf 1 6) body = tag) :=
  ⟨by decide +kernel, fun _ _ => ⟨_, rfl⟩⟩
theorem test_premises_agree : (let s := { base with identityNext := 1, identityLimit := 64 }
    s.ready && (s.sessions.look 1).isNone && decide (s.identityNext < 1048576) && s.identityNext != s.identityLimit) = true := by
  decide +kernel

/-! Errors of memory cells, violations of invariant loads. -/

/-- A location of the data page that an invariant load of launch 9 has read, and that has been written. -/
def broken : State := { base with launches := [(9, { launch9 with invRead := [32768], past := [(32768, [5])] })] }
theorem test_premises_held_values : broken.heldValues 9 131073 = some [5, 0] ∧ broken.heldValues 9 131076 = none := by
  decide +kernel
/-- A write of a location notes what it held (R145). -/
theorem test_remember : (({ base with launches := [(9, { launch9 with started := some 0 })] }.writeBytes
    (valueBytes (.phys 131072) 4 9)).launches.look 9).map (fun l : Launch => Sparse.get [] l.past 32768) = some [0] := by
  decide +kernel
/-- The state after an error of a memory cell. -/
def struck (s : State) (x : Upset) : State := s.upset x
/-- v4 of lane 3, which is register 772, is uncorrectable: an instruction that reads v4 traps for lane 3 alone (R67). -/
def badRegister : State := struck (withRegs base [(772, 7)]) (.register 0 0 772)
theorem test_bad_register : ((ctxOf badRegister).map fun c => c.damaged (.iadd r2)) = some [772] ∧
    (warp (run (.iadd { r2 with f := 4 }) badRegister)).map (fun w => w.fw.map fun h => (h.record.getD 0 0).toNat % 32) =
      some (some 20) := by decide +kernel
/-- The same register is sound once an instruction has written it. -/
theorem test_overwritten : (warp (run (.movi { i0 with d := 4 }) badRegister)).map (·.isDamaged 772) = some false := by decide +kernel
/-- A load that meets a damaged line; a store that does not cover one; a whole line's first location. -/
theorem test_premises_bad_load : (let s := { loading with hbmBad := [4096], dies := [] }
    (warp s).any fun w => (s.core 0).outbound.isEmpty && s.jobs.isEmpty && s.hostEarly.isEmpty && w.producers.any fun p => match p.work with
      | .load lanes _ _ _ _ => w.firstMemory p && lanes.any fun l => !l.zero && l.addrs.any fun a =>
          !servedByte (s.core 0) 0 l a && s.badAddr a
      | _ => false) = true := by decide +kernel
theorem test_premises_bad_write : (let s := { outgoing with hbmBad := [4096], dies := [] }
    ((s.core 0).outbound[0]?).any fun o => s.refusesWrite o &&
      !s.claimed o.wg o.warp o.order o.arrived ((o.op.addrs.map locOf).eraseDups)) = true := by decide +kernel
theorem test_premises_whole_write : (let bs : List StoreByte := (List.range 128).map fun k => ⟨.phys (131072 + k), 1, 7, 0xFF⟩
    let s := base.modCore 0 fun k => { k with outbound := [⟨.bytes bs, 131072, 0, 0, false, true, 0, 0, 3, none, 3⟩] }
    ((s.core 0).outbound[0]?).any fun o => heldBack [] o == false && !s.claimed 0 0 3 none ((o.op.addrs.map locOf).eraseDups) &&
      bs.all fun b => match b.addr with
        | .phys pa => pa / 128 == 1024 && !isPeer pa
        | .scratch _ _ => false) = true := by decide +kernel
theorem test_premises_bad_fetch : (let s := struck { fetching with mem := [(65536, 1)], dies := [] } (.hbm 2048)
    s.badAddr (.phys (512 * 128)) && !s.holdsBack none [.line 512] && ((s.core 0).sub 0).frozen.isSome) = true := by decide +kernel
theorem test_premises_bad_tile : (let s := struck (reading.modWg 0 fun g => { g with tiles := [(4096, 7)] }) (.tile 0 4096)
    workB s fun g op => g.badTile 1 (fun e => op.elems.any fun x => x.2.1 == e) && (g.warps[op.warp]?).any fun w =>
      w.matFaults.isEmpty) = true := by decide +kernel
/-- A line in HBM alone, one dirty in its slice with HBM behind it, one clean there. -/
def lined (y : L2Line) : State := { base with mem := [(131072, 1)] }.modDie (homeDie 131072) fun d => { d with l2 := [(1024, y)] }
theorem test_premises_upsets : (let s := { base with mem := [(131072, 1)], dies := [] }
    (s.inHbm 1024).any (· != 0) && (s.inHbm 1025).all (· == 0) && s.l2Line 1024 == none && isHbm (4096 * 32) &&
      (s.upset (.hbm 4096)).badByte 131072 && s.powered && !s.frozen && (s.warp? 0 0).isSome) = true := by decide +kernel
theorem test_premises_l2_upsets : ((lined ⟨true, false, List.replicate 128 0, []⟩).l2Line 1024).any (·.dirty) = true ∧
    ((lined ⟨false, false, [], []⟩).l2Line 1024).any (fun y => !y.dirty) = true ∧
    ((lined ⟨true, false, List.replicate 128 0, [2]⟩).l2Line 1024).any (fun y => y.dirty && y.bad != []) = true := by
  decide +kernel
theorem test_premises_full_table : (let n := 1024
    let s := base.modDie (homeDie (n * 128)) fun d => { d with lost := List.replicate 17 (homeSlice (n * 128), 7, []) }
    ((s.die (homeDie (n * 128))).lostIn (homeSlice (n * 128))).length == 17 && !s.frozen) = true := by
  decide +kernel

/-! A step; memory. -/

/-- `add` of two registers at the program counter: its turn runs it. -/
def stepping : State := { State.reset.withFetchWord 64 0x1C0004080C000000 with powered := true }
theorem test_premises_step : (match stepping.agenda with
    | .issue 0 0 :: rest =>
      let s₁ := (State.unblock { stepping with agenda := rest } 0 0).promote 0 0
      match s₁.choices 0 0 with
      | x :: _ => (ctxOf { s₁ with cur := some ⟨x.wg, x.warp, x.split, none⟩ }).any fun c => match
          (State.fetch { s₁ with cur := some ⟨x.wg, x.warp, x.split, none⟩ } c).1 with
        | .ok ws => match decodeWords ws with
          | .ok (i, _) => i == .iadds { r2 with d := 1, a := 2, b := 3 } && c.sp.wait == none
          | .error _ => false
        | .error _ => false
      | [] => false
    | _ => false) = true := by decide +kernel
theorem test_step_runs : (match step stepping with
    | .next t => (split0 t).map (·.pc)
    | _ => none) = some 65544 := by decide +kernel
theorem test_premises_event : (match exec .powerLoss base, exec (.gangPlace 0) base with
    | .next _, .fault .notEnabled => true
    | _, _ => false) = true := by decide +kernel
theorem test_premises_canonical : State.reset.mem.wf = true ∧ stepping.mem.wf = true := by decide +kernel

end Sys2Proof.Tests
end

section
/-! SUPPORT. Loads of an instruction in the states that they meet: what they change of the state, and when nothing holds
them. -/

namespace Sys2Proof.Machine

/-! ### The shared updates -/

theorem State.look_modWg_self {s : State} {u : Nat} {g : WorkGroup} (f : WorkGroup → WorkGroup)
    (h : s.wgs.look u = some g) : (s.modWg u f).wgs.look u = some (f g) := by
  unfold State.modWg
  rw [h]
  exact State.look_setWg_self ..

theorem CoresAlone.foldl {α : Type} {f : State → α → State} (h : ∀ s x, CoresAlone s (f s x)) (xs : List α) (s : State) :
    CoresAlone s (xs.foldl f s) := by
  induction xs generalizing s with
  | nil => rfl
  | cons x r ih => exact (h s x).trans (ih _)

theorem fillL1_alone (s : State) (core line : Nat) (inv : Option Nat) (stream : Bool) :
    CoresAlone s (s.fillL1 core line inv stream) := by
  unfold State.fillL1
  split <;> rfl

/-- A load without an acquire leaves its traces in the caches of its core alone. -/
theorem afterLoad_alone (s : State) (core launch : Nat) (inv : Bool) (hint : Nat) (homes hits misses : List Nat) :
    CoresAlone s (s.afterLoad core launch inv 0 hint homes hits misses) :=
  ((CoresAlone.foldl (fun s line => (rfl : CoresAlone s (s.dropLine core line))) homes s).trans
    (.foldl (fun s line => (rfl : CoresAlone s (s.modCore core fun k => k.touch line false))) hits _)).trans
    (.foldl (fun s line => fillL1_alone s core line _ _) misses _)

/-- Plain loads of a warp change caches and what a line's leaving its slice damages, and count their misses. -/
theorem loadTargets_eq (c : Ctx) (s : State) (ts : List Target) : ∃ k t n,
    Homed s k ∧ CoresAlone k t ∧ (c.loadTargets s ts).2 = t.modWg c.uid fun g => g.count 4 n :=
  ⟨_, _, _, touchLines_homed .., afterLoad_alone .., rfl⟩

/-- They leave memory and time as they were, and of their work-group all but its counters. -/
theorem loadTargets_frame (c : Ctx) (s : State) (ts : List Target) :
    (c.loadTargets s ts).2.mem = s.mem ∧ (c.loadTargets s ts).2.time = s.time ∧
    ∀ g, s.wgs.look c.uid = some g → ∃ n, (c.loadTargets s ts).2.wgs.look c.uid = some (g.count 4 n) := by
  obtain ⟨k, t, n, hk, ht, he⟩ := loadTargets_eq c s ts
  unfold Homed at hk
  unfold CoresAlone at ht
  rw [he, State.modWg_mem, State.modWg_time, ht, hk]
  exact ⟨rfl, rfl, fun g hg => ⟨n, State.look_modWg_self (fun g => g.count 4 n) hg⟩⟩

/-- The state that an instruction's loads leave: what `reached` and `loadTargets` change together. -/
theorem reached_loadTargets_frame {s : State} {c : Ctx} (hc : ctxOf s = some c) (h : Nat → How) (space : Nat)
    (xs : List Span) :
    let r := c.reached h space xs
    let d := c.loadTargets r.2.s r.1
    d.2.mem = r.2.s.mem ∧ d.2.time = c.s.time ∧ ∃ n, d.2.wgs.look c.uid = some (c.g.count 4 n) := by
  intro r d
  obtain ⟨_, _, hg, _⟩ := ctxOf_parts hc
  obtain ⟨hm, ht, hw⟩ := loadTargets_frame c r.2.s r.1
  have hn : Near c.s r.2.s := targets_near ..
  unfold Near at hn
  refine ⟨hm, ht.trans (by rw [hn]), hw c.g ?_⟩
  rw [hn, ctxOf_state hc]
  exact hg

/-! ### When nothing holds an access -/

/-- Targets whose data is sound meet no error (R67). -/
theorem eccTrap_sound {c : Ctx} {ts : List Target} (h : ∀ t ∈ ts, ∀ a ∈ t.addrs, c.s.badAddr a = false) :
    c.eccTrap ts = none := by
  have hb : (ts.filter fun t => t.addrs.any c.s.badAddr) = [] := by
    simpa [List.filter_eq_nil_iff] using h
  unfold Ctx.eccTrap
  rw [hb]

theorem eccTrap_getD {c : Ctx} {ts : List Target} (h : ∀ t ∈ ts, ∀ a ∈ t.addrs, c.s.badAddr a = false) (go : Res) :
    (c.eccTrap ts).getD go = go := by
  rw [eccTrap_sound h]
  rfl

/-- A read whose warp and core have nothing outstanding, at lines that nothing claims, goes on (R126, R141). -/
theorem reachRead_unclaimed {c : Ctx} {ts : List Target} (hr : c.w.reading = false) (hs : c.storesTo ts = false)
    (hu : c.Unclaimed ts) (go : Res) : c.reachRead ts go = go := by
  obtain ⟨hc, hb⟩ := hu
  simp [Ctx.reachRead, Ctx.claimsThen, hr, hs, hc, eccTrap_getD hb]

end Sys2Proof.Machine
end

section
/-! SUPPORT. The bits and values of windows, and the instructions that write and read window registers (R100 to R102, R353,
R355). -/

namespace Sys2Proof.Machine

/-! ### Windows and values -/

theorem Window.step_pos (x : Window) : 0 < x.step := Nat.succ_pos _

theorem Window.window_lt (x : Window) (group i : Nat) : x.window group i < 2 ^ x.length :=
  Nat.mod_lt _ (Nat.two_pow_pos _)

/-- A window reads its group as a ring of bits (R100). -/
theorem Window.testBit_window (x : Window) {group i b : Nat} (hg : group < 2 ^ (x.groupSize * x.step))
    (hi : i < x.groupSize) (hb : b < x.length) (hl : x.length ≤ x.groupSize * x.step) :
    (x.window group i).testBit b = group.testBit ((i * x.step + b) % (x.groupSize * x.step)) := by
  have hlt : i * x.step < x.groupSize * x.step := Nat.mul_lt_mul_of_pos_right hi x.step_pos
  unfold Window.window
  dsimp only
  generalize x.groupSize * x.step = n at *
  generalize i * x.step = p at *
  have hlow : group / 2 ^ p < 2 ^ (n - p) := by
    rw [Nat.div_lt_iff_lt_mul (Nat.two_pow_pos p), ← pow_add, Nat.sub_add_cancel hlt.le]
    exact hg
  rw [Nat.testBit_mod_two_pow, decide_eq_true hb, Bool.true_and, Nat.add_comm, Nat.mul_comm,
    Nat.testBit_two_pow_mul_add _ hlow]
  split
  · next h => rw [Nat.testBit_div_two_pow, Nat.mod_eq_of_lt (by omega), Nat.add_comm]
  · next h => rw [Nat.mod_eq_sub_mod (by omega), Nat.mod_eq_of_lt (by omega)]; congr 1; omega

/-- A weight of a computed window (R101, R102). -/
theorem weight_computed (s : State) (u : Nat) {x : Window} (slots : List Dword) (group i : Nat) (scale : Val)
    (h : x.computed = true) :
    s.weight u x slots group i scale = (Val.ofQ (.ofInt (computedValue (x.window group i)))).mul scale := by
  unfold State.weight State.windowValue
  rw [if_pos h]

theorem toNat_ofNat_mul_ofNat (a k : Nat) : (BitVec.ofNat 32 a * BitVec.ofNat 32 k).toNat = a * k % 2 ^ 32 := by
  rw [BitVec.toNat_mul, BitVec.toNat_ofNat, BitVec.toNat_ofNat, ← Nat.mul_mod]

theorem computedValue_of_hash {win : Nat} {h : BitVec 32} (hh : h.toNat = win * 0x02076F59 % 2 ^ 32) :
    computedValue win = ((h.extractLsb' 0 8).toNat + (h.extractLsb' 8 8).toNat + (h.extractLsb' 16 8).toNat +
      (h.extractLsb' 24 8).toNat : Int) - 510 := by
  unfold computedValue
  rw [← hh]
  simp [Nat.shiftRight_eq_div_pow]

/-- The computed value is the sum of the hash's four bytes less 510 (R101). -/
theorem computedValue_eq (win : Nat) :
    let h : BitVec 32 := BitVec.ofNat 32 win * 0x02076F59
    computedValue win = ((h.extractLsb' 0 8).toNat + (h.extractLsb' 8 8).toNat + (h.extractLsb' 16 8).toNat +
      (h.extractLsb' 24 8).toNat : Int) - 510 :=
  computedValue_of_hash (toNat_ofNat_mul_ofNat win _)

/-! ### wset -/

section
variable (c : Ctx) (f : FmtS)

/-- The descriptor's bytes as each executing lane asks for them. -/
def wsetSpans : List Span := (lanesOf (c.execs (.wset f))).map fun l => ⟨l, c.w.rd64 f.a 0, 32, 32⟩

/-- The one read of the descriptor. -/
def wsetRead : List Target × Ctx := c.reached readHow 0 ((wsetSpans c f).take 1)

/-- What the read gives, and the state it leaves. -/
def wsetLoaded : List (Nat × Nat) × State := c.loadTargets (wsetRead c f).2.s (wsetRead c f).1

/-- The window register that the descriptor describes. -/
def wsetWindow : Window := ⟨BitVec.ofNat 256 (((wsetLoaded c f).1.head?.map (·.2)).getD 0), c.w.rd64 f.a 0⟩

/-- The warp of `wset` with its split at the next instruction. -/
def wsetWarp : Warp := c.w.modSplit c.sp.id fun sp => sp.next (sizeOf (.wset f)) c.now

/-- Nothing keeps `wset` from reading its descriptor. -/
structure WsetReads : Prop where
  lanes : c.execs (.wset f) ≠ 0
  passes : c.failing readHow 0 (wsetSpans c f) = none
  values : c.w.reading = false
  stores : c.storesTo (wsetRead c f).1 = false
  unclaimed : c.Unclaimed (wsetRead c f).1

end

/-- `wset` once it has read its descriptor: the first failing check's trap, or the register written. -/
theorem exec_wset_reads {f : FmtS} {s : State} {c : Ctx} (h : Issues (.wset f) s c) (hr : WsetReads c f) :
    exec (.wset f) s =
      match (wsetWindow c f).cause c.slots c.g.scratchSize with
      | some k => ({ c with s := (wsetLoaded c f).2 } : Ctx).trellisFault (.wset f) k (f.sel.toNat % 8)
      | none => .next (((wsetLoaded c f).2.setWarp c.uid c.wi (wsetWarp c f)).modWg c.uid fun g =>
          { g with windows := g.windows.put (f.sel.toNat % 8) (some (wsetWindow c f)) }) := by
  obtain ⟨hl, hf, hv, hs, hu⟩ := hr
  rw [exec_wset, execWset, issue_of_issues h]
  dsimp only [wsetRead, wsetSpans, Ctx.reached] at hf hs hu
  rw [if_neg hl, hf]
  dsimp only [wsetWindow, wsetLoaded, wsetRead, wsetSpans, Ctx.reached]
  rw [reachRead_unclaimed hv hs hu]
  generalize Window.cause _ _ _ = k
  cases k <;> rfl

theorem wset_without_lanes {f : FmtS} {s : State} {c : Ctx} (h : Issues (.wset f) s c) (hl : c.execs (.wset f) = 0) :
    exec (.wset f) s = .next (c.after (.wset f) c.w) := by
  rw [exec_wset, execWset, issue_of_issues h]
  exact if_pos hl

/-- The state after `wset` installs a window: its register alone is written. -/
theorem wset_installs {f : FmtS} {s : State} {c : Ctx} (h : Issues (.wset f) s c) (hr : WsetReads c f)
    (hx : (wsetWindow c f).cause c.slots c.g.scratchSize = none) :
    ∃ t g w, exec (.wset f) s = .next t ∧ t.mem = (wsetRead c f).2.s.mem ∧ t.wgs.look c.uid = some g ∧
      g.warps[c.wi]? = some w ∧ w.regs = c.w.regs ∧
      ∀ k, g.windows.look k = if k = f.sel.toNat % 8 then some (wsetWindow c f) else c.g.windows.look k := by
  obtain ⟨hm, _, n, hg⟩ := reached_loadTargets_frame h.here readHow 0 ((wsetSpans c f).take 1)
  obtain ⟨_, _, hcg, hw, _⟩ := ctxOf_parts h.here
  unfold State.warp? at hw
  rw [hcg, Option.bind_some] at hw
  have hi : c.wi < c.g.warps.length := (List.getElem?_eq_some_iff.1 hw).1
  have he := exec_wset_reads h hr
  rw [hx] at he
  refine ⟨_, _, wsetWarp c f, he, ?_, State.look_modWg_self _ (State.look_setWarp_self _ hg), ?_, rfl, fun k => ?_⟩
  · rw [State.modWg_mem, State.setWarp_mem]
    exact hm
  · simp [WorkGroup.setWarp, WorkGroup.count, hi]
  · dsimp only [WorkGroup.setWarp, WorkGroup.count]
    exact Sparse.look_put ..

/-- The state after a descriptor's check fails (R359). -/
theorem wset_faults {f : FmtS} {s : State} {c : Ctx} (h : Issues (.wset f) s c) (hr : WsetReads c f) {k : Nat}
    (hx : (wsetWindow c f).cause c.slots c.g.scratchSize = some k) :
    exec (.wset f) s = .next (({ c with s := (wsetLoaded c f).2 } : Ctx).trapped
      { c.trapOf 12 k (c.execs (.wset f)) (some c.sp.pc) with unit := f.sel.toNat % 8 }) := by
  obtain ⟨_, ht, _⟩ := reached_loadTargets_frame h.here readHow 0 ((wsetSpans c f).take 1)
  have ht : (wsetLoaded c f).2.time = c.s.time := ht
  rw [exec_wset_reads h hr, hx]
  simp only [Ctx.trellisFault, Ctx.takes, Ctx.mkTrap, Ctx.trapped, Ctx.trapOf, ht]
  rfl

/-! ### wget -/

/-- The word of a window register that a selector names (Table 16.2). -/
def windowWord (x : Option Window) (item : Nat) : Nat :=
  match x with
  | none => 0
  | some x => if item = 0 then x.desc.toNat / 2 ^ 128 % 2 ^ 32
    else if item = 1 then x.desc.toNat / 2 ^ 160 % 2 ^ 32
    else if item = 2 then x.addr % 2 ^ 32 else x.addr / 2 ^ 32

theorem wget_reads {f : FmtS} {s : State} {c : Ctx} (h : Issues (.wget f) s c) :
    ∃ t, exec (.wget f) s = .next t ∧ c.Result (.wget f) f.d 1
      (fun _ => windowWord (c.g.windows.look (f.sel.toNat % 8)) (f.sel.toNat / 8 % 4)) t := by
  have hd : InRange f.d 1 := inRange_of_use h (useOf_wget c.env f) ⟨_, List.mem_cons_self .., rfl, rfl⟩
  have he : exec (.wget f) s = c.write (.wget f) f.d 1
      fun _ => windowWord (c.g.windows.look (f.sel.toNat % 8)) (f.sel.toNat / 8 % 4) := by
    rw [exec_wget, execWget, issue_of_issues h]
    congr 1
    funext _
    unfold windowWord
    cases c.g.windows.look (f.sel.toNat % 8) with
    | none => rfl
    | some x =>
      have hlt : f.sel.toNat / 8 % 4 < 4 := Nat.mod_lt _ (by omega)
      generalize f.sel.toNat / 8 % 4 = item at hlt
      interval_cases item <;> rfl
  rw [he]
  exact result_write c _ hd _

end Sys2Proof.Machine
end

section
/-! PROOF. Decoding into registers, trellis jobs and their wait (R354, R357 to R361), and the theorem that settles O42. -/

namespace Sys2Proof.Machine

/-! ### Windows in use (R354) -/

/-- Register n holds a window that passes its checks on the sampled records. -/
structure Ctx.Usable (c : Ctx) (n : Nat) (x : Window) : Prop where
  there : c.g.windows.look n = some x
  slots : x.badSlots c.slots = false
  table : x.badTable c.slots c.g.scratchSize = false

theorem windowOf_usable {c : Ctx} {n : Nat} {x : Window} (h : c.Usable n x) (i : Instr) {dest : Bool}
    (hd : dest = false) (go : Window → Res) : c.windowOf i n dest go = go x := by
  obtain ⟨hx, hs, ht⟩ := h
  simp [Ctx.windowOf, hx, hs, ht, hd]

/-! ### The value table -/

/-- The bytes of a window's value lie in the table. -/
theorem mem_valueAddrs {x : Window} {u : Nat} {slots : List Dword} {win : Nat} (hw : win < 2 ^ x.length) {a : Addr}
    (ha : a ∈ x.valueAddrs u slots win) :
    x.computed = false ∧ ∃ off, a = .scratch u off ∧ x.tabOff ≤ off ∧ off < x.tabOff + x.tableBytes slots := by
  unfold Window.valueAddrs at ha
  dsimp only at ha
  split at ha
  · cases ha
  · next hc =>
    obtain ⟨i, hi, rfl⟩ := List.mem_map.1 ha
    rw [List.mem_range] at hi
    refine ⟨by simpa using hc, _, rfl, by omega, ?_⟩
    unfold Window.tableBytes
    generalize Rec.w (slots.getD x.valSlot 0) = w at *
    have hle : win * w + w ≤ 2 ^ x.length * w := by
      rw [← Nat.succ_mul]
      exact Nat.mul_le_mul_right w hw
    generalize 2 ^ x.length * w = n at *
    generalize win * w = p at *
    omega

/-- A byte of a sound run of a scratchpad is sound. -/
theorem badRange_byte {g : WorkGroup} {off len n : Nat} (h : g.badRange off len = false) (h1 : off ≤ n)
    (h2 : n < off + len) : g.badRange n 1 = false := by
  unfold WorkGroup.badRange at *
  rw [List.any_eq_false] at *
  intro d hd
  have := h d hd
  cases d with
  | tile _ => exact this
  | scratch m =>
    simp only [Bool.and_eq_true, decide_eq_true_eq] at this ⊢
    omega

/-! ### trdec (R357) -/

theorem get_setMany_map {α : Type} [DecidableEq α] (d : α) (v : Nat → α) (ks : List Nat) (m : Sparse α) (k : Nat) :
    Sparse.get d (m.setMany d (ks.map fun k => (k, v k))) k = if k ∈ ks then v k else Sparse.get d m k := by
  unfold Sparse.setMany
  induction ks generalizing m with
  | nil => rfl
  | cons a ks ih =>
    rw [List.map_cons, List.foldl_cons, ih]
    by_cases hk : k ∈ ks
    · simp [hk]
    · by_cases ha : k = a
      · subst ha; simp [hk]
      · simp [hk, ha, Sparse.get_set_ne _ _ _ ha]

/-- The counts that a stochastic record's draws raise (R83). -/
theorem draws_drawn (c : Ctx) (r : Dword) (n : Nat) (lanes : List Nat) : c.Draws r n lanes (c.drawn r n lanes) := by
  unfold Ctx.Draws Ctx.drawn
  dsimp only
  split
  · next h =>
    refine ⟨rfl, fun l => ?_⟩
    simp only [h, true_and]
    exact get_setMany_map (0 : Word) (fun l => Sparse.get (0 : Word) c.w.seq l + BitVec.ofNat 32 ((n + 3) / 4)) ..
  · next h => exact ⟨rfl, fun l => by rw [if_neg fun hl => h hl.1]⟩

section
variable (c : Ctx) (f : FmtR) (x : Window)

/-- The spans that the executing lanes of `trdec` ask for: their groups' bytes and scales. -/
def trdecSpans : List Span :=
  (lanesOf (c.execs (.trdec f))).flatMap fun l => x.spans c.slots l (c.w.rd f.a l).toNat

/-- The reads of the lanes that a weight is decoded for. -/
def trdecRead : List Target × Ctx :=
  c.reached readHow 0 ((trdecSpans c f x).filter fun t => (unitsOf f.d (c.execs (.trdec f))).contains t.lane)

/-- What the reads give, and the state they leave. -/
def trdecLoaded : List (Nat × Nat) × State := c.loadTargets (trdecRead c f x).2.s (trdecRead c f x).1

/-- The values of a lane's two spans. -/
def trdecValues (l : Nat) : List Nat := ((trdecLoaded c f x).1.filter fun p => p.1 == l).map (·.2)

/-- The code a lane receives: zero for a helper lane whose read fails (R177). -/
def trdecCode (l : Nat) : Nat :=
  if (badLanes (trdecRead c f x).1).contains l then 0
  else encodeVal (c.record f.f.toNat) (c.laneWeight x (c.w.rd f.a l).toNat (trdecValues c f x l)) (c.draw l 0)

/-- The bytes of the value table that a lane's window selects. -/
def trdecTable (l : Nat) : Target :=
  ⟨l, x.tabOff, if (badLanes (trdecRead c f x).1).contains l then []
    else x.valueAddrs c.uid c.slots
      (x.window ((trdecValues c f x l).getD 0 0) ((c.w.rd f.a l).toNat % x.groupSize)), 0, false⟩

/-- A value table that is read is sound, and no store to a scratchpad is outstanding. -/
def TableReady : Prop :=
  x.computed = true ∨ c.g.badRange x.tabOff (x.tableBytes c.slots) = false ∧
    ∀ e ∈ c.w.storeQ, ∀ a ∈ e.op.addrs, ∃ pa, a = .phys pa

/-- Nothing keeps `trdec` from reading its groups and scales. -/
structure TrdecReads : Prop where
  lanes : c.execs (.trdec f) ≠ 0
  usable : c.Usable (f.c.toNat % 8) x
  ready : TableReady c x
  passes : c.failing readHow 0 (trdecSpans c f x) = none
  values : c.w.reading = false
  stores : c.storesTo (trdecRead c f x).1 = false
  unclaimed : c.Unclaimed (trdecRead c f x).1

end

/-- The value that a lane's window selects meets no error. -/
theorem trdecTable_sound {s : State} {c : Ctx} (hc : ctxOf s = some c) {f : FmtR} {x : Window} (hr : TableReady c x)
    (l : Nat) : ∀ a ∈ (trdecTable c f x l).addrs, (trdecLoaded c f x).2.badAddr a = false := by
  obtain ⟨_, _, n, hg⟩ := reached_loadTargets_frame hc readHow 0
    ((trdecSpans c f x).filter fun t => (unitsOf f.d (c.execs (.trdec f))).contains t.lane)
  have hg : (trdecLoaded c f x).2.wgs.look c.uid = some (c.g.count 4 n) := hg
  intro a ha
  unfold trdecTable at ha
  dsimp only at ha
  split at ha
  · cases ha
  · obtain ⟨hcomp, off, rfl, h1, h2⟩ := mem_valueAddrs (x.window_lt ..) ha
    have hb : c.g.badRange x.tabOff (x.tableBytes c.slots) = false := by
      rcases hr with h | h
      · rw [hcomp] at h; cases h
      · exact h.1
    unfold State.badAddr
    dsimp only
    rw [hg]
    exact badRange_byte (g := c.g) hb h1 h2

/-- No store of the warp to a scratchpad holds the reads of a value table: no address of its queue meets a test that only
those of scratchpads meet, and none does for a computed window. -/
theorem storeQ_ready {c : Ctx} {x : Window} (hr : TableReady c x) {p : Addr → Bool} (hp : ∀ pa, p (.phys pa) = false)
    (hx : x.computed = true → ∀ a, p a = false) : ¬(c.w.storeQ.any fun e => e.op.addrs.any p) = true := by
  simp only [List.any_eq_true, not_exists, not_and, Bool.not_eq_true]
  intro e he a ha
  rcases hr with h | h
  · exact hx h a
  · obtain ⟨pa, rfl⟩ := h.2 e he a ha
    exact hp pa

/-- `trdec` once it has read its groups: a weight per lane, in flight. -/
theorem exec_trdec_reads {f : FmtR} {s : State} {c : Ctx} {x : Window} (h : Issues (.trdec f) s c)
    (hr : TrdecReads c f x) :
    exec (.trdec f) s = ({ c with s := (trdecLoaded c f x).2 } : Ctx).writeLater (.trdec f) f.d
      (recRegs (c.record f.f.toNat)) (trdecCode c f x)
      (c.drawn (c.record f.f.toNat) 1 (unitsOf f.d (c.execs (.trdec f)))) := by
  obtain ⟨hl, hu, ht, hf, hv, hs, hc⟩ := hr
  rw [exec_trdec, execTrdec, issue_of_issues h]
  have hsound := trdecTable_sound (f := f) h.here ht
  dsimp only [trdecTable, trdecLoaded, trdecValues, trdecRead, trdecSpans, Ctx.reached] at hf hs hc hsound ⊢
  rw [if_neg hl, windowOf_usable hu _ rfl, hf]
  dsimp only
  rw [if_neg (storeQ_ready ht (fun _ => rfl) fun h a => by cases a <;> simp [h]), reachRead_unclaimed hv hs hc]
  exact (eccTrap_getD (List.forall_mem_map.2 fun l _ => hsound l) _).trans rfl

theorem trdec_in_flight {f : FmtR} {s : State} {c : Ctx} {x : Window} (h : Issues (.trdec f) s c)
    (hr : TrdecReads c f x) :
    ∃ t w v, exec (.trdec f) s = .next t ∧
      c.Draws (c.record f.f.toNat) 1 (unitsOf f.d (c.execs (.trdec f))) w ∧
      ({ c with s := (trdecLoaded c f x).2 } : Ctx).Later w (.trdec f) f.d (recRegs (c.record f.f.toNat)) v t ∧
      ∀ l ∈ unitsOf f.d (c.execs (.trdec f)), (∀ y ∈ (trdecRead c f x).1, y.lane = l → y.bad = false) →
        v l = encodeVal (c.record f.f.toNat)
          (c.laneWeight x (c.w.rd f.a l).toNat (trdecValues c f x l)) (c.draw l 0) := by
  obtain ⟨t, he, hlater⟩ := later_writeLater { c with s := (trdecLoaded c f x).2 }
    (c.drawn (c.record f.f.toNat) 1 (unitsOf f.d (c.execs (.trdec f)))) (.trdec f) f.d
    (recRegs (c.record f.f.toNat)) (trdecCode c f x)
  refine ⟨t, _, _, (exec_trdec_reads h hr).trans he, draws_drawn .., hlater, fun l _ hb => if_neg ?_⟩
  intro hbad
  obtain ⟨y, hy, hyl⟩ := List.mem_map.1 (List.contains_iff_mem.1 hbad)
  obtain ⟨hy, hyb⟩ := List.mem_filter.1 hy
  rw [hb y hy hyl] at hyb
  cases hyb

/-! ### Jobs (R358, R360) -/

/-- A job that is recorded: under the next name, with what it is given; work-groups and memory stay. -/
theorem addJob_records (c : Ctx) (s : State) (kind : JobKind) (claims : List Claim) :
    let t := (c.addJob s kind claims none).2
    t.wgs = s.wgs ∧ t.mem = s.mem ∧ ∃ j, t.jobs = s.jobs.put s.nextUid (some j) ∧ j.kind = kind ∧ j.claims = claims ∧
      j.wg = c.uid ∧ j.warp = c.wi ∧ j.done = false :=
  ⟨rfl, rfl, _, rfl, rfl, rfl, rfl, rfl, rfl⟩

/-- A trellis job is recorded and counted, queued at the die or not; then the region is closed. -/
theorem startTrellis_eq (c : Ctx) (i : Instr) (s : State) (kind : JobKind) (claims : List Claim) (queue : Bool) :
    let t := (c.addJob s kind claims none).2.modWg c.uid fun g => { g with trellis := g.trellis + 1 }
    ∃ (t' : State) (w : Warp), c.startTrellis i s kind claims queue = .next (t'.setWarp c.uid c.wi w) ∧
      t'.wgs = t.wgs ∧ t'.jobs = t.jobs ∧ t'.mem = t.mem := by
  cases queue with
  | false => exact ⟨_, _, rfl, rfl, rfl, rfl⟩
  | true => exact ⟨_, _, rfl, rfl, rfl, rfl⟩

/-- A meaning that records a trellis job completes with the state that recording it leaves. -/
theorem next_of_startTrellis {r : Res} {c : Ctx} {i : Instr} {s : State} {kind : JobKind} {claims : List Claim}
    {queue : Bool} (hr : r = c.startTrellis i s kind claims queue) :
    ∃ t, r = .next t ∧ c.startTrellis i s kind claims queue = .next t := by
  obtain ⟨t, w, he, _⟩ := startTrellis_eq c i s kind claims queue
  exact ⟨_, hr.trans he, he⟩

theorem startTrellis_records (c : Ctx) (i : Instr) (s : State) (kind : JobKind) (claims : List Claim) (queue : Bool)
    (hg : s.wgs.look c.uid = some c.g) :
    ∃ t g j, c.startTrellis i s kind claims queue = .next t ∧ t.wgs.look c.uid = some g ∧
      g.trellis = c.g.trellis + 1 ∧ t.jobs.look s.nextUid = some j ∧ j.kind = kind ∧ j.claims = claims ∧
      j.wg = c.uid ∧ j.warp = c.wi ∧ j.done = false ∧ t.mem = s.mem := by
  obtain ⟨hw, hm, j, hj, hk, hcl, hwg, hwarp, hd⟩ := addJob_records c s kind claims
  obtain ⟨t, w, he, htw, htj, htm⟩ := startTrellis_eq c i s kind claims queue
  have hcount : t.wgs.look c.uid = some { c.g with trellis := c.g.trellis + 1 } := by
    rw [htw]
    exact State.look_modWg_self _ (hw ▸ hg)
  refine ⟨_, _, j, he, State.look_setWarp_self _ hcount, rfl, ?_, hk, hcl, hwg, hwarp, hd, ?_⟩
  · rw [State.setWarp_jobs, htj, State.modWg_jobs, hj, Sparse.look_put_self]
  · rw [State.setWarp_mem, htm, State.modWg_mem, hm]

theorem trdecn_helpers {f : FmtS} {s : State} {c : Ctx} (h : Issues (.trdecn f) s c)
    (hl : c.execs (.trdecn f) &&& ~~~c.w.helpers = 0) :
    exec (.trdecn f) s = .next (c.afterRegion (.trdecn f) c.w) := by
  rw [exec_trdecn, execTrdecn, issue_of_issues h]
  exact if_pos hl

theorem trenc_helpers {f : FmtS} {s : State} {c : Ctx} (h : Issues (.trenc f) s c)
    (hl : c.execs (.trenc f) &&& ~~~c.w.helpers = 0) :
    exec (.trenc f) s = .next (c.afterRegion (.trenc f) c.w) := by
  rw [exec_trenc, execTrenc, issue_of_issues h]
  exact if_pos hl

section
variable (c : Ctx) (f : FmtS)

/-- The record that `trdecn` decodes to. -/
def trdecnRecord : Dword := c.record (f.sel.toNat / 8 % 16)

/-- The bytes that `trdecn` writes. -/
def trdecnBytes : Nat := ((c.w.rd f.c 0).toNat * Rec.w (trdecnRecord c f) + 7) / 8

end

/-- `trdecn` with a usable window, a record of at most 32 bits and a count of at most 2^20 weights. -/
theorem exec_trdecn_usable {f : FmtS} {s : State} {c : Ctx} {x : Window} (h : Issues (.trdecn f) s c)
    (hl : c.execs (.trdecn f) &&& ~~~c.w.helpers ≠ 0) (hu : c.Usable (f.sel.toNat % 8) x)
    (hw : Rec.w (trdecnRecord c f) ≤ 32) (hc : (c.w.rd f.c 0).toNat ≤ 1048576) :
    exec (.trdecn f) s =
      if (c.w.rd f.c 0).toNat = 0 then .next (c.afterRegion (.trdecn f) c.w)
      else if c.g.scratchSize < (c.w.rd f.a 0).toNat + trdecnBytes c f then
        c.access 0 (c.execs (.trdecn f)) (c.w.rd f.a 0).toNat
      else if !c.quiet then c.block
      else c.startTrellis (.trdecn f) c.s (.trdec (c.trellisRun x (c.w.rd f.b 0).toNat (c.w.rd f.c 0).toNat
        (c.w.rd f.a 0).toNat (trdecnRecord c f) 0 []) 0)
        [blockClaim c.uid (c.w.rd f.a 0).toNat (trdecnBytes c f)] false := by
  rw [exec_trdecn, execTrdecn, issue_of_issues h]
  dsimp only
  rw [if_neg hl]
  exact (windowOf_usable hu _ (decide_eq_false (Nat.not_lt.2 hw)) _).trans (if_neg (Nat.not_lt.2 hc))

/-- `trdecn` of at least one weight whose bytes fit the scratchpad, in a quiet warp, is a job that claims them. -/
theorem exec_trdecn_claims {f : FmtS} {s : State} {c : Ctx} {x : Window} (h : Issues (.trdecn f) s c)
    (hl : c.execs (.trdecn f) &&& ~~~c.w.helpers ≠ 0) (hu : c.Usable (f.sel.toNat % 8) x)
    (hw : Rec.w (trdecnRecord c f) ≤ 32) (hc : (c.w.rd f.c 0).toNat ≤ 1048576) (h0 : (c.w.rd f.c 0).toNat ≠ 0)
    (hs : (c.w.rd f.a 0).toNat + trdecnBytes c f ≤ c.g.scratchSize) (hq : c.quiet = true) :
    exec (.trdecn f) s = c.startTrellis (.trdecn f) c.s (.trdec (c.trellisRun x (c.w.rd f.b 0).toNat
      (c.w.rd f.c 0).toNat (c.w.rd f.a 0).toNat (trdecnRecord c f) 0 []) 0)
      [blockClaim c.uid (c.w.rd f.a 0).toNat (trdecnBytes c f)] false := by
  rw [exec_trdecn_usable h hl hu hw hc, if_neg h0, if_neg (Nat.not_lt.2 hs), if_neg (by simp [hq])]

/-- The claims of the stream bytes that `trenc` writes. -/
def trencClaims (c : Ctx) (f : FmtS) (x : Window) (pages : List PageMap) : List Claim :=
  pages.map fun m => lineClaim m (x.groupAddr (c.w.rd f.b 0).toNat) ((c.w.rd f.c 0).toNat * x.groupBytes)

/-- `trenc` whose window, count, alignment and ranges pass, in a quiet warp, with its pages translated and entries in the
slices for its claims (R55). -/
theorem exec_trenc_claims {f : FmtS} {s s' : State} {c : Ctx} {x : Window} {pages : List PageMap}
    (h : Issues (.trenc f) s c) (hl : c.execs (.trenc f) &&& ~~~c.w.helpers ≠ 0) (hu : c.Usable (f.sel.toNat % 8) x)
    (h0 : 0 < (c.w.rd f.c 0).toNat) (hc : (c.w.rd f.c 0).toNat ≤ 65536) (ha : c.w.rd64 f.a 0 % 4 = 0)
    (ht : c.w.rd64 f.a 0 + 4 * (c.w.rd f.c 0).toNat * x.groupSize ≤ 2 ^ 57)
    (hv : x.groupAddr (c.w.rd f.b 0).toNat + (c.w.rd f.c 0).toNat * x.groupBytes ≤ 2 ^ 57) (hq : c.quiet = true)
    (hp : c.s.claimPages c.g.core c.g.ctx c.privileged (x.groupAddr (c.w.rd f.b 0).toNat)
      ((c.w.rd f.c 0).toNat * x.groupBytes) = (.ok pages, s'))
    (hr : ∀ m ∈ pages, inReserve m.pa = false) (ho : c.s.ownersFull (trencClaims c f x pages) = none) :
    exec (.trenc f) s = c.startTrellis (.trenc f) s' (.trenc (c.trellisRun x (c.w.rd f.b 0).toNat (c.w.rd f.c 0).toNat
      0 0 (c.w.rd64 f.a 0) pages) 0) (trencClaims c f x pages) true := by
  have hres : (pages.any fun m => inReserve m.pa) = false := by simpa [List.any_eq_false] using hr
  unfold trencClaims at ho ⊢
  rw [exec_trenc, execTrenc, issue_of_issues h]
  refine (if_neg hl).trans ((windowOf_usable hu _ rfl _).trans ((if_neg (Nat.not_lt.2 hc)).trans ?_))
  rw [if_neg h0.ne', if_neg (not_not.2 ha), if_neg (Nat.not_lt.2 ht), if_neg (Nat.not_lt.2 hv), if_neg (by simp [hq]), hp]
  dsimp only
  rw [if_neg (by simp [hres]), ho]

/-! ### trwait (R361) -/

/-- Without a failed job, a wait receives none. -/
theorem failedJob_none {s : State} (h : ∀ p ∈ s.jobs, p.2.failed = none) (q : Nat → Job → Bool) :
    s.failedJob q = none := by
  unfold State.failedJob
  rw [List.foldlRecOn (motive := (· = none)) _ _ rfl fun b hb x hx => by
    rw [hb, h x (List.mem_filter.1 hx).1]]
  rfl

/-- The running number that an instruction of a split waits below. -/
def trwaitBefore (c : Ctx) : Nat :=
  match c.sp.wait with
  | some (.trwait n) => n
  | _ => c.s.order

/-- A trellis job of the warp that a wait has to wait for. -/
def Ctx.awaits (c : Ctx) (before : Nat) (p : Nat × Job) : Bool :=
  p.2.isTrellis c.uid c.wi && !p.2.done && decide (p.2.order < before)

theorem exec_trwait_unfailed {f : FmtC} {s : State} {c : Ctx} (h : Issues (.trwait f) s c)
    (hj : ∀ p ∈ s.jobs, p.2.failed = none) :
    exec (.trwait f) s =
      if c.execs (.trwait f) = 0 then .next (c.after (.trwait f) c.w)
      else if s.jobs.any (c.awaits (trwaitBefore c)) then c.waitFor (.trwait (trwaitBefore c))
      else .next (c.after (.trwait f) c.w) := by
  have hs := ctxOf_state h.here
  subst hs
  rw [exec_trwait, execTrwait, issue_of_issues h]
  dsimp only
  rw [failedJob_none hj]
  rfl

theorem trwait_goes_on {f : FmtC} {s : State} {c : Ctx} (h : Issues (.trwait f) s c)
    (hj : ∀ p ∈ s.jobs, p.2.failed = none)
    (hd : c.execs (.trwait f) = 0 ∨ ∀ p ∈ s.jobs, p.2.isTrellis c.uid c.wi = true → p.2.done = true) :
    exec (.trwait f) s = .next (c.after (.trwait f) c.w) := by
  rw [exec_trwait_unfailed h hj]
  rcases hd with hl | hd
  · rw [if_pos hl]
  · have hn : s.jobs.any (c.awaits (trwaitBefore c)) = false := by
      rw [List.any_eq_false]
      intro p hp ha
      simp only [Ctx.awaits, Bool.and_eq_true, Bool.not_eq_true'] at ha
      obtain ⟨⟨hi, hn⟩, _⟩ := ha
      rw [hd p hp hi] at hn
      exact Bool.noConfusion hn
    rw [hn]
    exact ite_self _

theorem trwait_waits {f : FmtC} {s : State} {c : Ctx} (h : Issues (.trwait f) s c)
    (hj : ∀ p ∈ s.jobs, p.2.failed = none) (hl : c.execs (.trwait f) ≠ 0)
    (hw : ∀ n, c.sp.wait ≠ some (.trwait n))
    (he : ∃ p ∈ s.jobs, p.2.isTrellis c.uid c.wi = true ∧ p.2.done = false ∧ p.2.order < s.order) :
    exec (.trwait f) s = .next (c.s.setWarp c.uid c.wi
      (c.w.modSplit c.sp.id fun sp => { sp with wait := some (.trwait s.order) })) := by
  have hs := ctxOf_state h.here
  have hb : trwaitBefore c = s.order := by
    unfold trwaitBefore
    split
    · next n hn => exact absurd hn (hw n)
    · rw [hs]
  have ha : s.jobs.any (c.awaits s.order) = true := by
    obtain ⟨p, hp, hi, hd, ho⟩ := he
    exact List.any_eq_true.2 ⟨p, hp, by simp [Ctx.awaits, hi, hd, ho]⟩
  rw [exec_trwait_unfailed h hj, if_neg hl, hb, if_pos ha]
  rfl

/-! ### The obligation -/

/-- Settles O42, a clause at a time: `wset` and `trdec` once nothing holds their reads, the jobs of `trdecn` and `trenc`
as they are recorded, `trwait` by the jobs before it, and the arithmetic of windows and computed values. -/
theorem trellis : Obligations.Trellis := by
  unfold Obligations.Trellis
  refine ⟨⟨fun f s c h => ⟨wset_without_lanes h, fun hl hf hv hs hu => ?_⟩, fun f s c h => ?_,
    fun f s c x h hl ⟨hx, hb, ht⟩ hr hf hv hs hu => ?_, fun f s c h => trdecn_helpers h,
    fun f s c x h hl ⟨hx, hb, ht⟩ => ?_, fun f s c h => trenc_helpers h,
    fun f s c x pages s' h hl ⟨hx, hb, ht⟩ => ?_, fun c i s kind claims queue hg hw => ?_,
    fun f s c h hj => ⟨trwait_goes_on h hj, trwait_waits h hj⟩⟩,
    fun x group i b => x.testBit_window, fun x => x.window_lt, fun s u x slots group i scale =>
    weight_computed s u slots group i scale, computedValue_eq⟩
  · have hr : WsetReads c f := ⟨hl, hf, hv, hs, hu⟩
    exact ⟨wset_installs h hr, fun k => wset_faults h hr⟩
  · exact wget_reads h
  · exact trdec_in_flight h ⟨hl, ⟨hx, hb, ht⟩, hr, hf, hv, hs, hu⟩
  · intro off count r len hw hc hfit
    refine ⟨fun h0 => (exec_trdecn_usable h hl ⟨hx, hb, ht⟩ hw hc).trans (if_pos h0), fun h0 => ?_⟩
    obtain ⟨hsize, hq⟩ := hfit h0
    exact next_of_startTrellis (exec_trdecn_claims h hl ⟨hx, hb, ht⟩ hw hc h0 hsize hq)
  · intro targets first count va len h0 hc ha htop hv hq hp hr ho
    exact next_of_startTrellis (exec_trenc_claims h hl ⟨hx, hb, ht⟩ h0 hc ha htop hv hq hp hr ho)
  · exact startTrellis_records c i s kind claims queue (hw ▸ hg)

end Sys2Proof.Machine
end

section
/-! SUPPORT. What a write to a barrier object leaves alone, and the arithmetic of its 16 bytes (Table 6.1, R153 to
R156). -/

namespace Sys2Proof.Machine

/-! ### Writes to scratchpads -/

/-- No byte of a write is in memory. -/
def ScratchOnly (bs : List (Addr × Byte × Byte)) : Prop := ∀ b ∈ bs, ∃ u off, b.1 = .scratch u off

theorem scratchOnly_valueBytes (u off n x : Nat) : ScratchOnly (valueBytes (.scratch u off) n x) := by
  intro b hb
  obtain ⟨p, _, rfl⟩ := List.mem_map.1 hb
  exact ⟨u, off + p.2, rfl⟩

/-- What only physical addresses have, the bytes of such a write do not. -/
theorem ScratchOnly.filterMap_addrs {bs : List (Addr × Byte × Byte)} (h : ScratchOnly bs) {α : Type}
    {f : Addr → Option α} (hf : ∀ u off, f (.scratch u off) = none) : (bs.map (·.1)).filterMap f = [] := by
  rw [List.filterMap_eq_nil_iff, List.forall_mem_map]
  intro b hb
  obtain ⟨u, off, he⟩ := h b hb
  rw [he, hf]

theorem putByte_dies (s : State) (a : Addr) (b mask : Byte) : (s.putByte a b mask).dies = s.dies := by
  cases a with
  | phys pa => rfl
  | scratch u off =>
    change (s.modWg u _).dies = _
    rw [modWg_only]

/-- A write to scratchpads reaches no home slice and wakes no monitor. -/
theorem writeBytes_scratch_dies (s : State) {bs : List (Addr × Byte × Byte)} (h : ScratchOnly bs) :
    (s.writeBytes bs).dies = s.dies := by
  have hlines : hbmLines (bs.map (·.1)) = [] := by
    unfold hbmLines
    rw [h.filterMap_addrs fun _ _ => rfl]
    rfl
  unfold State.writeBytes State.writeUnder State.dirtyLines State.testAll
  rw [hlines, h.filterMap_addrs fun _ _ => rfl, List.eraseDups_nil, List.foldl_nil, List.foldl_nil]
  exact List.foldlRecOn (b := s.remember _) bs _ (motive := fun t => t.dies = s.dies) rfl
    fun t ht b _ => (putByte_dies t b.1 b.2.1 b.2.2).trans ht

theorem setBarObj_dies (s : State) (u off : Nat) (o : BarObj) : (s.setBarObj u off o).dies = s.dies :=
  writeBytes_scratch_dies s (scratchOnly_valueBytes u off 16 o.bits)

/-- Writing objects one after another reaches no die. -/
theorem foldl_setBarObj_dies {α : Type} (u : Nat) (off : α → Nat) (o : State → α → BarObj) (xs : List α) (s : State) :
    (xs.foldl (fun t x => t.setBarObj u (off x) (o t x)) s).dies = s.dies :=
  List.foldlRecOn xs _ (motive := fun t => t.dies = s.dies) rfl
    fun t ht x _ => (setBarObj_dies t u (off x) (o t x)).trans ht

/-- The end of an instruction that closes its region and has changed no die: the clock is the one it issued at. -/
theorem doneRegion_of_dies {c : Ctx} {t : State} (h : t.dies = c.s.dies) (i : Instr) (w : Warp) :
    c.doneRegion i t w = .next (({ c with s := t } : Ctx).afterRegion i w) := by
  have hnow : ({ c with s := t } : Ctx).now = c.now := by
    unfold Ctx.now State.now State.die
    rw [h]
  unfold Ctx.doneRegion Ctx.afterRegion
  rw [hnow]

/-! ### The updates of an object and its test -/

theorem BarObj.arrive_eq (o : BarObj) (a e : Nat) : o.arrive a e = BarObj.settle
    { o with pending := if o.pending < a then 0 else o.pending - a, errArr := o.errArr || decide (o.pending < a),
             bytes := if 2 ^ 31 - 1 < o.bytes + e then 0 else o.bytes + e,
             errBytes := o.errBytes || decide (2 ^ 31 - 1 < o.bytes + e) } := by
  unfold BarObj.arrive
  by_cases hp : o.pending < a <;> by_cases hb : (2 ^ 31 - 1 : Int) < o.bytes + e <;>
    simp only [hp, hb, if_true, if_false, decide_true, decide_false, Bool.or_true, Bool.or_false]

theorem BarObj.countDown_eq (o : BarObj) (n : Nat) : o.countDown n = BarObj.settle
    { o with bytes := if o.bytes - n < -(2 ^ 31) then -(2 ^ 31) else o.bytes - n,
             errBytes := o.errBytes || decide (o.bytes - n < -(2 ^ 31)) } := by
  unfold BarObj.countDown
  by_cases h : o.bytes - n < -(2 ^ 31) <;>
    simp only [h, if_true, if_false, decide_true, decide_false, Bool.or_true, Bool.or_false]

theorem BarObj.complete_iff (o : BarObj) (token : Word) : o.complete token = true ↔
    1 ≤ ((o.phase : Int) - token.toNat) % 2 ^ 31 ∧ ((o.phase : Int) - token.toNat) % 2 ^ 31 ≤ 2 ^ 30 - 1 := by
  simp only [BarObj.complete, Bool.and_eq_true, decide_eq_true_eq, Int.le_sub_one_iff]

/-! ### The 16 bytes of an object -/

/-- The fields of the bytes of an object whose fields are in range; the reserved bits are 0 (Table 6.1). -/
theorem BarObj.entryBits_bits {o : BarObj} (hp : o.pending < 2 ^ 16) (hc : o.count < 2 ^ 16) (hph : o.phase < 2 ^ 31) :
    entryBits o.bits 0 16 = o.pending ∧ entryBits o.bits 16 16 = o.count ∧
    entryBits o.bits 32 32 = (BitVec.ofInt 32 o.bytes).toNat ∧ entryBits o.bits 64 31 = o.phase ∧
    entryBits o.bits 95 1 = 0 ∧ entryBits o.bits 96 1 = o.errArr.toNat ∧ entryBits o.bits 97 1 = o.errBytes.toNat ∧
    entryBits o.bits 98 30 = 0 := by
  have hbytes := (BitVec.ofInt 32 o.bytes).isLt
  unfold entryBits BarObj.bits
  cases o.errArr <;> cases o.errBytes <;> simp only [if_true, Bool.false_eq_true, if_false, Bool.toNat_true,
    Bool.toNat_false] <;> omega

/-- An object whose fields are in range reads back from its bytes. -/
theorem BarObj.ofBits_bits {o : BarObj} (hp : o.pending < 2 ^ 16) (hc : o.count < 2 ^ 16) (hl : -(2 ^ 31) ≤ o.bytes)
    (hu : o.bytes < 2 ^ 31) (hph : o.phase < 2 ^ 31) (hm : o.malformed = false) : BarObj.ofBits o.bits = o := by
  have hsigned : (BitVec.ofInt 32 o.bytes).toInt = o.bytes := BitVec.toInt_ofInt_eq_self (by decide) hl hu
  obtain ⟨hpending, hcount, hbytes, hphase, hlow, harr, hover, hhigh⟩ := BarObj.entryBits_bits hp hc hph
  unfold BarObj.ofBits
  rw [hpending, hcount, hbytes, hphase, hlow, harr, hover, hhigh, BitVec.ofNat_toNat, BitVec.setWidth_eq, hsigned]
  cases o
  subst hm
  simp

end Sys2Proof.Machine
end

section
/-! SUPPORT. The instructions of barrier objects in the states that they meet (R150 to R156, R319). -/

namespace Sys2Proof.Machine

/-- The objects that lanes name in a register pass their checks, and nothing holds them (R150, R141, R67). -/
def Ctx.ObjectsReady (c : Ctx) (a : BitVec 8) (lanes : List Nat) : Prop :=
  c.failing readHow 1 (c.objSpans a lanes) = none ∧ c.Unclaimed (c.objTargets (c.objSpans a lanes))

/-- They meet no fault of a wait or a test (R156). -/
def Ctx.ObjectsSound (c : Ctx) (a : BitVec 8) (lanes : List Nat) : Prop := ∀ l ∈ lanes,
  (c.s.barObj c.uid (c.objAt a l)).malformed = false ∧ (c.s.barObj c.uid (c.objAt a l)).errArr = false ∧
    (c.s.barObj c.uid (c.objAt a l)).errBytes = false

/-- A wait or a test of objects that nothing outstanding holds and that meet no fault (R126, R154, R156). -/
structure Ctx.ObjectsTestable (c : Ctx) (a : BitVec 8) (lanes : List Nat) : Prop where
  ready : c.ObjectsReady a lanes
  sound : c.ObjectsSound a lanes
  reading : c.w.reading = false
  stores : c.storesTo (c.objTargets (c.objSpans a lanes)) = false
  jobs : ∀ p ∈ c.s.jobs, p.2.failed = none

/-- The executing lanes of an instruction that are no helper lanes. -/
def Ctx.liveLanes (c : Ctx) (i : Instr) : List Nat := lanesOf (c.execs i &&& ~~~c.w.helpers)

/-! ### The shared checks -/

theorem claimsThen_unclaimed {c : Ctx} {ts : List Target} (h : c.Unclaimed ts) (go : Res) : c.claimsThen ts go = go := by
  obtain ⟨hclaimed, hsound⟩ := h
  unfold Ctx.claimsThen
  rw [hclaimed]
  exact eccTrap_getD hsound go

theorem objects_ready {c : Ctx} {a : BitVec 8} {lanes : List Nat} (h : c.ObjectsReady a lanes)
    (body : List Target → Res) : c.objects a lanes body = body (c.objTargets (c.objSpans a lanes)) := by
  obtain ⟨hpass, _⟩ := h
  unfold Ctx.objects
  dsimp only
  rw [hpass]

/-- Causes that no lane fails for are no fault. -/
theorem causeFault_none {c : Ctx} {a : BitVec 8} {causes : List (Nat × List Nat)} (h : ∀ p ∈ causes, p.2 = []) :
    c.causeFault a causes = none := by
  unfold Ctx.causeFault
  rw [List.findSome?_eq_none_iff]
  intro p hp
  rw [h p hp]

theorem tests_go {c : Ctx} {i : Instr} {a : BitVec 8} {lanes : List Nat} (h : c.ObjectsTestable a lanes) (go : Res) :
    c.tests i a lanes go = go := by
  have hfaults : (lanes.find? fun l => (c.s.barObj c.uid (c.objAt a l)).malformed ||
      (c.s.barObj c.uid (c.objAt a l)).errArr || (c.s.barObj c.uid (c.objAt a l)).errBytes) = none := by
    rw [List.find?_eq_none]
    intro l hl
    obtain ⟨hm, ha, hb⟩ := h.sound l hl
    simp [hm, ha, hb]
  unfold Ctx.tests
  rw [objects_ready h.ready, if_neg (by simp [h.reading, h.stores]), claimsThen_unclaimed h.ready.2,
    failedJob_none h.jobs]
  dsimp only
  rw [hfaults]

section
variable {f : FmtR} {s : State} {c : Ctx}

/-! ### binit and barr -/

/-- `binit` whose lanes pass writes their objects in order and closes the region. -/
theorem exec_binit_ready (h : Issues (.binit f) s c) (hr : c.ObjectsReady f.a (c.liveLanes (.binit f)))
    (hs : c.w.settled = true) (hc : ∀ l ∈ c.liveLanes (.binit f), badCount (c.w.rd f.b l) = false) :
    exec (.binit f) s = .next (({ c with s := (c.liveLanes (.binit f)).foldl (fun s l =>
      s.setBarObj c.uid (c.objAt f.a l) ⟨(c.w.rd f.b l).toNat, (c.w.rd f.b l).toNat, 0, 0, false, false, false⟩) c.s
      } : Ctx).afterRegion (.binit f) c.w) := by
  have hcounts : c.causeFault f.a [(1, (c.liveLanes (.binit f)).filter fun l => badCount (c.w.rd f.b l))] = none :=
    causeFault_none (by simpa using hc)
  unfold Ctx.liveLanes at *
  rw [exec_binit, execBinit, issue_of_issues h]
  dsimp only
  rw [objects_ready hr, hcounts]
  dsimp only
  rw [if_neg (by simp [hs]), claimsThen_unclaimed hr.2]
  exact doneRegion_of_dies (foldl_setBarObj_dies ..) ..

/-- The token of a lane of `barr`: the phase before the arrivals, 0 in a helper lane (R153). -/
def Ctx.barrToken (c : Ctx) (f : FmtR) (l : Nat) : Nat :=
  if (c.participants (.barr f) f.d).contains l then (c.s.barObj c.uid (c.objAt f.a l)).phase else 0

/-- `barr` whose lanes pass makes its arrivals, writes the tokens and closes the region. -/
theorem exec_barr_ready (h : Issues (.barr f) s c) (hr : c.ObjectsReady f.a (c.participants (.barr f) f.d))
    (hs : c.w.settled = true)
    (hc : ∀ l ∈ c.participants (.barr f) f.d, badCount (c.w.rd f.b l) = false ∧ (c.w.rd f.c l).toNat ≤ 2 ^ 31 - 1)
    (hm : ∀ l ∈ c.participants (.barr f) f.d, (c.s.barObj c.uid (c.objAt f.a l)).malformed = false) :
    exec (.barr f) s = .next (({ c with s := (c.arrivals f (c.participants (.barr f) f.d)).foldl (fun s p =>
      s.setBarObj c.uid p.1 ((s.barObj c.uid p.1).arrive p.2.1 p.2.2)) c.s } : Ctx).afterRegion (.barr f)
      (c.writeEach (.barr f) f.d 1 (c.barrToken f))) := by
  have hoperands : c.causeFault f.a [(1, (c.participants (.barr f) f.d).filter fun l => badCount (c.w.rd f.b l)),
      (2, (c.participants (.barr f) f.d).filter fun l => 2 ^ 31 - 1 < (c.w.rd f.c l).toNat)] = none :=
    causeFault_none (by simpa using forall₂_and.1 hc)
  have hfields : c.causeFault f.a [(0, (c.participants (.barr f) f.d).filter fun l =>
      (c.s.barObj c.uid (c.objAt f.a l)).malformed)] = none := causeFault_none (by simpa using hm)
  rw [exec_barr, execBarr, issue_of_issues h]
  dsimp only
  rw [objects_ready hr, hoperands]
  dsimp only
  rw [if_neg (by simp [hs]), claimsThen_unclaimed hr.2, hfields]
  exact doneRegion_of_dies (foldl_setBarObj_dies ..) ..

theorem barr_writes_phase (h : Issues (.barr f) s c) :
    c.Writes c.w (.barr f) f.d 1 (c.barrToken f) (c.writeEach (.barr f) f.d 1 (c.barrToken f)) :=
  writes_wrAll c c.w _ (inRange_of_use h (useOf_barr c.env f) ⟨_, List.mem_cons_self .., rfl, rfl⟩) _

/-! ### bwait and btest -/

/-- `bwait` goes on, an acquire-side event, or waits for the object of the first lane whose test is not complete. -/
theorem exec_bwait_testable (h : Issues (.bwait f) s c) (ht : c.ObjectsTestable f.a (c.liveLanes (.bwait f))) :
    exec (.bwait f) s = ((c.liveLanes (.bwait f)).find? fun l => !c.tokenDone f l).elim
      (.next (c.after (.bwait f) (c.w.sync c.s.order)))
      fun l => c.waitFor (.bwait (c.objAt f.a l) (c.w.rd f.b l)) := by
  unfold Ctx.liveLanes at *
  rw [exec_bwait, execBwait, issue_of_issues h]
  refine (tests_go ht _).trans ?_
  generalize List.find? _ _ = first
  cases first with
  | none => rfl
  | some l => rfl

theorem bwait_goes_on (h : Issues (.bwait f) s c) (ht : c.ObjectsTestable f.a (c.liveLanes (.bwait f)))
    (hdone : ∀ l ∈ c.liveLanes (.bwait f), c.tokenDone f l = true) :
    exec (.bwait f) s = .next (c.after (.bwait f) (c.w.sync c.s.order)) := by
  rw [exec_bwait_testable h ht, List.find?_eq_none.2 (by simpa using hdone)]
  rfl

theorem bwait_waits (h : Issues (.bwait f) s c) (ht : c.ObjectsTestable f.a (c.liveLanes (.bwait f)))
    (hmiss : ∃ l ∈ c.liveLanes (.bwait f), c.tokenDone f l = false) : ∃ off token, exec (.bwait f) s =
      .next (c.s.setWarp c.uid c.wi (c.w.modSplit c.sp.id fun sp => { sp with wait := some (.bwait off token) })) := by
  obtain ⟨l, hl⟩ := Option.isSome_iff_exists.1
    (List.find?_isSome (p := fun l => !c.tokenDone f l).2 (by simpa using hmiss))
  rw [exec_bwait_testable h ht, hl]
  exact ⟨_, _, rfl⟩

theorem btest_writes (h : Issues (.btest f) s c) (ht : c.ObjectsTestable f.a (c.participants (.btest f) f.d)) :
    ∃ t, exec (.btest f) s = .next t ∧
      c.ResultOn (if (c.participants (.btest f) f.d).any (c.tokenDone f) then c.w.sync c.s.order else c.w) (.btest f)
        f.d 1 (fun l => if l ∈ c.participants (.btest f) f.d ∧ c.tokenDone f l = true then 1 else 0) t := by
  have hd : InRange f.d 1 := inRange_of_use h (useOf_btest c.env f) ⟨_, List.mem_cons_self .., rfl, rfl⟩
  rw [exec_btest, execBtest, issue_of_issues h]
  dsimp only
  rw [tests_go ht]
  simp only [Bool.and_eq_true, List.contains_iff_mem]
  split
  · exact ⟨_, rfl, _, rfl, writes_wrAll c (c.w.sync c.s.order) _ hd _⟩
  · exact result_write c _ hd _

end

/-! ### The obligation -/

/-- Settles O35: each instruction by what it does once its checks pass, the updates by their branches, and the object's
bytes field by field. -/
theorem barriers : Obligations.Barriers := by
  unfold Obligations.Barriers
  refine ⟨⟨fun f s c h => exec_binit_ready h, fun f s c h => ?_, fun f s c h => ?_, fun f s c h => ?_⟩,
    fun o => rfl, BarObj.arrive_eq, BarObj.countDown_eq, BarObj.complete_iff, fun o => BarObj.ofBits_bits⟩
  · intro lanes hr hs hc hm
    exact ⟨_, _, exec_barr_ready h hr hs hc hm, barr_writes_phase h, fun l _ => by
      simp only [Ctx.barrToken, List.contains_iff_mem, lanes]⟩
  · intro lanes hr ho hread hstores hj
    have ht : c.ObjectsTestable f.a lanes := ⟨hr, ho, hread, hstores, ctxOf_state h.here ▸ hj⟩
    exact ⟨bwait_goes_on h ht, bwait_waits h ht⟩
  · intro lanes hr ho hread hstores hj
    exact btest_writes h ⟨hr, ho, hread, hstores, ctxOf_state h.here ▸ hj⟩

end Sys2Proof.Machine
end

section
/-! SUPPORT. Writing one register of its own choice in each lane (R229, R230). -/

namespace Sys2Proof.Machine

/-- A uniform instruction names scalar sources only (R230, cause 7 of Table 9.13). -/
theorem isScalar_of_uniform {i : Instr} {s : State} {c : Ctx} (h : Issues i s c) {u : Use}
    (hu : useOf c.env i = some u) {d o : Opnd} (hd : d ∈ u.ops) (ho : o ∈ u.ops) (hw : d.writes = true)
    (hr : o.reads = true) (hs : isScalar d.f = true) : isScalar o.f = true := by
  have hl := h.legal
  unfold causeOf at hl
  split at hl
  · cases hl
  · rw [hu] at hl
    simp only at hl
    repeat' split at hl
    all_goals cases hl
    next huni _ _ =>
    simp only [Bool.or_eq_true, Bool.and_eq_true, List.any_eq_true, Bool.not_eq_true'] at huni
    by_contra hv
    exact huni (.inl ⟨⟨d, hd, hw, hs⟩, o, ho, hr, Bool.eq_false_iff.2 hv⟩)

/-- A vector register belongs to one lane. -/
theorem lane_eq_of_keyOf_eq {a b : BitVec 8} {l m : Nat} (ha : isScalar a = false) (hb : isScalar b = false)
    (e : keyOf a l = keyOf b m) : l = m := by
  simp only [keyOf, ha, hb, Bool.false_eq_true, if_false] at e
  change (_ : Nat) = _ at e
  have := a.isLt
  have := b.isLt
  omega

/-- Writes a register of its own choice in each lane of a list. -/
def Warp.wrLanes (w : Warp) (field : Nat → BitVec 8) (value : Nat → Word) (ls : List Nat) : Warp :=
  ls.foldl (fun w l => w.wr (field l) l (value l)) w

section
variable (w : Warp) (field : Nat → BitVec 8) (value : Nat → Word) (ls : List Nat)

theorem wrLanes_cons (l : Nat) :
    w.wrLanes field value (l :: ls) = (w.wr (field l) l (value l)).wrLanes field value ls := rfl

theorem wrLanes_only : w.wrLanes field value ls =
    { w with regs := (w.wrLanes field value ls).regs, damaged := (w.wrLanes field value ls).damaged } := by
  induction ls generalizing w with
  | nil => rfl
  | cons l ls ih => rw [wrLanes_cons, ih]; rfl

/-- Registers that no lane writes keep their values and check bits. -/
theorem wrLanes_frame {k : RegKey} (hk : ∀ l ∈ ls, k ≠ keyOf (field l) l) :
    Sparse.get (0 : Word) (w.wrLanes field value ls).regs k = Sparse.get (0 : Word) w.regs k ∧
      (w.wrLanes field value ls).isDamaged k = w.isDamaged k := by
  induction ls generalizing w with
  | nil => exact ⟨rfl, rfl⟩
  | cons l ls ih =>
    obtain ⟨hl, hls⟩ := List.forall_mem_cons.1 hk
    obtain ⟨hget, hdam⟩ := ih (w.wr (field l) l (value l)) hls
    rw [wrLanes_cons, hget, hdam, isDamaged_wr, Warp.wr, Sparse.get_set_ne _ _ _ hl]
    simp [hl]

/-- Each lane's register holds its value, when no two lanes write one register. -/
theorem rd_wrLanes (hn : (ls.map fun l => keyOf (field l) l).Nodup) {l : Nat} (hl : l ∈ ls) :
    (w.wrLanes field value ls).rd (field l) l = value l := by
  induction ls generalizing w with
  | nil => cases hl
  | cons m ls ih =>
    obtain ⟨hm, hls⟩ := List.nodup_cons.1 hn
    rw [wrLanes_cons]
    rcases List.mem_cons.1 hl with rfl | hl
    · have hk : ∀ k ∈ ls, keyOf (field l) l ≠ keyOf (field k) k := fun k hk e =>
        hm (List.mem_map.2 ⟨k, hk, e.symm⟩)
      rw [Warp.rd, (wrLanes_frame _ field value ls hk).1]
      exact Sparse.get_set_self ..
    · exact ih _ hls hl

end

/-- The units of execution write distinct registers when every register written is of the kind of `d`. -/
theorem nodup_keys_unitsOf {d : BitVec 8} {field : Nat → BitVec 8} (hf : ∀ l, isScalar (field l) = isScalar d)
    (m : Lanes) : ((unitsOf d m).map fun l => keyOf (field l) l).Nodup := by
  cases hs : isScalar d with
  | true =>
    rw [unitsOf, if_pos hs]
    cases lanesOf m with
    | nil => exact List.nodup_nil
    | cons l ls => exact List.nodup_singleton _
  | false =>
    refine (nodup_unitsOf d m).map_on fun l _ k _ e => lane_eq_of_keyOf_eq ?_ ?_ e
    · rw [hf, hs]
    · rw [hf, hs]

end Sys2Proof.Machine
end

section
/-! PROOF. Exchanges between lanes (R268, R269), and the theorem that settles O10. -/

namespace Sys2Proof.Machine

/-! ### The shared wait (R268) -/

/-- A register that can be read: full, with a sound word. -/
def Warp.Readable (w : Warp) (k : RegKey) : Prop := w.isEmpty k = false ∧ w.isDamaged k = false

/-- An exchange whose sources can be read and whose destinations are full goes on. -/
theorem exchange_ready {c : Ctx} {reads : List (BitVec 8 × Bool × Nat)} {dests : List (BitVec 8)} (i : Instr)
    (go : Res) (hr : ∀ r ∈ reads, c.w.Readable (keyOf r.1 r.2.2))
    (hd : ∀ d ∈ dests, emptyLanes c.w c.sp.lanes (dstOp d 1) = 0) : c.exchange i reads dests go = go := by
  have hfull : (reads.filter fun r => c.w.isEmpty (keyOf r.1 r.2.2)) = [] := by
    rw [List.filter_eq_nil_iff]
    intro r hm
    simp [(hr r hm).1]
  have hdest : (dests.any fun d => emptyLanes c.w c.sp.lanes (dstOp d 1) != 0) = false := by
    rw [List.any_eq_false]
    intro d hm
    simp [hd d hm]
  have hsound : (reads.map fun r => keyOf r.1 r.2.2).filter c.w.isDamaged = [] := by
    rw [List.filter_eq_nil_iff, List.forall_mem_map]
    intro r hm
    simp [(hr r hm).2]
  simp only [Ctx.exchange, hfull, List.find?_nil, List.isEmpty_nil, Bool.not_true, Bool.false_or, hdest, hsound,
    Bool.false_eq_true, if_false]

/-! ### The exchanges that write D with A of a lane (Table 10.8) -/

/-- A shuffle that goes on writes D with A of each lane's source lane. -/
theorem result_shuffle {c : Ctx} {i : Instr} {f : FmtR} {source : Nat → Nat} (hi : InRange f.d 1)
    (hr : ∀ l ∈ unitsOf f.d (c.execs i), c.w.Readable (keyOf f.a (source l)))
    (hd : emptyLanes c.w c.sp.lanes (dstOp f.d 1) = 0) :
    ∃ t, c.shuffle i f source = .next t ∧ c.Result i f.d 1 (fun l => (c.w.rd f.a (source l)).toNat) t := by
  rw [Ctx.shuffle, exchange_ready i _ (List.forall_mem_map.2 hr) (by simpa using hd)]
  exact result_write c i hi _

/-- `p.1` is an exchange that writes D with A of a lane: lane `p.2 W l b c` for lane l with B = b and C = c. -/
structure Shuffles (p : (FmtR → Instr) × (Nat → Nat → Word → Word → Nat)) : Prop where
  meaning : ∀ {f s c}, Issues (p.1 f) s c →
    exec (p.1 f) s = c.shuffle (p.1 f) f fun l => p.2 c.width l (c.w.rd f.b l) (c.w.rd f.c l)
  dest : ∀ {f s c}, Issues (p.1 f) s c → InRange f.d 1

/-- `shflb` reads the lane of Table 10.8. -/
theorem segmentLane_eq (w l : Nat) (b c : Word) : segmentLane l (toSigned b) (segment c.toNat w) =
    (let s := if c = 0 then 1 else 2 ^ Nat.log2 (min c.toNat w)
     let t : Int := l + b.toInt
     if (l - l % s : Nat) ≤ t ∧ t < (l - l % s : Nat) + s then t.toNat else l) := by
  have hc : c.toNat = 0 ↔ c = 0 := by simp [← BitVec.toNat_inj]
  simp only [segmentLane, segment, toSigned, hc]

/-- `qswp` reads a lane of the quad: xor of two positions is a position. -/
theorem quadLane_xor (l b : Nat) : quadLane l (l % 4 ^^^ b % 4) = 4 * (l / 4) + (l % 4 ^^^ b % 4) := by
  have hx : l % 4 ^^^ b % 4 < 2 ^ 2 :=
    Nat.xor_lt_two_pow (Nat.mod_lt l (by decide)) (Nat.mod_lt b (by decide))
  exact congrArg _ (Nat.mod_eq_of_lt hx)

theorem shuffles_shfl : Shuffles (.shfl, fun w _ b _ => b.toNat % w) where
  meaning h := by rw [exec_shfl, execShfl, issue_of_issues h]
  dest h := inRange_of_use h (useOf_shfl ..) ⟨_, List.mem_cons_self .., rfl, rfl⟩

theorem shuffles_shflb : Shuffles (.shflb, fun w l b c => segmentLane l (toSigned b) (segment c.toNat w)) where
  meaning h := by rw [exec_shflb, execShflb, issue_of_issues h]
  dest h := inRange_of_use h (useOf_shflb ..) ⟨_, List.mem_cons_self .., rfl, rfl⟩

theorem shuffles_qswp : Shuffles (.qswp, fun _ l b _ => quadLane l (l % 4 ^^^ b.toNat % 4)) where
  meaning h := by rw [exec_qswp, execQswp, issue_of_issues h]
  dest h := inRange_of_use h (useOf_qswp ..) ⟨_, List.mem_cons_self .., rfl, rfl⟩

theorem shuffles_qbcst : Shuffles (.qbcst, fun _ l b _ => quadLane l b.toNat) where
  meaning h := by rw [exec_qbcst, execQbcst, issue_of_issues h]
  dest h := inRange_of_use h (useOf_qbcst ..) ⟨_, List.mem_cons_self .., rfl, rfl⟩

/-! ### bfly (R269) -/

/-- How far a lane's partner is: B modulo W. -/
def Ctx.bflyStep (c : Ctx) (f : FmtR) (l : Nat) : Nat := (c.w.rd f.b l).toNat % c.width

/-- The register of the pair that a lane writes. -/
def Ctx.bflyWritten (c : Ctx) (f : FmtR) (l : Nat) : BitVec 8 := if l &&& c.bflyStep f l = 0 then f.a else f.d

/-- The register of the pair that a lane reads from its partner. -/
def Ctx.bflySource (c : Ctx) (f : FmtR) (l : Nat) : BitVec 8 := if l &&& c.bflyStep f l = 0 then f.d else f.a

/-- The key of what a lane reads from its partner. -/
def Ctx.bflyKey (c : Ctx) (f : FmtR) (l : Nat) : RegKey := keyOf (c.bflySource f l) (l ^^^ c.bflyStep f l)

/-- The warp after the exchange of every unit, each with its partner's value in the warp before. -/
def Ctx.bflyWarp (c : Ctx) (f : FmtR) : Warp :=
  c.w.wrLanes (c.bflyWritten f) (fun l => c.w.rd (c.bflySource f l) (l ^^^ c.bflyStep f l))
    (unitsOf f.d (c.execs (.bfly f)))

section
variable {f : FmtR} {s : State} {c : Ctx}

/-- The pair is of one kind: each of its registers is read and written (R230). -/
theorem isScalar_bfly (h : Issues (.bfly f) s c) : isScalar f.a = isScalar f.d := by
  have hu := useOf_bfly c.env f
  have hd : (bothOp f.d 1 false).lateWait ∈ (useExchange f (.bothLate 1) (.bothLate 1) .zero).ops :=
    List.mem_cons_self ..
  have ha : (bothOp f.a 1 (f.ea.getLsbD 0)).lateWait ∈ (useExchange f (.bothLate 1) (.bothLate 1) .zero).ops :=
    List.mem_cons_of_mem _ (List.mem_cons_self ..)
  rw [Bool.eq_iff_iff]
  exact ⟨isScalar_of_uniform h hu ha hd rfl rfl, isScalar_of_uniform h hu hd ha rfl rfl⟩

theorem isScalar_bflyWritten (h : Issues (.bfly f) s c) (l : Nat) : isScalar (c.bflyWritten f l) = isScalar f.d := by
  unfold Ctx.bflyWritten
  split
  · exact isScalar_bfly h
  · rfl

/-- The model's writes, lane by lane, are those of the warp after the exchange. -/
theorem foldl_bfly (c : Ctx) (f : FmtR) (ls : List Nat) (w : Warp) :
    ls.foldl (fun (w : Warp) l =>
      if l &&& c.bflyStep f l == 0 then w.wr f.a l (c.w.rd f.d (l ^^^ c.bflyStep f l))
      else w.wr f.d l (c.w.rd f.a (l ^^^ c.bflyStep f l))) w =
    w.wrLanes (c.bflyWritten f) (fun l => c.w.rd (c.bflySource f l) (l ^^^ c.bflyStep f l)) ls := by
  unfold Warp.wrLanes Ctx.bflyWritten Ctx.bflySource
  congr 1
  funext w l
  by_cases hl : l &&& c.bflyStep f l = 0
  · simp [hl]
  · simp [hl]

/-- A `bfly` whose sources can be read and whose registers are full exchanges. -/
theorem exec_bfly_ready (h : Issues (.bfly f) s c)
    (hr : ∀ l ∈ unitsOf f.d (c.execs (.bfly f)), c.w.Readable (c.bflyKey f l))
    (hd : emptyLanes c.w c.sp.lanes (dstOp f.d 1) = 0) (ha : emptyLanes c.w c.sp.lanes (dstOp f.a 1) = 0) :
    exec (.bfly f) s = .next (c.after (.bfly f) (c.bflyWarp f)) := by
  rw [exec_bfly, execBfly, issue_of_issues h]
  refine (exchange_ready _ _ (List.forall_mem_map.2 fun l hl => ?_) (by simp [hd, ha])).trans ?_
  · have := hr l hl
    unfold Ctx.bflyKey Ctx.bflySource Ctx.bflyStep at this
    by_cases hb : l &&& (c.w.rd f.b l).toNat % c.width = 0
    · simpa [hb] using this
    · simpa [hb] using this
  · exact congrArg (fun w => Host.Outcome.next (c.after (.bfly f) w)) (foldl_bfly c f _ c.w)

/-- Each unit's written register holds its partner's other one. -/
theorem rd_bflyWarp (h : Issues (.bfly f) s c) {l : Nat} (hl : l ∈ unitsOf f.d (c.execs (.bfly f))) :
    (c.bflyWarp f).rd (c.bflyWritten f l) l = c.w.rd (c.bflySource f l) (l ^^^ c.bflyStep f l) :=
  rd_wrLanes _ _ _ _ (nodup_keys_unitsOf (isScalar_bflyWritten h) _) hl

end

/-! ### The obligation -/

/-- Settles O10: each shuffle by its source lane, `bfly` by the warp that its units' writes leave. -/
theorem exchangesBetweenLanes : Obligations.ExchangesBetweenLanes := by
  unfold Obligations.ExchangesBetweenLanes
  refine ⟨fun p hp => ?_, fun f s c h => ?_⟩
  · have hs : Shuffles p := by
      simp only [List.mem_cons, List.not_mem_nil, or_false] at hp
      rcases hp with rfl | rfl | rfl | rfl
      · exact shuffles_shfl
      · simpa only [segmentLane_eq] using shuffles_shflb
      · simpa only [quadLane_xor] using shuffles_qswp
      · exact shuffles_qbcst
    intro f s c h source hr hd
    rw [hs.meaning h]
    exact result_shuffle (hs.dest h) hr hd
  · intro d written source hr hd ha
    exact ⟨_, c.bflyWarp f, exec_bfly_ready h hr hd ha, rfl, wrLanes_only .., fun l hl => rd_bflyWarp h hl,
      fun k hk => wrLanes_frame _ _ _ _ hk⟩

end Sys2Proof.Machine
end
